-- ==== Sys2Proof/Word.lean ====
section
/-!
DEFINITION. The plain widths of the machine: bytes, 32-bit instruction words, 64-bit data words.
-/
namespace Sys2Proof

/-- The smallest addressable unit (R5). -/
abbrev Byte := BitVec 8

/-- The data view of a general register (R39) and every 64-bit control register. -/
abbrev Word := BitVec 64

/-- A 6-bit register field: g0 to g55, then q0 to q7 (R72). -/
abbrev RegField := BitVec 6

/-- A 4-bit vector register field, v0 to v15 (R72). -/
abbrev VecField := BitVec 4

end Sys2Proof
end

