-- ==== Sys2Proof/Machine/Bits.lean ====
section
/-!
DEFINITION. Bit fields, extensions and byte order (R5, R6), over natural numbers and bit vectors.
-/
namespace Sys2Proof.Machine

/-- Bits `hi..lo` of `w` as a number. -/
def bits (w hi lo : Nat) : Nat := w / 2 ^ lo % 2 ^ (hi + 1 - lo)

/-- The `n` bits of `w` from bit `lo` upward. -/
def fld (n w lo : Nat) : BitVec n := BitVec.ofNat n (w / 2 ^ lo)

/-- sext of R6: the value sign-extended to 64 bits. -/
def sext64 {n : Nat} (x : BitVec n) : Word := x.signExtend 64

/-- zext of R6: the value zero-extended to 64 bits. -/
def zext64 {n : Nat} (x : BitVec n) : Word := x.setWidth 64

/-- Bit `n` of a number as a truth value. -/
def bitOf (w n : Nat) : Bool := w.testBit n

/-- The two's complement reading of the low `n` bits of `x`. -/
def toSigned (n x : Nat) : Int :=
  let y := x % 2 ^ n
  if y < 2 ^ (n - 1) then (y : Int) else (y : Int) - (2 ^ n : Nat)

/-- The low `n` bits of an integer, as a number. -/
def ofSigned (n : Nat) (z : Int) : Nat := (z % (2 ^ n : Nat)).toNat

/-- Little-endian: the number whose bytes, lowest address first, are the list (R5). -/
def ofBytesLE : List Byte → Nat
  | [] => 0
  | b :: bs => b.toNat + 256 * ofBytesLE bs

/-- The `n` bytes of `x`, lowest address first (R5). -/
def toBytesLE : Nat → Nat → List Byte
  | 0, _ => []
  | n + 1, x => BitVec.ofNat 8 x :: toBytesLE n (x / 256)

/-- Whether some bit of `w` outside the bits of `mask` is set. -/
def reservedSet (w mask : Nat) : Bool := Nat.land w mask != w

/-- Rounding up to a multiple of `k`. -/
def roundUp (x k : Nat) : Nat := (x + k - 1) / k * k

/-- The quotient rounded up. -/
def ceilDiv (x k : Nat) : Nat := (x + k - 1) / k

/-- The position of the highest set bit, 0 for 0 and 1. -/
def log2 (x : Nat) : Nat := Nat.log2 x

/-- The truth value as a number. -/
def b2n (b : Bool) : Nat := if b then 1 else 0

/-- The truth value as data. -/
def b2w (b : Bool) : Word := if b then 1 else 0

/-- Elements `x` of width `w`, element `i` in bits `[w(i+1)-1 : wi]` (R48). -/
def elemOf (w x i : Nat) : Nat := x / 2 ^ (w * i) % 2 ^ w

/-- The number whose elements of width `w` are the list, element 0 lowest. -/
def ofElems (w : Nat) : List Nat → Nat
  | [] => 0
  | e :: es => e % 2 ^ w + 2 ^ w * ofElems w es

/-- The elements of width `w` of `x`, the first `n` of them. -/
def elemsOf (w x n : Nat) : List Nat := (List.range n).map (elemOf w x)

end Sys2Proof.Machine
end

