-- ==== Sys2Proof/Config.lean ====
section
/-!
DEFINITION. What one part fixes or the manual leaves open, as constants without a body (assumption 4).
Nothing can be proved of their values. `Config.freeBit`, `Config.freeByte` and `Config.freeNat` are
applied to the counter `State.free`, so each choice is a fresh one.
-/
namespace Sys2Proof

/-- A free truth value: which of two allowed values an access returns (R136, R432, R323). -/
opaque Config.freeBit : Nat → Bool

/-- A free byte: the unbounded bytes of R4, R157 and R323. -/
opaque Config.freeByte : Nat → Byte

/-- A free choice among allowed numbers: a quire of a channel (R18), a core region (R304). -/
opaque Config.freeNat : Nat → Nat

/-- What an MMIO word holds where no register lies (R132). -/
opaque Config.mmioWord : Nat → Word

/-- Whether an ML-DSA-44 signature over the bytes verifies under the fused Birsor key (R330). -/
opaque Config.verifies : List Byte → List Byte → Bool

/-- The ML-DSA-44 signature of the bytes under the device's own key, 2,420 bytes (R332). -/
opaque Config.signature : List Byte → Vector Byte 2420

/-- The device's public key, 1,312 bytes (R332). -/
opaque Config.publicKey : Nat → Byte

/-- The fused minimum firmware version (R330). -/
opaque Config.minVersion : BitVec 32

/-- The defect-map signature of a set of disabled quires (R331). -/
opaque Config.defectSignature : List Nat → Word

/-- The CRC of flit bytes 0 to 241, as bytes 242 to 249 (R255). -/
opaque Config.flitCrc : List Byte → Vector Byte 8

/-- The FEC over flit bytes 0 to 249, as bytes 250 to 255 (R255). -/
opaque Config.flitFecOf : List Byte → Vector Byte 6

/-- What the FEC makes of a received flit (R255): the corrected 256 bytes. -/
opaque Config.flitFec : List Byte → Vector Byte 256

end Sys2Proof
end

