-- ==== Sys2Proof/Syntax.lean ====
section
/-!
DEFINITION. The one inductive of instructions: a constructor for every row of the opcode table.
Control words (R73), tile commands (R91), routine slots (R193) and the device's own steps, which
have no bits and come to the machine as acts of its agenda (95_what_each_step_holds.md).
-/
namespace Sys2Proof

/-- A member of a communicator as its member table names it: package and die (R265). -/
structure Member where
  pkg : BitVec 12
  die : BitVec 2
deriving DecidableEq, Repr, Inhabited

/-- The fields of a 256-bit tile command word (R91, R93, R94); the engine class and the tile op are
the constructor. Words 4 to 6 are kept whole, and each command reads its own fields from them. -/
structure Tile where
  /-- word 0: the engine class, which FOLD, SCAN and ZIP choose between 0 and 1 (R187) -/
  cls : BitVec 4
  d : RegField
  flags : BitVec 8
  x : RegField
  y : RegField
  z : RegField
  w : RegField
  shape : BitVec 8
  ha : BitVec 6
  hb : BitVec 6
  cnt : BitVec 8
  scope : BitVec 3
  srcFree : Bool
  visible : Bool
  jobDone : Bool
  inRing : BitVec 4
  inCount : BitVec 12
  outRing : BitVec 4
  outCount : BitVec 12
  w4 : BitVec 32
  w5 : BitVec 32
  w6 : BitVec 32
  p : RegField
deriving DecidableEq, Repr, Inhabited

/-- Why the decoder refuses a word (R75, R2, R71). -/
inductive Reject where
  /-- the list of bytes ends inside the word -/
  | tooShort
  /-- a major opcode that R75 does not assign -/
  | opcode
  /-- a function value that is not listed, or a nonzero reserved field beside it -/
  | function
  /-- a field rule is broken -/
  | fieldRule
deriving DecidableEq, Repr, Inhabited

/-- The instructions: one constructor per row of spec/opcode_table.json. The arguments of a control
word or a routine slot are the row's fields under the table's letters. -/
inductive Instr where
  /-- ADD (R340). Adds two general registers modulo 2^64. -/
  | add (d : BitVec 6) (a : BitVec 6) (b : BitVec 6)
  /-- SUB (R429). Subtracts b from a modulo 2^64. -/
  | sub (d : BitVec 6) (a : BitVec 6) (b : BitVec 6)
  /-- MUL (R400). Writes the low 64 bits of the product of a and b. -/
  | mul (d : BitVec 6) (a : BitVec 6) (b : BitVec 6)
  /-- MULH (R400). Writes the high 64 bits of the signed 128-bit product. -/
  | mulh (d : BitVec 6) (a : BitVec 6) (b : BitVec 6)
  /-- MULH_U (R400). Writes the high 64 bits of the unsigned 128-bit product. -/
  | mulhU (d : BitVec 6) (a : BitVec 6) (b : BitVec 6)
  /-- DIV (R363). Signed quotient truncated toward zero, all ones for division by zero. -/
  | div (d : BitVec 6) (a : BitVec 6) (b : BitVec 6)
  /-- DIV_U (R363). Unsigned quotient, all ones for division by zero. -/
  | divU (d : BitVec 6) (a : BitVec 6) (b : BitVec 6)
  /-- REM (R363). Signed remainder taking the sign of the dividend. -/
  | rem (d : BitVec 6) (a : BitVec 6) (b : BitVec 6)
  /-- REM_U (R363). Unsigned remainder, the dividend for division by zero. -/
  | remU (d : BitVec 6) (a : BitVec 6) (b : BitVec 6)
  /-- AND (R343). Bitwise AND of two registers. -/
  | and (d : BitVec 6) (a : BitVec 6) (b : BitVec 6)
  /-- ANDN (R343). Bitwise AND of a with the complement of b. -/
  | andn (d : BitVec 6) (a : BitVec 6) (b : BitVec 6)
  /-- OR (R403). Bitwise OR of two registers. -/
  | or (d : BitVec 6) (a : BitVec 6) (b : BitVec 6)
  /-- XOR (R449). Bitwise exclusive OR of two registers. -/
  | xor (d : BitVec 6) (a : BitVec 6) (b : BitVec 6)
  /-- SHL (R423). Shifts a left by b[5:0] with zero fill. -/
  | shl (d : BitVec 6) (a : BitVec 6) (b : BitVec 6)
  /-- SHR (R423). Shifts a right logically by b[5:0]. -/
  | shr (d : BitVec 6) (a : BitVec 6) (b : BitVec 6)
  /-- SHR_A (R423). Shifts a right arithmetically by b[5:0]. -/
  | shrA (d : BitVec 6) (a : BitVec 6) (b : BitVec 6)
  /-- ROT (R423). Rotates a right by b[5:0]. -/
  | rot (d : BitVec 6) (a : BitVec 6) (b : BitVec 6)
  /-- MIN (R395). Writes the signed lesser of a and b. -/
  | min (d : BitVec 6) (a : BitVec 6) (b : BitVec 6)
  /-- MIN_U (R395). Writes the unsigned lesser of a and b. -/
  | minU (d : BitVec 6) (a : BitVec 6) (b : BitVec 6)
  /-- MAX (R395). Writes the signed greater of a and b. -/
  | max (d : BitVec 6) (a : BitVec 6) (b : BitVec 6)
  /-- MAX_U (R395). Writes the unsigned greater of a and b. -/
  | maxU (d : BitVec 6) (a : BitVec 6) (b : BitVec 6)
  /-- SEL (R419). Writes a if d is nonzero, else b. -/
  | sel (d : BitVec 6) (a : BitVec 6) (b : BitVec 6)
  /-- CLZ (R353). Counts the leading zero bits of a. -/
  | clz (d : BitVec 6) (a : BitVec 6)
  /-- CTZ (R353). Counts the trailing zero bits of a. -/
  | ctz (d : BitVec 6) (a : BitVec 6)
  /-- POPC (R353). Counts the set bits of a. -/
  | popc (d : BitVec 6) (a : BitVec 6)
  /-- SET (R421). Writes 1 if the encoded comparison of a and b holds, else 0. -/
  | set (d : BitVec 6) (a : BitVec 6) (b : BitVec 6) (c : BitVec 3)
  /-- ADDSH (R340). Writes (a shifted left by 1 to 4) plus b. -/
  | addsh (d : BitVec 6) (a : BitVec 6) (b : BitVec 6) (s : BitVec 2)
  /-- ADDI (R340). Adds a sign-extended 14-bit immediate. -/
  | addi (d : BitVec 6) (a : BitVec 6) (i : BitVec 14)
  /-- NOP (R402). Alias of addi g0, g0, 0 with no effect. -/
  | nop
  /-- ANDI (R343). ANDs a with a sign-extended immediate. -/
  | andi (d : BitVec 6) (a : BitVec 6) (i : BitVec 14)
  /-- ORI (R403). ORs a with a sign-extended immediate. -/
  | ori (d : BitVec 6) (a : BitVec 6) (i : BitVec 14)
  /-- XORI (R449). XORs a with a sign-extended immediate. -/
  | xori (d : BitVec 6) (a : BitVec 6) (i : BitVec 14)
  /-- SHI (R423). Shifts or rotates a by an immediate amount of the encoded kind. -/
  | shi (d : BitVec 6) (a : BitVec 6) (k : BitVec 2) (s : BitVec 6)
  /-- SETI (R421). Writes 1 if a compares true against a sign-extended 11-bit immediate. -/
  | seti (d : BitVec 6) (a : BitVec 6) (c : BitVec 3) (i : BitVec 11)
  /-- MOVI (R397). Writes a sign-extended 20-bit immediate. -/
  | movi (d : BitVec 6) (i : BitVec 20)
  /-- MOVHI (R397). Shifts d left by 20 and ORs in a zero-extended immediate. -/
  | movhi (d : BitVec 6) (i : BitVec 20)
  /-- MULI (R400). Multiplies a by a sign-extended immediate, low 64 bits. -/
  | muli (d : BitVec 6) (a : BitVec 6) (i : BitVec 14)
  /-- FADD (R367). Scalar floating add rounded in the encoded mode. -/
  | fadd (d : BitVec 6) (a : BitVec 6) (b : BitVec 6) (t : BitVec 2) (r : BitVec 2)
  /-- FSUB (R367). Scalar floating subtract. -/
  | fsub (d : BitVec 6) (a : BitVec 6) (b : BitVec 6) (t : BitVec 2) (r : BitVec 2)
  /-- FMUL (R367). Scalar floating multiply. -/
  | fmul (d : BitVec 6) (a : BitVec 6) (b : BitVec 6) (t : BitVec 2) (r : BitVec 2)
  /-- FDIV (R367). Scalar floating divide. -/
  | fdiv (d : BitVec 6) (a : BitVec 6) (b : BitVec 6) (t : BitVec 2) (r : BitVec 2)
  /-- FSQRT (R367). Scalar floating square root. -/
  | fsqrt (d : BitVec 6) (a : BitVec 6) (t : BitVec 2) (r : BitVec 2)
  /-- FMIN (R374). Floating minimum with NaN and signed-zero rules. -/
  | fmin (d : BitVec 6) (a : BitVec 6) (b : BitVec 6) (t : BitVec 2)
  /-- FMAX (R374). Floating maximum with NaN and signed-zero rules. -/
  | fmax (d : BitVec 6) (a : BitVec 6) (b : BitVec 6) (t : BitVec 2)
  /-- FSET_EQ (R376). Writes 1 if a equals b as floating values. -/
  | fsetEq (d : BitVec 6) (a : BitVec 6) (b : BitVec 6) (t : BitVec 2)
  /-- FSET_LT (R376). Writes 1 if a is less than b. -/
  | fsetLt (d : BitVec 6) (a : BitVec 6) (b : BitVec 6) (t : BitVec 2)
  /-- FSET_LE (R376). Writes 1 if a is less than or equal to b. -/
  | fsetLe (d : BitVec 6) (a : BitVec 6) (b : BitVec 6) (t : BitVec 2)
  /-- FSET_UN (R376). Writes 1 if a or b is NaN. -/
  | fsetUn (d : BitVec 6) (a : BitVec 6) (b : BitVec 6) (t : BitVec 2)
  /-- FCLASS (R369). Writes a one-hot class mask of a floating value. -/
  | fclass (d : BitVec 6) (a : BitVec 6) (t : BitVec 2)
  /-- FNEG (R366). Inverts the sign of a number; NaN gives the canonical NaN. -/
  | fneg (d : BitVec 6) (a : BitVec 6) (t : BitVec 2)
  /-- FABS (R366). Clears the sign of a number; NaN gives the canonical NaN. -/
  | fabs (d : BitVec 6) (a : BitVec 6) (t : BitVec 2)
  /-- FMA_FP32 (R373). FP32 fused multiply-add with one rounding. -/
  | fmaFp32 (d : BitVec 6) (a : BitVec 6) (b : BitVec 6) (c : BitVec 6) (r : BitVec 2)
  /-- FMA_FP16 (R373). FP16 fused multiply-add with one rounding. -/
  | fmaFp16 (d : BitVec 6) (a : BitVec 6) (b : BitVec 6) (c : BitVec 6) (r : BitVec 2)
  /-- FCVT (R370). Converts a between format codes in the encoded rounding mode. -/
  | fcvt (d : BitVec 6) (a : BitVec 6) (s : BitVec 4) (e : BitVec 4) (r : BitVec 2)
  /-- CBND (R349). Narrows a capability to a length, rounding the bounds outward. -/
  | cbnd (d : BitVec 6) (a : BitVec 6) (b : BitVec 6)
  /-- CBND_X (R349). Narrows a capability exactly, faulting if rounding is needed. -/
  | cbndX (d : BitVec 6) (a : BitVec 6) (b : BitVec 6)
  /-- CPRM (R359). ANDs a capability's permissions with b[15:0]. -/
  | cprm (d : BitVec 6) (a : BitVec 6) (b : BitVec 6)
  /-- CGET_BASE (R351). Writes the decoded base of a capability. -/
  | cgetBase (d : BitVec 6) (a : BitVec 6)
  /-- CGET_LEN (R351). Writes the length of a capability. -/
  | cgetLen (d : BitVec 6) (a : BitVec 6)
  /-- CGET_PERM (R351). Writes the permission bits of a capability. -/
  | cgetPerm (d : BitVec 6) (a : BitVec 6)
  /-- CGET_TAG (R351). Writes 1 if a holds a valid tagged capability. -/
  | cgetTag (d : BitVec 6) (a : BitVec 6)
  /-- CCLR (R350). Writes a's address as untagged data. -/
  | cclr (d : BitVec 6) (a : BitVec 6)
  /-- CADD (R345). Offsets a capability's address by b, clearing the tag if unrepresentable. -/
  | cadd (d : BitVec 6) (a : BitVec 6) (b : BitVec 6)
  /-- LD_C (R391). Loads 16 bytes and the granule tag into a register. -/
  | ldC (d : BitVec 6) (a : BitVec 6) (b : BitVec 6)
  /-- ST_C (R428). Stores 16 bytes and the register's tag into memory. -/
  | stC (d : BitVec 6) (a : BitVec 6) (b : BitVec 6)
  /-- CADDI (R345). Offsets a capability's address by an immediate. -/
  | caddi (d : BitVec 6) (a : BitVec 6) (i : BitVec 14)
  /-- B (R344). Conditional branch by a word offset. -/
  | b (a : BitVec 6) (b : BitVec 6) (c : BitVec 3) (o : BitVec 11)
  /-- J (R383). Unconditional jump by a 26-bit word offset. -/
  | j (o : BitVec 26)
  /-- JAL (R384). Jumps by a word offset and writes the link. -/
  | jal (d : BitVec 6) (i : BitVec 20)
  /-- JR (R385). Jumps through a register, replacing the fetch capability if tagged. -/
  | jr (d : BitVec 6) (a : BitVec 6) (i : BitVec 14)
  /-- LD (R390). Loads 1 to 8 bytes, optionally as an acquire. -/
  | ld (d : BitVec 6) (a : BitVec 6) (s : BitVec 2) (o : BitVec 3) (c : BitVec 3) (f : BitVec 6)
  /-- ST (R427). Stores 1 to 8 bytes, optionally as a release. -/
  | st (d : BitVec 6) (a : BitVec 6) (s : BitVec 2) (o : BitVec 3) (c : BitVec 3) (f : BitVec 6)
  /-- LD_X (R390). Loads with a scaled register index. -/
  | ldX (d : BitVec 6) (a : BitVec 6) (s : BitVec 2) (o : BitVec 3) (c : BitVec 3) (i : BitVec 6)
  /-- ST_X (R427). Stores with a scaled register index. -/
  | stX (d : BitVec 6) (a : BitVec 6) (s : BitVec 2) (o : BitVec 3) (c : BitVec 3) (i : BitVec 6)
  /-- AMO (R341). Indivisible read-modify-write at .pkg scope returning the old value. -/
  | amo (d : BitVec 6) (a : BitVec 6) (b : BitVec 6) (p : BitVec 4) (o : BitVec 2) (z : BitVec 2)
  /-- CAS (R346). Indivisible compare-and-swap returning the old value. -/
  | cas (d : BitVec 6) (a : BitVec 6) (b : BitVec 6) (o : BitVec 2) (z : BitVec 2)
  /-- FENCE (R148). Orders accesses of the before-set before the after-set within a scope. -/
  | fence (b : BitVec 4) (a : BitVec 4) (s : BitVec 3)
  /-- PREF (R406). Prefetches 1 to 8 lines toward the quire without faulting on translation. -/
  | pref (a : BitVec 6) (s : BitVec 2) (f : BitVec 6)
  /-- SBIND (R417). Binds a stream register to a copy stream, channel, send queue or result FIFO. -/
  | sbind (d : BitVec 6) (a : BitVec 6) (k : BitVec 2)
  /-- SFREE (R422). Unbinds a stream register and discards unpopped elements. -/
  | sfree (d : BitVec 6)
  /-- SEND (R249). Pushes one 8-byte payload toward a channel of a ranked core. -/
  | send (a : BitVec 6) (b : BitVec 6) (c : BitVec 8)
  /-- RLD (R410). Split-phase remote load leaving its destination pending. -/
  | rld (d : BitVec 6) (a : BitVec 6) (s : BitVec 2) (o : BitVec 3) (c : BitVec 3) (f : BitVec 6)
  /-- RST (R411). Split-phase remote store counted in REPLIES. -/
  | rst (d : BitVec 6) (a : BitVec 6) (s : BitVec 2) (o : BitVec 3) (c : BitVec 3) (f : BitVec 6)
  /-- RAMO (R409). Split-phase remote atomic operation at .pod scope. -/
  | ramo (d : BitVec 6) (a : BitVec 6) (b : BitVec 6) (p : BitVec 4) (o : BitVec 2) (z : BitVec 2)
  /-- MWAIT (R401). Suspends until the thread's mailbox holds an entry. -/
  | mwait
  /-- MPOP (R398). Pops the oldest mailbox entry, acquiring the job's writes for VISIBLE and done kinds. -/
  | mpop (d : BitVec 6)
  /-- CNTW (R354). Stalls until a completion counter reaches a threshold. -/
  | cntw (a : BitVec 6) (k : BitVec 6) (h : BitVec 2)
  /-- CNTR (R354). Reads a completion counter as an acquire. -/
  | cntr (d : BitVec 6) (k : BitVec 6) (h : BitVec 2)
  /-- CNTS (R354). Sets a completion counter. -/
  | cnts (a : BitVec 6) (k : BitVec 6) (h : BitVec 2)
  /-- CNTA (R354). Adds to a completion counter. -/
  | cnta (a : BitVec 6) (k : BitVec 6) (h : BitVec 2)
  /-- CBADV_P (R347). Advances a ring's producer position as a release and waits for free slots. -/
  | cbadvP (a : BitVec 6) (n : BitVec 4)
  /-- CBADV_C (R347). Advances a ring's consumer position and waits for filled slots. -/
  | cbadvC (a : BitVec 6) (n : BitVec 4)
  /-- SPAWN (R17). Creates one continuation near the data named by b, inheriting priority. -/
  | spawn (d : BitVec 6) (a : BitVec 6) (b : BitVec 6)
  /-- SPAWN_P (R17). Creates one continuation with an explicit priority. -/
  | spawnP (d : BitVec 6) (a : BitVec 6) (b : BitVec 6) (p : BitVec 7)
  /-- SUSP_MBOX (R431). Suspends until the mailbox holds an entry. -/
  | suspMbox
  /-- SUSP_CNT (R431). Suspends until a counter reaches a threshold. -/
  | suspCnt (a : BitVec 6) (k : BitVec 8)
  /-- SUSP_JOB (R431). Suspends until a job is terminal. -/
  | suspJob (a : BitVec 6)
  /-- SUSP_STRM (R431). Suspends until a stream register holds an arrived element. -/
  | suspStrm (n : BitVec 3)
  /-- SUSP_TIME (R431). Suspends until pod time reaches the operand. -/
  | suspTime (a : BitVec 6)
  /-- SUSP_REPLY (R431). Suspends until REPLIES is zero. -/
  | suspReply
  /-- YIELD (R450). Writes the continuation back ready and gives up the slot. -/
  | yield
  /-- EXIT (R19). Waits for replies, leaves all huddles and ends the thread. -/
  | exit
  /-- JOIN (R22). Adds the thread to a huddle, creating it if needed. -/
  | join (a : BitVec 6)
  /-- LEAVE (R22). Removes the thread from a huddle, withdrawing any arrival. -/
  | leave (a : BitVec 6)
  /-- HBAR (R23). Arrives at a huddle barrier and waits for its release. -/
  | hbar (a : BitVec 6)
  /-- HBAR_ARRIVE (R23). Records the thread's arrival at a huddle barrier and continues. -/
  | hbarArrive (a : BitVec 6)
  /-- HBAR_WAIT (R23). Waits for the generation of the recorded arrival to release. -/
  | hbarWait (a : BitVec 6)
  /-- GANG (R26). Leader waits to form a gang with followers on neighbouring cores. -/
  | gang (n : BitVec 3)
  /-- GANG_F (R26). Follower waits to be taken into a gang. -/
  | gangF
  /-- UNGANG (R28). Disbands the gang and restores each member's own fetch. -/
  | ungang
  /-- JWAIT (R387). Suspends until a job is terminal, then acquires its writes. -/
  | jwait (a : BitVec 6)
  /-- JPOLL (R387). Returns a job's status word, acquiring on a terminal status. -/
  | jpoll (d : BitVec 6) (a : BitVec 6)
  /-- WHISTLE (R286). Arrives at a barrier domain and stalls until the phase releases. -/
  | whistle (a : BitVec 6)
  /-- SSEND (R291). Sends a timetabled buffer at its phase cycle offset. -/
  | ssend (a : BitVec 6)
  /-- SRECV (R291). Captures a timetabled transfer into a local buffer. -/
  | srecv (a : BitVec 6)
  /-- VADD (R437). Element-wise vector add. -/
  | vadd (d : BitVec 4) (a : BitVec 4) (b : BitVec 4) (e : BitVec 2) (m : BitVec 1) (s : BitVec 1) (t : BitVec 1) (h : BitVec 2) (c : BitVec 2)
  /-- VSUB (R437). Element-wise vector subtract. -/
  | vsub (d : BitVec 4) (a : BitVec 4) (b : BitVec 4) (e : BitVec 2) (m : BitVec 1) (s : BitVec 1) (t : BitVec 1) (h : BitVec 2) (c : BitVec 2)
  /-- VMUL (R437). Element-wise vector multiply. -/
  | vmul (d : BitVec 4) (a : BitVec 4) (b : BitVec 4) (e : BitVec 2) (m : BitVec 1) (s : BitVec 1) (t : BitVec 1) (h : BitVec 2) (c : BitVec 2)
  /-- VFMA (R437). Element-wise fused multiply-add into vd. -/
  | vfma (d : BitVec 4) (a : BitVec 4) (b : BitVec 4) (e : BitVec 2) (m : BitVec 1) (s : BitVec 1) (t : BitVec 1) (h : BitVec 2) (c : BitVec 2)
  /-- VMIN (R437). Element-wise minimum. -/
  | vmin (d : BitVec 4) (a : BitVec 4) (b : BitVec 4) (e : BitVec 2) (m : BitVec 1) (s : BitVec 1) (t : BitVec 1) (h : BitVec 2) (c : BitVec 2)
  /-- VMAX (R437). Element-wise maximum. -/
  | vmax (d : BitVec 4) (a : BitVec 4) (b : BitVec 4) (e : BitVec 2) (m : BitVec 1) (s : BitVec 1) (t : BitVec 1) (h : BitVec 2) (c : BitVec 2)
  /-- VAND (R437). Element-wise bitwise AND. -/
  | vand (d : BitVec 4) (a : BitVec 4) (b : BitVec 4) (e : BitVec 2) (m : BitVec 1) (s : BitVec 1) (t : BitVec 1) (h : BitVec 2) (c : BitVec 2)
  /-- VOR (R437). Element-wise bitwise OR. -/
  | vor (d : BitVec 4) (a : BitVec 4) (b : BitVec 4) (e : BitVec 2) (m : BitVec 1) (s : BitVec 1) (t : BitVec 1) (h : BitVec 2) (c : BitVec 2)
  /-- VXOR (R437). Element-wise bitwise XOR. -/
  | vxor (d : BitVec 4) (a : BitVec 4) (b : BitVec 4) (e : BitVec 2) (m : BitVec 1) (s : BitVec 1) (t : BitVec 1) (h : BitVec 2) (c : BitVec 2)
  /-- VSHL (R437). Element-wise shift left. -/
  | vshl (d : BitVec 4) (a : BitVec 4) (b : BitVec 4) (e : BitVec 2) (m : BitVec 1) (s : BitVec 1) (t : BitVec 1) (h : BitVec 2) (c : BitVec 2)
  /-- VSHR (R437). Element-wise arithmetic or logical shift right. -/
  | vshr (d : BitVec 4) (a : BitVec 4) (b : BitVec 4) (e : BitVec 2) (m : BitVec 1) (s : BitVec 1) (t : BitVec 1) (h : BitVec 2) (c : BitVec 2)
  /-- VSEL (R438). Element-wise select by the mask. -/
  | vsel (d : BitVec 4) (a : BitVec 4) (b : BitVec 4) (e : BitVec 2) (m : BitVec 1) (s : BitVec 1) (t : BitVec 1) (h : BitVec 2) (c : BitVec 2)
  /-- VSET (R446). Writes per-element comparison results into the mask. -/
  | vset (c : BitVec 4) (a : BitVec 4) (b : BitVec 4) (e : BitVec 2) (m : BitVec 1) (s : BitVec 1) (t : BitVec 1) (h : BitVec 2) (k : BitVec 2)
  /-- VEXP (R437). Element-wise exponential, RNE. -/
  | vexp (d : BitVec 4) (a : BitVec 4) (e : BitVec 2) (m : BitVec 1) (t : BitVec 1) (c : BitVec 2)
  /-- VRCP (R437). Element-wise reciprocal, RNE. -/
  | vrcp (d : BitVec 4) (a : BitVec 4) (e : BitVec 2) (m : BitVec 1) (t : BitVec 1) (c : BitVec 2)
  /-- VRSQ (R437). Element-wise reciprocal square root, RNE. -/
  | vrsq (d : BitVec 4) (a : BitVec 4) (e : BitVec 2) (m : BitVec 1) (t : BitVec 1) (c : BitVec 2)
  /-- VRED_ADD (R444). Pairwise-tree sum of active elements into element 0. -/
  | vredAdd (d : BitVec 4) (a : BitVec 4) (e : BitVec 2) (m : BitVec 1) (t : BitVec 1) (c : BitVec 2)
  /-- VRED_MIN (R444). Pairwise-tree minimum of active elements. -/
  | vredMin (d : BitVec 4) (a : BitVec 4) (e : BitVec 2) (m : BitVec 1) (t : BitVec 1) (c : BitVec 2)
  /-- VRED_MAX (R444). Pairwise-tree maximum of active elements. -/
  | vredMax (d : BitVec 4) (a : BitVec 4) (e : BitVec 2) (m : BitVec 1) (t : BitVec 1) (c : BitVec 2)
  /-- VPERM (R439). Permutes elements of va by indices. -/
  | vperm (d : BitVec 4) (a : BitVec 4) (b : BitVec 4) (e : BitVec 2) (m : BitVec 1) (s : BitVec 1) (t : BitVec 1) (h : BitVec 2)
  /-- VBCAST (R439). Broadcasts va[0] or a scalar to every active element. -/
  | vbcast (d : BitVec 4) (a : BitVec 4) (b : BitVec 4) (e : BitVec 2) (m : BitVec 1) (s : BitVec 1) (t : BitVec 1) (h : BitVec 2) (c : BitVec 2)
  /-- VIDX (R439). Writes each element's index. -/
  | vidx (d : BitVec 4) (e : BitVec 2) (m : BitVec 1) (t : BitVec 1)
  /-- VMOVG (R443). Moves between a general register and the mask or element 0. -/
  | vmovg (d : BitVec 4) (k : BitVec 4) (b : BitVec 4) (e : BitVec 2) (t : BitVec 1) (h : BitVec 2)
  /-- VCVT (R440). Converts vector elements between formats. -/
  | vcvt (d : BitVec 4) (a : BitVec 4) (s : BitVec 4) (m : BitVec 1) (t : BitVec 1) (e : BitVec 4)
  /-- VLD (R441). Contiguous vector load. -/
  | vld (d : BitVec 4) (a : BitVec 6) (e : BitVec 2) (o : BitVec 6) (m : BitVec 1)
  /-- VST (R441). Contiguous vector store. -/
  | vst (d : BitVec 4) (a : BitVec 6) (e : BitVec 2) (o : BitVec 6) (m : BitVec 1)
  /-- VLD_SHAPE (R441). Shape-strided vector load through a shape record. -/
  | vldShape (d : BitVec 4) (a : BitVec 6) (e : BitVec 2) (o : BitVec 6) (n : BitVec 5) (m : BitVec 1)
  /-- VST_SHAPE (R441). Shape-strided vector store through a shape record. -/
  | vstShape (d : BitVec 4) (a : BitVec 6) (e : BitVec 2) (o : BitVec 6) (n : BitVec 5) (m : BitVec 1)
  /-- VSEQ (R165). Places a vector body in the sequencer and replays it for a pass count. -/
  | vseq (l : BitVec 4) (b : BitVec 4) (h : BitVec 2)
  /-- VSETL (R160). Sets the vector length. -/
  | vsetl (b : BitVec 4) (h : BitVec 2)
  /-- CKPT (R316). Marks a checkpoint and saves the live set if pre-emption is pending. -/
  | ckpt (i : BitVec 20)
  /-- CSRR (R360). Reads a control register. -/
  | csrr (d : BitVec 6) (n : BitVec 12)
  /-- CSRW (R360). Writes a control register, applying its write rule. -/
  | csrw (a : BitVec 6) (n : BitVec 12)
  /-- CSRX (R360). Exchanges a control register with a general register. -/
  | csrx (d : BitVec 6) (a : BitVec 6) (n : BitVec 12)
  /-- TRAP (R434). Raises cause TRAP with the code after completing. -/
  | trap (c : BitVec 12)
  /-- ERET (R364). Privileged return to EPC. -/
  | eret
  /-- IDLE (R382). Privileged stall until a mailbox entry or pre-emption request. -/
  | idle
  /-- SYNCI (R432). Makes stores visible to fetch for a 4 KiB range. -/
  | synci (a : BitVec 6)
  /-- TLBI (R139). Privileged TLB shootdown held until acknowledged. -/
  | tlbi (a : BitVec 6)
  /-- MMA (R174). Pushes a matrix multiply-accumulate job into an accumulator tag. -/
  | mma (c : Tile)
  /-- ACCRD (R180). Pushes a job converting an accumulator tag out to memory. -/
  | accrd (c : Tile)
  /-- ACCREL (R179). Pushes a job releasing an accumulator tag's slot. -/
  | accrel (c : Tile)
  /-- OUTER (R199). Pushes an outer-product job with combine and reduce routines. -/
  | outer (c : Tile)
  /-- FOLD (R198). Pushes a routine reduction along one axis. -/
  | fold (c : Tile)
  /-- SCAN (R418). Pushes a routine prefix computation along one axis. -/
  | scan (c : Tile)
  /-- ZIP (R451). Pushes an element-wise routine job over 1 to 3 inputs. -/
  | zip (c : Tile)
  /-- COPY (R208). Pushes an asynchronous tensor copy with optional conversion. -/
  | copy (c : Tile)
  /-- GET (R220). Pushes an indexed row gather. -/
  | get (c : Tile)
  /-- PUT (R220). Pushes an indexed row scatter where the last position wins. -/
  | put (c : Tile)
  /-- PUT_ADD (R220). Pushes an indexed scatter-add combining duplicates per window. -/
  | putAdd (c : Tile)
  /-- PACK (R230). Pushes a job encoding tiles into block records, optionally sparse. -/
  | pack (c : Tile)
  /-- COMPACT (R232). Pushes a token compaction job by keep mask. -/
  | compact (c : Tile)
  /-- QFENCE (R408). Pushes a fence on the thread's copy queue. -/
  | qfence (c : Tile)
  /-- LOOKUP (R241). Pushes a product-key match, gather and weighted sum. -/
  | lookup (c : Tile)
  /-- COLL (R263). Pushes a collective operation over a communicator. -/
  | coll (c : Tile)
  /-- RMOV (R413). Routine register move. -/
  | rmov (t : BitVec 3) (a : BitVec 3)
  /-- RADD (R413). Routine add in the working format. -/
  | radd (t : BitVec 3) (a : BitVec 3) (b : BitVec 3)
  /-- RSUB (R413). Routine subtract. -/
  | rsub (t : BitVec 3) (a : BitVec 3) (b : BitVec 3)
  /-- RMUL (R413). Routine multiply. -/
  | rmul (t : BitVec 3) (a : BitVec 3) (b : BitVec 3)
  /-- RFMA (R413). Routine fused multiply-add into t. -/
  | rfma (t : BitVec 3) (a : BitVec 3) (b : BitVec 3)
  /-- RMIN (R413). Routine minimum. -/
  | rmin (t : BitVec 3) (a : BitVec 3) (b : BitVec 3)
  /-- RMAX (R413). Routine maximum. -/
  | rmax (t : BitVec 3) (a : BitVec 3) (b : BitVec 3)
  /-- RNEG (R413). Routine negate. -/
  | rneg (t : BitVec 3) (a : BitVec 3)
  /-- RABS (R413). Routine absolute value. -/
  | rabs (t : BitVec 3) (a : BitVec 3)
  /-- RCMPLT (R413). Routine less-than comparison. -/
  | rcmplt (t : BitVec 3) (a : BitVec 3) (b : BitVec 3)
  /-- RCMPEQ (R413). Routine equality comparison. -/
  | rcmpeq (t : BitVec 3) (a : BitVec 3) (b : BitVec 3)
  /-- RSEL (R413). Routine select by t. -/
  | rsel (t : BitVec 3) (a : BitVec 3) (b : BitVec 3)
  /-- RAND (R413). Routine bitwise AND. -/
  | rand (t : BitVec 3) (a : BitVec 3) (b : BitVec 3)
  /-- ROR (R413). Routine bitwise OR. -/
  | ror (t : BitVec 3) (a : BitVec 3) (b : BitVec 3)
  /-- RXOR (R413). Routine bitwise XOR. -/
  | rxor (t : BitVec 3) (a : BitVec 3) (b : BitVec 3)
  /-- RSHL (R413). Routine shift left, integer formats only. -/
  | rshl (t : BitVec 3) (a : BitVec 3) (b : BitVec 3)
  /-- RSHR (R413). Routine logical or arithmetic shift right. -/
  | rshr (t : BitVec 3) (a : BitVec 3) (b : BitVec 3) (m : BitVec 1)
  /-- RCVT (R413). Routine rounding to a narrower format expressed back in F. -/
  | rcvt (t : BitVec 3) (a : BitVec 3) (g : BitVec 3)
  /-- REXP (R413). Routine exponential. -/
  | rexp (t : BitVec 3) (a : BitVec 3)
  /-- RCONST (R413). Loads a 16-bit literal from the next slot into t. -/
  | rconst (l : BitVec 16) (t : BitVec 3)
  /-- RRET (R413). Ends the routine invocation with t0 as result. -/
  | rret
  /-- SLOT_STALL_END (R46). A stalled instruction completes once its pops, pushes, reply or wait condition can be satisfied. -/
  | slotStallEnd
  /-- VECTOR_ENTRY_BIND (R164). Each engine cycle a free lane group binds a ready sequencer head by weighted round-robin. -/
  | vectorEntryBind (quire : Nat) (core : Nat) (lane : Nat)
  /-- TRAP_ENTRY (R311). At an instruction boundary a raised or pending trap writes CAUSE, TVAL, EPC and enters TBASE or faults the thread. -/
  | trapEntry
  /-- WRITE_BACK (R12). After the sequencer drains, a thread at a failing suspension point is written back to its frame. -/
  | writeBack
  /-- WAKE_UP (R13). A suspended continuation becomes ready when its wait condition holds. -/
  | wakeUp (launch : Nat) (tid : Nat)
  /-- PICKUP (R307). A free slot picks up the first eligible ready continuation and restores its state. -/
  | pickup (quire : Nat) (core : Nat) (slot : Nat)
  /-- PREEMPTION_REQUEST (R307). The command processor requests pre-emption of the slot whose tier ratio is greatest. -/
  | preemptionRequest (launch : Nat) (tid : Nat)
  /-- FORCED_SAVE (R322). 500 µs after a pre-emption request without CKPT the slot is force-saved. -/
  | forcedSave
  /-- ACCOUNTING_ROUND (R307). At each 250 µs round boundary tier charges return to zero. -/
  | accountingRound
  /-- JOB_START (R182). An engine takes the oldest job of the next core by weighted round-robin and starts it. -/
  | jobStart (cls : Nat) (unit : Nat) (core : Nat)
  /-- TICKET_GRANT (R227). The drain port grants a job's ticket once fewer than 65,536 are outstanding. -/
  | ticketGrant (job : Nat)
  /-- SRC_FREE (R152). A job posts SRC_FREE after its last source read, advancing an input ring. -/
  | srcFree (job : Nat)
  /-- VISIBLE (R152). A job posts VISIBLE once its writes are visible at its scope, advancing an output ring. -/
  | visible (job : Nat)
  /-- JOB_DONE (R152). A job reaches a terminal status, places its progress record and posts JOB_DONE or COLL_DONE. -/
  | jobDone (job : Nat)
  /-- COPY_STREAM_ELEMENT (R212). A streaming copy delivers an element into its bound buffer when there is room. -/
  | copyStreamElement (job : Nat) (member : Nat)
  /-- MESSAGE_ARRIVAL (R247). An arriving message enters the matching binding or the receive queue. -/
  | messageArrival (ctx : BitVec 6) (chan : BitVec 8) (quire : Nat) (core : Nat) (payload : Word)
  /-- REMOTE_REQUEST (R155). The serving port translates and performs an RLD, RST or RAMO request and replies. -/
  | remoteRequest (n : Nat)
  /-- RLD_REPLY (R253). An RLD reply writes the pending register or the saved frame and decrements REPLIES. -/
  | rldReply (n : Nat) (data : Word)
  /-- RST_ACKNOWLEDGEMENT (R252). An RST acknowledgement decrements REPLIES. -/
  | rstAcknowledgement (n : Nat)
  /-- RAMO_REPLY (R253). A RAMO reply writes the old value and decrements REPLIES. -/
  | ramoReply (n : Nat) (data : Word)
  /-- FAULT_REPLY (R254). A fault reply zeroes the pending register and queues REMOTE_FAULT. -/
  | faultReply (n : Nat) (reason : BitVec 4)
  /-- REMOTE_TIMEOUT (R254). A request without reply for 10 ms produces a local fault reply. -/
  | remoteTimeout (n : Nat)
  /-- FLIT_RECEIVE (R255). A received flit is corrected by FEC and checked by CRC, requesting replay on failure. -/
  | flitReceive (port : Nat) (flit : List Byte)
  /-- LINK_RETRAIN (R255). After 16 replays of one flit the link retrains. -/
  | linkRetrain (port : Nat) (ok : Bool)
  /-- ROUTE_CHANGE (R259). A route changes once every packet on the old route is acknowledged. -/
  | routeChange (pkg : BitVec 12) (route : Nat)
  /-- TIME_SYNC (R262). Link timestamps adjust TIME toward the reference, setting TSYNCLOST if it cannot hold. -/
  | timeSync (reference : Nat) (held : Bool)
  /-- TLBI_ACKNOWLEDGEMENT (R139). The shootdown is acknowledged once entries, walks, chunks and accesses are settled. -/
  | tlbiAcknowledgement
  /-- PARKED_WALK_RETRY (R138). A walk parked on MIG reads the leaf again after a TLBI or every 1 µs. -/
  | parkedWalkRetry
  /-- MIGRATION_TIMEOUT (R138). A walk reading MIG for 10 ms raises PAGE_FAULT reason 4. -/
  | migrationTimeout
  /-- DOORBELL (R100). A QPROD write makes packets present, halting with OVERFLOW on excess fill. -/
  | doorbell (fn : Nat) (queue : Nat) (value : Word)
  /-- LAUNCH_PACKET (R305). The command processor takes a launch packet, checks it and creates its threads or refuses it. -/
  | launchPacket (queue : Nat)
  /-- COUNTER_WAIT (R302). A counter-wait packet reads its word as an acquire and releases the queue when it reaches VALUE. -/
  | counterWait (queue : Nat)
  /-- VALUE_WRITE (R302). After earlier launches complete a value-write packet stores VALUE as a release. -/
  | valueWrite (queue : Nat)
  /-- NO_OP (R302). A no-op packet advances the queue. -/
  | noOp (queue : Nat)
  /-- LAUNCH_STATUS_WRITE (R305). When all threads and jobs of a launch end, its status word is written as a release. -/
  | launchStatusWrite (launch : Nat)
  /-- QCTL_ENABLE (R98). Writing the enable checks ring geometry, or clears a halt code and resumes at QCONS. -/
  | qctlEnable (fn : Nat) (queue : Nat) (value : Word)
  /-- QSCHED_WRITE (R300). Sets a queue's context, tier and priority for packets not yet started. -/
  | qschedWrite (fn : Nat) (queue : Nat) (value : Word)
  /-- TIERW_WRITE (R301). Sets tier weights, refused if all zero or one is too small. -/
  | tierwWrite (fn : Nat) (value : Word)
  /-- RESMAP_MARK (R141). Marks slice granules resident for a context within its quota. -/
  | resmapMark (value : Word)
  /-- RESMAP_UNMARK (R141). Unmarks resident slice granules. -/
  | resmapUnmark (value : Word)
  /-- RESMAP_SET_QUOTA (R141). Sets a context's residency quota on a quire. -/
  | resmapSetQuota (value : Word)
  /-- CNTWIN_WRITE (R57). Sets a context's counter window and zeroes its counters, or raises ILLEGAL. -/
  | cntwinWrite (value : Word)
  /-- ASIDCTL_WRITE (R56). Selects a context and optionally sets its translation enable. -/
  | asidctlWrite (value : Word)
  /-- RANKCNT_WRITE (R260). Sets the rank count and invalidates cached rank-table entries. -/
  | rankcntWrite (value : Word)
  /-- BDTAB_WRITE (R285). After open phases close, loads the domain table and withdraws pending WHISTLE arrivals. -/
  | bdtabWrite (value : Word)
  /-- PRIO_WRITE (R54). Sets thread priority, clamped to the queue's priority. -/
  | prioWrite (value : Word)
  /-- REGISTER_WRITE (R53). A write to a register with no behaviour of its own stores the value or is refused. -/
  | registerWrite (fn : Nat) (pa : Nat) (value : Word)
  /-- COLLCAN_WRITE (R274). Forwards a collective pair to the Referee for cancellation. -/
  | collcanWrite (fn : Nat) (value : Word)
  /-- ATTESTATION_GO (R332). Writing GO starts an attestation report. -/
  | attestationGo (fn : Nat) (value : Word)
  /-- ATTESTATION_REPORT (R332). The device writes the signed report and sets STATE done or failed. -/
  | attestationReport
  /-- PWRCTL_STATE_WRITE (R334). Sets an island on, in retention or off, or refuses. -/
  | pwrctlStateWrite (fn : Nat) (island : Nat) (value : Word)
  /-- PWRCTL_FSTEP_WRITE (R334). Requests an island's control clock step. -/
  | pwrctlFstepWrite (fn : Nat) (island : Nat) (value : Word)
  /-- DVFS_CHANGE (R298). A clock change takes effect once no open phase holds the island. -/
  | dvfsChange (island : Nat)
  /-- THROTTLE (R334). The power manager lowers CURSTEP to stay within 1,500 W. -/
  | throttle (island : Nat) (step : BitVec 4)
  /-- RAS_COUNTER_CLEAR (R336). A PF write clears a RAS counter. -/
  | rasCounterClear (fn : Nat) (k : Nat)
  /-- SCRUB (R326). Background scrub reads and corrects SRAM and HBM4 lines. -/
  | scrub (pa : Nat)
  /-- BOOT (R330). At reset the boot ROM verifies firmware, tests quires and builds the feature chain. -/
  | boot
  /-- REGISTRATION (R269). The Referee receives a registration, assigns a kickoff number and sends START when all have registered. -/
  | registration (commid : BitVec 32) (key : BitVec 32) (members : List Member) (who : Member) (deadline : Word)
  /-- START (R271). An engine starts a collective once START has arrived and all earlier numbers are done. -/
  | start (die : Nat)
  /-- BLOCK_FINAL (R281). A source block of the destination becomes final and its flag is written as a release. -/
  | blockFinal (job : Nat) (source : Nat)
  /-- NUMBER_CLOSE (R269). A number closes when every member has reported it terminal. -/
  | numberClose (num : BitVec 32)
  /-- DEADLINE_CANCEL (R273). A number not yet started is cancelled when pod time passes its deadline. -/
  | deadlineCancel (num : BitVec 32)
  /-- CANCEL_CLOSE (R273). A cancelled number closes 1 s after cancellation if not all have registered. -/
  | cancelClose (num : BitVec 32)
  /-- FAILOVER (R275). The standby takes over after 1 ms of silence from the primary. -/
  | failover
  /-- DOMAIN_RELEASE (R286). A barrier domain releases when all members have arrived and none is in another open phase. -/
  | domainRelease (domain : Nat)
  /-- PHASE_CLOSE (R286). The phase closes at phase cycle PLEN. -/
  | phaseClose (domain : Nat)
  /-- RELEASE_TIMEOUT (R287). Without release 1 ms after arrival every arrived member takes OUT_OF_SLOT reason 10. -/
  | releaseTimeout (domain : Nat)
  /-- SCHEDULED_ELEMENT (R290). A scheduled element arrives on a port and is captured by an SRECV window. -/
  | scheduledElement (quire : Nat) (core : Nat) (port : Nat) (payload : Word)
  /-- VECTOR_ENTRY_COMPLETION (R164). A bound vector sequencer entry completes after its engine cycles, freeing its lane group and its entry and making dependent entries and VMOVG results ready. -/
  | vectorEntryCompletion (quire : Nat) (lane : Nat)
  /-- SCHEDULED_ELEMENT_SEND (R290). At phase cycle OFFSET + j the sending interface reads element j of an SSEND buffer and sends it on the scheduled lane. -/
  | scheduledElementSend (quire : Nat) (core : Nat)
  /-- WINDOW_VISIBLE (R222). The writes of one GET or PUT window become visible at the job's scope, and with .row the counter is incremented by the window's position count. -/
  | windowVisible (job : Nat)
  /-- OWNER_CANCEL (R274). The Referee receives a pair forwarded from COLLCAN, cancels its number unless START was sent, and reports the outcome so that COLLCANST leaves pending. -/
  | ownerCancel (commid : BitVec 32) (key : BitVec 32)
  /-- PACKAGE_FAILURE (R258). A package of the pod fails, so routes detour around it, packets to it get REASON 8 and elements in flight toward it are lost. -/
  | packageFailure (pkg : BitVec 12)
  /-- HW_REPLICATION (R275). The primary Referee replicates its high-water mark and open-number table to the standby, and the standby's acknowledgement extends the range the primary may assign. -/
  | hwReplication
deriving DecidableEq, Repr

end Sys2Proof
end

