-- ==== Sys2Proof/Machine/State.lean ====
section
/-!
DEFINITION. The state of one package, as plain data, and the state after reset. One step of the
machine is one act of one agent (INVENTORY.md, Agents): the head of `State.agenda`, or, with an
empty agenda, the issue of the thread in focus.
-/
namespace Sys2Proof.Machine

/-! ## Registers -/

/-- A general register: 128 bits and a tag (R39). -/
structure Reg where
  val : BitVec 128
  tag : Bool
deriving DecidableEq, Repr, Inhabited

/-- The null capability, which is also the data value 0 (R40). -/
def Reg.null : Reg := ⟨0, false⟩

/-- A context number (R54). -/
abbrev Ctx := BitVec 6

/-- The kinds of stream binding (R45). -/
inductive BindKind where
  | cp
  | rx
  | tx
  | eng
deriving DecidableEq, Repr, Inhabited

/-- A bound stream register: the kind, the descriptor word (job id, channel or destination word)
and the arrived elements, oldest first (R45, R46, R319). -/
structure Binding where
  kind : BindKind
  word : Word
  buf : List Word
deriving DecidableEq, Repr, Inhabited

/-- The state codes of a continuation (R9). -/
inductive Code where
  | ready
  | running
  | suspended
  | exited
  | faulted
deriving DecidableEq, Repr, Inhabited

/-- The causes of R310. -/
inductive Cause where
  | illegal
  | tileAlign
  | capTag
  | capBounds
  | capPerm
  | misalign
  | pageFault
  | fetchFault
  | streamUnbound
  | gangBroken
  | outOfSlot
  | spillFault
  | routineFault
  | nonfinite
  | ckptOverrun
  | trap
  | privilege
  | remoteFault
  | accTag
  | huddle
  | eccUncorrected
  | formatFault
deriving DecidableEq, Repr, Inhabited

/-- Why an instruction waits in its slot before it takes effect; it issues again when the reason is
gone (R12, R46, R162, R252). -/
inductive Why where
  /-- earlier sequencer entries of the thread are not complete (R162) -/
  | drain
  /-- a register awaits a reply or a VMOVG result (R162, R252) -/
  | register (r : RegField)
  /-- a read binding is empty (R46) -/
  | pop (r : RegField)
  /-- the core's injection queue is full (R46, R249) -/
  | inject
  /-- the core's vector sequencer is full (R161) -/
  | sequencer
  /-- REPLIES is 255 (R252), or EXIT waits for every reply (R19) -/
  | replies (below : Nat)
  /-- the core's entries of an engine queue are taken (R182) -/
  | queue (cls unit : Nat)
  /-- an incomplete VLD or VST touches the bytes (R162) -/
  | bytes (lo hi : Nat)
  /-- RST and RAMO acknowledgements are outstanding (R148) -/
  | acks
  /-- an acquiring RLD or RAMO has had no reply (R155) -/
  | acquire
  /-- a completion counter is below its threshold (R354) -/
  | counter (quire k : Nat) (v : Word)
  /-- IDLE waits for a mailbox entry or a pre-emption request (R382) -/
  | idle
  /-- the thread is in an open phase (R286) -/
  | phase
  /-- the walk of an address met MIG = 1 (R138) -/
  | walk (ctx : Ctx) (va : Nat) (write : Bool) (since : Nat)
  /-- the walk of a push's entry in the spill ring met MIG = 1 (R138, R214) -/
  | spillWalk (ctx : Ctx) (va : Nat) (since : Nat)
  /-- the walk of a thread's own or a new continuation's pool entry met MIG = 1 (R138, R321); `Thread.parkedAt` says since
  when -/
  | poolWalk (ctx : Ctx) (va : Nat)
  /-- BDTAB waits until no phase is open (R285) -/
  | noPhase
  /-- an earlier acquisition of the scheduled bytes is not made yet (R292) -/
  | sendBytes
  /-- the die's walks are all in use, since a core cycle (R136) -/
  | walkSlot (since : Nat)
deriving DecidableEq, Repr, Inhabited

/-- What a thread that does not advance is doing. -/
inductive Stall where
  /-- the instruction at PC issues again when `Why` is gone -/
  | retry (w : Why)
  /-- a suspension point whose condition does not hold; `wait` is the wait descriptor (R12, R14) -/
  | suspend (wait : Word)
  /-- CBADV has advanced by `k` and waits (R347) -/
  | cbadv (producer : Bool) (n : BitVec 4) (w k : Nat)
  /-- TLBI waits for the acknowledgement (R139) -/
  | tlbi (selector : Word)
  /-- WHISTLE has arrived in the domain, since a core cycle (R286) -/
  | whistle (domain : Nat) (since : Nat)
  /-- SSEND waits for its cycle (R291) -/
  | ssend (index : Nat)
  /-- SRECV has posted its window (R293) -/
  | srecv (index : Nat)
  /-- EXIT awaits the outstanding replies (R19) -/
  | exit
deriving DecidableEq, Repr, Inhabited

/-- A posted window of a phase: a timetable entry that passed its checks (R289, R291). -/
structure Window where
  send : Bool
  index : Nat
  offset : Nat
  port : Nat
  len : Nat
  /-- virtual address of the local buffer, and the physical address of each element -/
  va : Nat
  pas : List Nat
  /-- elements sent, or captured (by number) -/
  got : List Nat
  /-- captured elements whose store waits for an earlier send of the same bytes (R292) -/
  held : List (Nat × Word)
deriving DecidableEq, Repr, Inhabited

/-- An open phase of a thread (R286): the domain, the core cycle of phase cycle 0, PLEN, the windows posted in it, and
whether an element has arrived outside them (R294). -/
structure Phase where
  domain : Nat
  start : Nat
  plen : Nat
  windows : List Window
  stray : Bool
deriving DecidableEq, Repr, Inhabited

/-- An open phase of a domain, which its member cores hold to the close whichever threads leave it (R286, R296). -/
structure OpenPhase where
  domain : Nat
  start : Nat
  plen : Nat
deriving DecidableEq, Repr, Inhabited

/-- A posted SSEND at its interface (R290, R292): the thread, its domain's phase and the window. It outlasts the thread's
stay in the phase. -/
structure Sending where
  quire : Nat
  core : Nat
  launch : Nat
  tid : Nat
  ctx : Ctx
  domain : Nat
  start : Nat
  window : Window
deriving DecidableEq, Repr, Inhabited

/-- A trap that waits for an instruction boundary (R30, R254, R285, R294, R313): cause, from a job, TVAL; and, for a
GANG_BROKEN that follows an instruction in progress, the address of that instruction and of the following one (R29).
`dead` marks a fault of the save area, with which the continuation becomes faulted (R320). -/
structure PendTrap where
  cause : Cause
  job : Bool
  tval : Word
  after : Option (Word × Word)
  dead : Bool
deriving DecidableEq, Repr, Inhabited

/-- A VSEQ replay (R165 to R167): the body's address and length, the passes left, the number of the next
pass, the next word of that pass, the body, and what was captured at the VSEQ: each word's scalar, VL and RM. -/
structure Replay where
  addr : Nat
  len : Nat
  left : Nat
  pass : Nat
  word : Nat
  body : List Instr
  vals : List Word
  vl : Nat
  rm : Nat
deriving DecidableEq, Repr

/-- What an entry does when it completes, where program order keeps it behind a replay (R161, R165): its words, each with
its scalar, VL and RM, and the active elements of a VLD or VST with their physical addresses. -/
structure VecWork where
  words : List (Instr × Word)
  vl : Nat
  rm : Nat
  elems : List (Nat × Nat)
deriving DecidableEq, Repr

/-- An entry of a core's vector sequencer (R161, R164): the thread, the registers it reads and
writes (16 stands for m), the general register a VMOVG writes with its value, the virtual bytes a
VLD or VST touches, and the lane group it is bound to. -/
structure SeqEntry where
  quire : Nat
  core : Nat
  launch : Nat
  tid : Nat
  reads : List Nat
  writes : List Nat
  gdest : Option (RegField × Word)
  bytes : List (Nat × Nat)
  lane : Option Nat
  /-- the entries of the 16 that it takes: a replay one per body word, for the words that it binds as well (R165) -/
  held : Nat
  work : Option VecWork
  /-- a VSEQ replay (R165) -/
  replay : Option Replay
deriving DecidableEq, Repr, Inhabited

/-- A thread: the continuation record (R8, R9), the registers, the hidden state of its slot and what
the command processor keeps of it. -/
structure Thread where
  /-- launch, thread id (R17) and context -/
  launch : Nat
  tid : Nat
  ctx : Ctx
  /-- home quire, and the core and slot it holds or held last (R11) -/
  quire : Nat
  core : Nat
  slot : Nat
  /-- the pool entry (R321) -/
  pool : Nat
  /-- the private region received at start: address and bytes (R35) -/
  privBase : Nat
  privLen : Nat
  /-- vector registers of the kernel, shape records, the queue's priority, the tier (R31, R54, R307) -/
  vregs : Nat
  nshape : Nat
  queuePrio : Nat
  tier : Nat
  /-- the pinned core and slot (R304) -/
  pin : Option (Nat × Nat)
  /-- the record (R8, R9) -/
  pc : Word
  code : Code
  prio : Nat
  gran : Nat
  replies : Nat
  huddle : Nat
  arrived : Bool
  ganged : Bool
  gsize : Nat
  gpos : Nat
  transit : Bool
  spawned : Bool
  wait : Word
  kobj : Word
  dirty : BitVec 64
  link : Word
  /-- the registers (R39, R48, R55, R160, R54) -/
  g : Vector Reg 56
  v : Vector (BitVec 1024) 16
  m : BitVec 128
  vl : Nat
  fstat : Word
  cause : Word
  tval : Word
  epc : Reg
  tbase : Reg
  routbase : Reg
  lrtbase : Reg
  shapebase : Reg
  cbbase : Reg
  ttbase : Reg
  deadline : Word
  /-- the capability that fetches (R26, R385, R452) -/
  fetchCap : Reg
  /-- registers that await a reply (R252, R319) -/
  pend : BitVec 64
  /-- stream bindings q0 to q7 (R45) -/
  q : Vector (Option Binding) 8
  /-- the mailbox, oldest first (R213) -/
  mbox : List Word
  /-- remote faults in arrival order (R254) -/
  rfq : List Word
  /-- other traps that wait for an instruction boundary -/
  pendTraps : List PendTrap
  /-- continuation serial of the slot (R253) -/
  serial : BitVec 12
  stall : Option Stall
  /-- the HBAR at which the thread waits made the arrival itself (R23, R30) -/
  arrivedHere : Bool
  phase : Option Phase
  /-- domain and close of phases in which a stray element reached the thread and which it has left (R294) -/
  strays : List (Nat × Nat)
  /-- 4 KiB ranges of which SYNCI has discarded the copies (R432) -/
  synced : List Nat
  /-- a replay that a forced save ended, and the words that stood behind it in the sequencer (R167) -/
  replay : Option Replay
  vecBehind : List SeqEntry
  /-- core cycle at which pre-emption was requested (R322) -/
  preempt : Option Nat
  /-- the live ranges of save(N), as offset and length in the private region; none after any other
  write-back (R317, R323) -/
  liveSet : Option (List (Nat × Nat))
  /-- core cycle of the last CKPT, and from when the continuation is ready (R316, R307) -/
  ckptAt : Nat
  readyAt : Nat
  /-- the stamp of the last write-back (R323), and the page of its record, frame or line images whose walk meets MIG = 1
  at its pick-up or write-back, with the core cycle at which it first did (R138, R320, R321) -/
  savedAt : Nat
  parkedAt : Option (Nat × Nat)
  /-- the wait of a CBADV or TLBI at PC that a forced save abandoned: it issues again with the operand that it took, and a
  CBADV without its advance (R322, R347) -/
  abandoned : Option Stall
  /-- QSCHED changed the priority of its launch before that started, and the thread has not run yet (R300) -/
  requeued : Bool
  /-- a wait for a walk is over, and the instruction that issues again has its turn since that core cycle (R136, R138) -/
  turn : Option Nat
  /-- the model's own mark of one step: a trap was taken (assumption 8) -/
  trapMark : Bool
deriving DecidableEq, Repr

/-- A thread that does not exist: every field zero or empty, and CODE exited (assumption 3). -/
def Thread.empty : Thread :=
  { launch := 0, tid := 0, ctx := 0, quire := 0, core := 0, slot := 0, pool := 0, privBase := 0, privLen := 0,
    vregs := 0, nshape := 0, queuePrio := 0, tier := 0, pin := .none,
    pc := 0, code := .exited, prio := 0, gran := 0, replies := 0, huddle := 0, arrived := false,
    ganged := false, gsize := 0, gpos := 0, transit := false, spawned := false, wait := 0, kobj := 0, dirty := 0,
    link := 0, g := Vector.replicate 56 Reg.null, v := Vector.replicate 16 0, m := 0, vl := 0, fstat := 0,
    cause := 0, tval := 0, epc := Reg.null, tbase := Reg.null, routbase := Reg.null, lrtbase := Reg.null,
    shapebase := Reg.null, cbbase := Reg.null, ttbase := Reg.null, deadline := 0, fetchCap := Reg.null,
    pend := 0, q := Vector.replicate 8 .none, mbox := [], rfq := [], pendTraps := [], serial := 0, stall := .none,
    arrivedHere := false, phase := .none, strays := [], synced := [], replay := .none, vecBehind := [], preempt := .none, liveSet := .none, ckptAt := 0, readyAt := 0,
    savedAt := 0, parkedAt := .none, abandoned := .none, requeued := false, turn := .none, trapMark := false }

/-! ## Memory -/

/-- Physical memory (R132): the bytes that differ from what an unlisted address reads as, by rising
address, and the granules whose tag is set, by rising number (R43). -/
structure Memory where
  cells : List Host.Cell
  tags : List Nat
deriving DecidableEq, Repr, Inhabited

/-- A 64-byte slice line (R323): the context that last wrote it; the stamp of each context's last store to it, and of the
image of it that lies in a context's save area. -/
structure Line where
  num : Nat
  ctx : Ctx
  writes : List (Ctx × Nat)
  images : List (Ctx × Nat)
deriving DecidableEq, Repr, Inhabited

/-- The image of a slice line on its way to its context's save area (R320, R323): the context, the line, its bytes, which
of its 8-byte words are in error, and since which core cycle. -/
structure LineImage where
  ctx : Ctx
  num : Nat
  bytes : List Byte
  bad : List Nat
  since : Nat
deriving DecidableEq, Repr, Inhabited

/-- A cached translation of a TLB (R136): the quire whose TLB, or none for the die's; the die, the
context, the virtual and physical page base, log2 of the page size, and the permissions. -/
structure TlbEntry where
  quire : Option Nat
  die : Nat
  ctx : Ctx
  va : Nat
  pa : Nat
  size : Nat
  write : Bool
  exec : Bool
deriving DecidableEq, Repr, Inhabited

/-- A 4 KiB chunk that an engine's access in progress has translated, or a page that a thread's has (R137): context,
virtual base, physical base, log2 of the size of the page, and the permissions. -/
structure Chunk where
  ctx : Ctx
  va : Nat
  pa : Nat
  size : Nat
  write : Bool
  exec : Bool
deriving DecidableEq, Repr, Inhabited

/-- A 64-byte line of a core's instruction cache (R432), by virtual address. -/
structure ILine where
  quire : Nat
  core : Nat
  ctx : Ctx
  va : Nat
  bytes : List Byte
deriving DecidableEq, Repr, Inhabited

/-- Where an error lies (R326): uncorrectable, in an 8-byte word of memory, a general register or a vector
register of a slot, or an accumulator tag; or correctable, in an 8-byte word of memory. -/
inductive EccSite where
  | memory (word : Nat)
  | correctable (word : Nat)
  | general (launch tid : Nat) (r : RegField)
  | vector (launch tid : Nat) (r : Nat)
  | accumulator (ctx : Ctx) (tag : Nat)
deriving DecidableEq, Repr, Inhabited

/-- Resident granules (R141): context, quire, granule of the slice. -/
structure Resident where
  ctx : Ctx
  quire : Nat
  granule : Nat
deriving DecidableEq, Repr, Inhabited

/-! ## Contexts, launches, huddles, gangs -/

/-- The registers and the continuation pool of one context (R56, R57, R215, R260, R320, R321, R328). -/
structure Context where
  ptroot : Word
  enable : Bool
  cntwin : Word
  spillbase : Word
  ranktab : Word
  rankcnt : Word
  mode : Word
  savebase : Word
  stat : Word
  poolbase : Word
  poolcnt : Word
  own : Word
  /-- pool entries in use -/
  used : List Nat
  /-- entries of the rank table that interfaces cache: rank and entry -/
  ranks : List (Nat × Word)
deriving DecidableEq, Repr, Inhabited

def Context.reset : Context :=
  { ptroot := 0, enable := false, cntwin := 0, spillbase := 0, ranktab := 0, rankcnt := 0, mode := 0,
    savebase := 0, stat := 0, poolbase := 0, poolcnt := 0, own := 0, used := [], ranks := [] }

/-- A launch that has been taken (R303 to R305). -/
structure Launch where
  num : Nat
  ctx : Ctx
  queue : Nat
  tier : Nat
  queuePrio : Nat
  /-- the status word's address, 0 for none; ROUNDED, LATE -/
  stat : Nat
  /-- core cycle since which the store of the status word has met MIG = 1 (R138) -/
  statParked : Option Nat
  rounded : Bool
  late : Bool
  deadline : Word
  /-- threads that live, ids given, threads faulted -/
  live : Nat
  nextTid : Nat
  faults : Nat
  privb : Nat
  nshape : Nat
  vregs : Nat
  gran : Nat
  kobj : Nat
  ckptus : Nat
  started : Bool
  /-- regions taken: physical base and bytes; shape-table copies: quire, core, physical base -/
  regions : List (Nat × Nat)
  copies : List (Nat × Nat × Nat)
deriving DecidableEq, Repr, Inhabited

/-- A huddle (R20 to R25, R313). -/
structure Huddle where
  launch : Nat
  num : Nat
  members : List Nat
  gen : Nat
  arrived : List Nat
  broken : Bool
  culprit : Nat
deriving DecidableEq, Repr, Inhabited

/-- A thread in the rendezvous of the gang controller, in the order received (R378): a leader has
n > 0; `claimed` is the leader that claims a follower. -/
structure GangWait where
  launch : Nat
  tid : Nat
  quire : Nat
  core : Nat
  slot : Nat
  n : Nat
  claimed : Option Nat
deriving DecidableEq, Repr, Inhabited

/-- A formed gang: its number, the launch and the members' thread ids in GPOS order (R26). While its instruction waits in
some member: the address, and the stream elements that it popped, by member and register (R28, R30). -/
structure Gang where
  num : Nat
  launch : Nat
  members : List Nat
  waits : Option Word
  popped : List (Nat × Nat × Word)
deriving DecidableEq, Repr, Inhabited

/-! ## Engines -/

/-- A routine image as the push copies it (R190, R192). -/
structure Routine where
  handle : Nat
  arity : Nat
  fmt : Nat
  assoc : Bool
  ident : Option Nat
  trap : Bool
  slots : List Nat
deriving DecidableEq, Repr, Inhabited

/-- What a push snapshots for one member (R96, R38, R54): the thread, its index, its core, the
registers X, Y, Z, W, K2, I, P, the shape table's capability, CBBASE and the result FIFO. -/
structure JobMember where
  launch : Nat
  tid : Nat
  index : Nat
  core : Nat
  regs : List Reg
  shapebase : Reg
  cbbase : Reg
  /-- result elements and the record, oldest first (R185) -/
  fifo : List Word
  /-- the mailbox entries that wait for room (R213), and whether the completion was delivered (R30) -/
  mail : List Word
  delivered : Bool
deriving DecidableEq, Repr, Inhabited

/-- A communicator as a member has read it, and COUNT (R265). -/
structure Comm where
  commid : Nat
  rank : Nat
  members : List Member
  flagoff : Nat
  stateoff : Nat
  count : Nat
deriving DecidableEq, Repr, Inhabited

/-- Where a job stands. -/
inductive Stage where
  /-- in the engine's queue -/
  | queued
  /-- in the spill ring (R214) -/
  | spilled
  /-- registered, waiting for START (R271) -/
  | registered
  /-- a collective that has started and waits for its peers (R276) -/
  | started
  /-- its accesses are made; SRC_FREE, VISIBLE and JOB_DONE follow -/
  | running
  /-- terminal -/
  | ended
deriving DecidableEq, Repr, Inhabited

/-- A job of an engine (R96, R182 to R185). -/
structure Job where
  id : Nat
  cls : Nat
  unit : Nat
  /-- the quire whose thread pushed it, the queue's core, the context and launch -/
  quire : Nat
  core : Nat
  ctx : Ctx
  launch : Nat
  cmd : Instr
  tile : Tile
  /-- the gang that pushed it (R30) -/
  gang : Option Nat
  members : List JobMember
  routines : List Routine
  deadline : Word
  weight : Nat
  order : Nat
  stage : Stage
  /-- the status word (R184) once ended -/
  status : Nat
  /-- the progress record, once made -/
  record : List Word
  /-- the position at which the job resumed, and what it completed -/
  done : Nat
  /-- the tickets that the job took: address of the drain pair, its physical address where it is here, and the
  ticket (R227) -/
  tickets : List (Nat × Option Nat × Nat)
  /-- the address of its entry in the spill ring (R214) -/
  spillAt : Option Nat
  /-- the chunk of the job that is parked, and the core cycle at which it first met MIG = 1 (R138); the core cycle since
  which it waits for a walk (R136); the chunks whose walks have read MIG = 1 for 10 ms -/
  parkedAt : Option (Nat × Nat)
  missAt : Option Nat
  timedOut : List Nat
  /-- posts made: SRC_FREE, VISIBLE; the positions of each window whose writes are made and not visible yet
  (R152, R222) -/
  freed : Bool
  visible : Bool
  windows : List Nat
  /-- the rest of a streaming copy: undelivered elements and the threads that bound it (R212) -/
  stream : List (List Word)
  bound : List (Nat × Nat)
  /-- a streaming copy: destination elements of each member and their width in bits, and the stream
  elements that have entered each member's buffer -/
  counts : List Nat
  widths : List Nat
  entered : List Nat
  /-- a collective: its communicator once it has passed R265, its kickoff number (R269), and the chunks of its
  destination that are final (R278) -/
  comm : Option Comm
  number : Option Nat
  finals : List Nat
deriving DecidableEq, Repr

/-- The kind of a tag's contents (R176). -/
inductive AccKind where
  | floating
  | integer
deriving DecidableEq, Repr, Inhabited

/-- An accumulator element (R119): significand and exponent as the 80-bit and 16-bit fields. -/
structure AccElem where
  s : BitVec 80
  e : BitVec 16
deriving DecidableEq, Repr, Inhabited

/-- An accumulator tag that is mapped (R51, R176, R324): the elements that are not zero, by position. -/
structure AccTile where
  ctx : Ctx
  tag : Nat
  quire : Nat
  kind : AccKind
  saved : Bool
  elems : List (Nat × AccElem)
deriving DecidableEq, Repr, Inhabited

/-- The routine unit of an engine as it runs one invocation (R193 to R196): the registers, the
working format, the step index, the flags of the last step, whether traps are enabled, the slots
of the image, and whether an invocation is running. -/
structure RoutineUnit where
  t : Vector (BitVec 64) 8
  fmt : Nat
  step : Nat
  flags : BitVec 8
  trap : Bool
  slots : List Nat
  active : Bool
  /-- a step raised a trapped flag (R202) -/
  fault : Bool
deriving DecidableEq, Repr

/-! ## The fabric -/

/-- A message in an injection queue (R247, R249). -/
structure Packet where
  quire : Nat
  core : Nat
  ctx : Ctx
  rank : Nat
  chan : BitVec 8
  payload : Word
deriving DecidableEq, Repr, Inhabited

/-- An element of a receive queue (R247). -/
structure Arrival where
  quire : Nat
  core : Nat
  ctx : Ctx
  chan : BitVec 8
  payload : Word
deriving DecidableEq, Repr, Inhabited

/-- The remote operations (R251). -/
inductive ReqKind where
  | rld
  | rst
  | ramo (op : Nat)
deriving DecidableEq, Repr, Inhabited

/-- Where a remote request stands (R155, R252, R254). -/
inductive ReqStage where
  | sent
  /-- served here: the reply travels, with its data -/
  | served (data : Word)
  /-- a fault reply travels: the reason -/
  | failed (reason : Nat)
deriving DecidableEq, Repr, Inhabited

/-- A remote request (R251 to R256): its number, the requester, the continuation serial, the
register, the target, whether its address was global, and what it carries. `outside` marks a request of another
package, `source`, that this package serves. `expired` marks one whose requester has had the fault of R254 for want of a
reply: it keeps its place in program order until it is performed or no longer can be (R155). -/
structure Request where
  num : Nat
  kind : ReqKind
  outside : Bool
  expired : Bool
  source : BitVec 12
  quire : Nat
  core : Nat
  slot : Nat
  launch : Nat
  tid : Nat
  reg : RegField
  serial : BitVec 12
  ctx : Ctx
  addr : Nat
  pkg : BitVec 12
  global : Bool
  size : Nat
  data : Word
  acq : Bool
  rel : Bool
  /-- the scope of its ordering (R155) -/
  scope : BitVec 3
  sentAt : Nat
  /-- core cycle at which its walk first met MIG = 1 (R138), and since which it waits for a walk (R136) -/
  parkedAt : Option Nat
  missAt : Option Nat
  /-- its packet has left for the link (R256) -/
  wired : Bool
  stage : ReqStage
deriving DecidableEq, Repr, Inhabited

/-- A forwarding entry (R253). -/
structure Forward where
  quire : Nat
  core : Nat
  slot : Nat
  serial : BitVec 12
  launch : Nat
  tid : Nat
deriving DecidableEq, Repr, Inhabited

/-- A transaction packet (R256): its header's fields but for LEN, which is that of its data, in granules of 4 bytes. -/
structure Wire where
  type : Nat
  dpkg : Nat
  spkg : Nat
  ctx : Nat
  quire : Nat
  core : Nat
  slot : Nat
  reg : Nat
  serial : Nat
  size : Nat
  op : Nat
  addr : Nat
  data : List Byte
deriving DecidableEq, Repr, Inhabited

/-- A flit of a replay buffer (R255): its sequence number, the virtual channel and its packets. -/
structure Flit where
  seq : BitVec 12
  vc : Nat
  packets : List Wire
deriving DecidableEq, Repr, Inhabited

/-- A Glaivo port (R255): whether it has failed for routing, the sequence number expected, the replays of one flit and
whether the link retrains; the number of the next flit sent, the packets that wait to be sent, the replay buffer, how
many of its flits are to be sent again, whether the other side is to be asked for a replay, the credits held and the
credits to return per virtual channel, and the last flit sent, as bytes. -/
structure Link where
  failed : Bool
  expected : BitVec 12
  replays : Nat
  retraining : Bool
  nextSeq : BitVec 12
  out : List Wire
  buffer : List Flit
  resend : Nat
  nak : Bool
  credits : List Nat
  owed : List Nat
  sent : List Byte
deriving DecidableEq, Repr, Inhabited

/-! ## Collectives -/

/-- A kickoff number of the Referee (R269 to R275). -/
structure Kickoff where
  num : BitVec 32
  commid : BitVec 32
  key : BitVec 32
  members : List Member
  registered : List Member
  reported : List Member
  deadline : Word
  started : Bool
  cancelled : Option Nat
deriving DecidableEq, Repr, Inhabited

/-- The role of this package's Referee (R269, R275). -/
inductive Role where
  | none
  | primary
  | standby
deriving DecidableEq, Repr, Inhabited

/-- The Referee of this package (R269 to R275): the role, the last number assigned, the high-water
mark, the acknowledged one, the open numbers, the standby's copy of them, and the core cycle of the primary's last
sign of life. -/
structure Referee where
  role : Role
  last : Nat
  hw : Nat
  acked : Nat
  opens : List Kickoff
  replica : List Kickoff
  heard : Nat
  /-- numbers for which an engine of another package holds START, as it answered the standby's query, with their pairs and
  members (R275) -/
  held : List Kickoff
deriving DecidableEq, Repr, Inhabited

/-- What a member of a started collective shows its peers (R266, R276, R277, R283): the number, the rank, its
op, F, COUNT, handle A and root, its member table, when it started and whether its package lost time, its source
bytes, the source elements that cannot be read with cause and FVAL, and the first destination element that cannot
be written. -/
structure Contribution where
  num : Nat
  rank : Nat
  params : List Nat
  members : List Member
  stamp : Nat
  lost : Bool
  bytes : List Byte
  bad : List (Nat × Cause × Nat)
  dest : Option (Nat × Cause × Nat)
deriving DecidableEq, Repr, Inhabited

/-- A fault of the data phase (R277): where it stands in chunk, element and check order, the culprit, the cause,
and the fields of the abort record. -/
structure CollFault where
  chunk : Nat
  elem : Nat
  check : Nat
  rank : Nat
  cause : Cause
  fval : Nat
  step : Nat
  comb : Nat
  flags : Nat
  source : Nat
deriving DecidableEq, Repr, Inhabited

/-- A number that a collective engine has been sent (R271, R273): the die, the number, its pair, and whether START
or a cancellation has arrived. -/
structure EngineNumber where
  die : Nat
  num : Nat
  commid : Nat
  key : Nat
  started : Bool
  cancelled : Bool
deriving DecidableEq, Repr, Inhabited

/-! ## Barrier domains, queues and the rest of the system -/

/-- An entry of the loaded domain table (R285). -/
structure Domain where
  valid : Bool
  ctx : Ctx
  reserved : Bool
  plen : Nat
  mask : Nat
deriving DecidableEq, Repr, Inhabited

/-- A scheduled element on its lane (R290): the core cycle of its arrival, the receiving core's
number in the package, the port it arrives on and its payload. -/
structure LaneElem where
  domain : Nat
  due : Nat
  core : Nat
  port : Nat
  payload : Word
deriving DecidableEq, Repr, Inhabited

/-- The registers of a launch queue (R98, R102, R299, R300, R328) and when its doorbell last made a
packet present (R306). -/
structure Queue where
  qbase : Word
  qlog2 : Word
  qprod : Word
  qcons : Word
  qctl : Word
  qstat : Word
  qsched : Word
  qown : Word
  bellAt : Nat
  /-- the page whose walk for the packet at the head meets MIG = 1, and since which core cycle (R138, R302) -/
  parkedAt : Option (Nat × Nat)
deriving DecidableEq, Repr, Inhabited

def Queue.reset : Queue :=
  { qbase := 0, qlog2 := 0, qprod := 0, qcons := 0, qctl := 0, qstat := 0, qsched := 0, qown := 0, bellAt := 0,
    parkedAt := .none }

/-- The boot and identity registers (R330, R332). -/
structure Boot where
  bootst : Word
  defsig : Word
  attaddr : Word
  attst : Word
  flashA : List Byte
  flashB : List Byte
  /-- quires that the firmware's test disables, and those disabled now (R331) -/
  failing : List Nat
  disabled : List Nat
  /-- feature ids of the chain, in walk order (R333), and the body digest of the firmware -/
  features : List Nat
  digest : List Byte
  /-- no firmware is accepted: no queue can be enabled (R330) -/
  recovery : Bool
deriving DecidableEq, Repr, Inhabited

/-! ## The agenda -/

/-- What comes from outside the package (R158, R252, R258, R269 to R275, R326, R330). -/
inductive Input where
  /-- the host writes its memory: offset from 0x8000_0000_0000 -/
  | hostMemory (offset : Nat) (bytes : List Byte)
  /-- the host writes device memory through the PF -/
  | deviceMemory (pa : Nat) (bytes : List Byte)
  /-- a remote request of another package arrives -/
  | request (r : Request)
  /-- a message leaves the head of a core's injection queue for another package -/
  | depart (quire core : Nat)
  /-- the packet of a remote request to another package leaves for its link, and a port sends a flit (R255, R256) -/
  | departRequest (num : Nat)
  | flitSend (port : Nat)
  /-- what the routing state learns of the pod: the extents of its rings, a package's membership, a link of another
  package (R257, R258) -/
  | podRings (c d : Nat)
  | member (pkg : BitVec 12) (present : Bool)
  | linkState (pkg port : Nat) (ok : Bool)
  /-- a peer's source of a collective -/
  | contribution (c : Contribution)
  /-- the Referee's messages to a collective engine of the package -/
  | assigned (die commid key num : Nat)
  | startArrived (die num : Nat)
  | cancelArrived (die num : Nat)
  /-- a member's report that a number is terminal for it, received by the Referee -/
  | report (num : BitVec 32) (who : Member)
  /-- the primary's sign of life, received by the standby, with its numbers -/
  | replica (hw : Nat) (opens : List Kickoff)
  | hwAck (hw : Nat)
  /-- an engine's answer to the standby's query: it holds START for the number -/
  | held (k : Kickoff)
  /-- the Referee's answer to a pair forwarded from COLLCAN -/
  | cancelOutcome (result : BitVec 2)
  | role (r : Role)
  /-- the accesses of the next act's agents, or of the next two acts, race, where they do (R4, R156, R157) -/
  | race (pair : Bool)
  /-- an error appears -/
  | softError (x : EccSite)
  /-- a corrected error is counted: RAS counter -/
  | corrected (k : Nat)
  /-- the residue check of the MXE will fail twice at that step of the next job that runs one -/
  | residue (step : Nat)
  /-- the boot flash is written, or a quire's test will fail -/
  | flash (slotB : Bool) (bytes : List Byte)
  | quireTest (quire : Nat) (ok : Bool)
  | recovery
  /-- the host link fails an access of an attestation report (R332) -/
  | reportFault
  /-- system software sets TRANSIT of a saved thread, or clears it with its new coordinates (R11, R261) -/
  | move (launch tid : Nat) (transit : Bool) (quire core : Nat)
deriving DecidableEq, Repr

/-- An act: how many core cycles pass before it, and what it is. An `issue` brings the running
thread of a slot into focus and issues it. -/
inductive Act where
  | event (wait : Nat) (i : Instr)
  | issue (wait : Nat) (quire core slot : Nat)
  | input (wait : Nat) (x : Input)
deriving DecidableEq, Repr

/-- What becomes of the accesses in progress: nothing more; each is recorded by its first byte, its size and whether it
writes; or those that meet one of some ranges race (R156, R157). -/
inductive Watch where
  | off
  | log (l : List (Nat × Nat × Bool))
  | race (ranges : List (Nat × Nat))
deriving DecidableEq, Repr, Inhabited

/-! ## The package -/

/-- The state of the package. -/
structure State where
  /-- the acts to come (assumption 1) -/
  agenda : List Act
  /-- counter of free values (assumption 4) -/
  free : Nat
  /-- the thread in focus, the threads in other slots, and the saved ones (assumption 5) -/
  th : Thread
  others : List Thread
  conts : List Thread
  mem : Memory
  lines : List Line
  /-- stamps of slice stores, images and write-backs taken so far, and of the last write-back of a context's thread from a
  quire, by 64 × quire + context (R323) -/
  stamp : Nat
  ranAt : List (Nat × Nat)
  /-- what the acts in progress do with the accesses of a race (R157); nothing between steps -/
  racing : Watch
  /-- images whose walk has met MIG = 1 (R138) -/
  images : List LineImage
  pkgid : BitVec 12
  cycle : Word
  time : Word
  /-- sixths of a ns beyond TIME, and the core cycle of the last correction (R262) -/
  timeFrac : Nat
  syncAt : Nat
  asidSel : Ctx
  ctxs : Vector Context 64
  resmap : Word
  residents : List Resident
  /-- quotas that are not 0: context, quire, granules -/
  quotas : List (Nat × Nat × Nat)
  bdtab : Word
  domains : Vector Domain 64
  /-- completion counters that are not 0: 256 × quire + number, value (R52) -/
  counters : List (Nat × Word)
  tlb : List TlbEntry
  /-- the chunks that the access in progress has translated (R137); none between steps -/
  chunks : List Chunk
  icache : List ILine
  ecc : List EccSite
  launches : List Launch
  nextLaunch : Nat
  huddles : List Huddle
  gangWaits : List GangWait
  gangs : List Gang
  nextGang : Nat
  seqs : List SeqEntry
  /-- whose turn it is at a quire's lane groups: quire, core, and the entries bound in this turn (R164) -/
  vecTurns : List (Nat × Nat × Nat)
  jobs : List Job
  /-- serials taken per engine instance: 512 × class + unit, how many (R183) -/
  serials : List (Nat × Nat)
  nextOrder : Nat
  acc : List AccTile
  /-- the step of the MXE at which the residue check will fail twice (R174, R326) -/
  residue : Option Nat
  rt : RoutineUnit
  inject : List Packet
  arrivals : List Arrival
  requests : List Request
  nextReq : Nat
  forwards : List Forward
  links : Vector Link 8
  /-- messages of other packages that the fabric holds for want of room (R247) -/
  inbound : List Arrival
  /-- the extents of the pod's C and D rings, and the packages that are not in the pod (R249, R257) -/
  rings : Nat × Nat
  absent : List (BitVec 12)
  /-- packages that have failed, failed links of other packages (package and port), and the routes in use: package and
  port (R258, R259) -/
  unreachable : List (BitVec 12)
  deadLinks : List (Nat × Nat)
  routes : List (BitVec 12 × Nat)
  referee : Referee
  engineNums : List EngineNumber
  contributions : List Contribution
  collcan : Word
  collcanst : Word
  lanes : List LaneElem
  /-- the domains' open phases (R286) and the posted SSENDs (R292) -/
  openPhases : List OpenPhase
  sends : List Sending
  queues : Vector Queue 1024
  /-- the queue whose launch the command processor has taken and not finished with (R306) -/
  taken : Option Nat
  tierw : Word
  /-- slot time charged per tier, of the package and per quire (512 × tier + quire) (R307) -/
  charges : Vector Nat 8
  quireCharges : List (Nat × Nat)
  roundAt : Nat
  /-- MSI-X signals sent: function, vector, oldest first (R329) -/
  msix : List (Nat × Nat)
  boot : Boot
  /-- PWRCTL of the 256 islands, and steps requested while a phase holds them (R334, R298) -/
  pwr : Vector Word 256
  /-- the islands whose step in force is still to follow the one requested (R298) -/
  changing : List Nat
  ras : Vector Word 12
  /-- accesses of contexts to the host window as the host link issues them: the requester function, the address and
  whether it writes, newest first (R327) -/
  hostBus : List (Nat × Nat × Bool)
deriving DecidableEq, Repr

/-! ## Faults and refusals -/

/-- Why the machine stops. -/
inductive Fault where
  /-- Raised by no instruction: the manual names no state in which the machine cannot go on. Kept so
  that the type has a name for it; safe, since nothing answers with it. -/
  | unreachable
deriving DecidableEq, Repr, Inhabited

/-- Why a step has no meaning. -/
inductive Refusal where
  /-- Raised by `exec`'s arms of instructions that have no meaning yet; safe, since nothing can be
  proved of them. -/
  | notModelled (mnemonic : String)
deriving DecidableEq, Repr, Inhabited

/-! ## What instructions compute -/

/-- How an instruction ends other than with its effect: a trap with its cause and TVAL, or a wait in
the slot. -/
inductive Halt where
  | trap (c : Cause) (v : Word)
  | stall (w : Stall)
deriving DecidableEq, Repr, Inhabited

/-- The result of a part of an instruction. -/
abbrev Ev (α : Type) := Except Halt α

/-- A shape record (R37): ETYPE, the PART code of each dimension used, P1, P2, and each dimension's count
and stride. -/
structure Shape where
  etype : Nat
  parts : List Nat
  p1 : Nat
  p2 : Nat
  dims : List (Nat × Int)
deriving DecidableEq, Repr, Inhabited

/-- A thread's slice of a shape (R38): the first byte's offset, and each dimension's count and stride. -/
structure Slice where
  offset : Int
  dims : List (Nat × Int)
deriving DecidableEq, Repr, Inhabited

/-- How an engine's access fails (R44, R137, R138): a cause with FVAL and the routine fields of the record
(R203), a chunk that parks, one that waits for a walk (R136), or a job that cannot start yet. -/
inductive JobHalt where
  | fault (c : Cause) (v : Nat) (detail : Nat)
  | park (va : Nat)
  | miss
  | wait
deriving DecidableEq, Repr, Inhabited

/-- The result of a part of a job. -/
abbrev Je (α : Type) := Except JobHalt α

/-- A part of an act whose accesses one agent makes (R156): the agent, by its kind and two numbers; the size, scope,
package, quire and core of an access that is an atomic, an acquire or a release; whether it adds by PUT.add; and the state
that it leads to. -/
structure RacePart where
  agent : Nat × Nat × Nat
  sync : Option (Nat × Nat × Nat × Nat × Nat)
  adds : Bool
  run : State → State

/-- How a job ends: its status word (R184) and its record. -/
structure JobEnd where
  status : Nat
  record : List Word
deriving DecidableEq, Repr, Inhabited

/-- A circular-buffer descriptor (R49). -/
structure Ring where
  base : Reg
  slotb : Nat
  slots : Nat
  pidx : Nat
  cidx : Nat
deriving DecidableEq, Repr, Inhabited

/-- An operand of a job: memory at a capability, or positions of a ring from `pos`, `k` slots of them (R210). -/
inductive Spot where
  | mem (r : Reg)
  | ring (r : Ring) (pos k : Nat)
deriving DecidableEq, Repr

/-- One member's part of a copy (R208): slice and format of source and destination, and where they lie. -/
structure CopyPart where
  src : Slice
  srcFmt : Nat
  dst : Slice
  dstFmt : Nat
  source : Spot
  dest : Spot
deriving DecidableEq, Repr

/-- One member's part of a routine job (R189): its inputs (slice, format, place), the output elements, the
counts along the axis and below it, where the output goes, and the columns of a result to a tag. -/
structure FormPart where
  inputs : List (Slice × Nat × Spot)
  outputs : Nat
  len : Nat
  low : Nat
  dest : Spot
  cols : Nat
deriving DecidableEq, Repr

/-- One member's operands of MMA (R171): K, M, N, the packing code, the strides, the offset of A, and where A
and B lie. -/
structure MmaPart where
  k : Nat
  m : Nat
  n : Nat
  pack : Int
  strideA : Int
  strideB : Int
  offset : Int
  a : Spot
  b : Spot
deriving DecidableEq, Repr

/-- A table record (R224). -/
structure Table where
  base : Reg
  rowb : Nat
  shard : Bool
  hotn : Nat
  rows : Nat
  sstride : Nat
  spkg : Nat
  shrows : Nat
  hotdir : Nat
  rowdir : Nat
  drain : Nat
deriving DecidableEq, Repr

/-- What a job has read of a table's directories: hot-directory entries by slot, and row-directory entries by row
(R225, R242). -/
structure TableCache where
  hot : List (Nat × Nat)
  dirs : List (Nat × Nat)
deriving DecidableEq, Repr, Inhabited

/-- A distinct target row of a window (R220): its index, its bytes where they are read, and the places of each
copy where it is written. -/
structure RowAccess where
  index : Nat
  old : List Byte
  places : List (List (Option Nat × Nat))
deriving DecidableEq, Repr, Inhabited

/-- A local row of a window: the index at its position, its bytes or its places. -/
structure LocalAccess where
  index : Nat
  bytes : List Byte
  places : List (Option Nat × Nat)
deriving DecidableEq, Repr, Inhabited

/-- What a window of GET or PUT has read and checked (R220). -/
structure WindowEnv where
  cache : TableCache
  rows : List RowAccess
  locals : List LocalAccess
deriving DecidableEq, Repr, Inhabited

/-- How an address is used (R128, R130). -/
inductive Access where
  | load
  | store
  | fetch
deriving DecidableEq, Repr, Inhabited

/-- How a translation ends (R130, R138). -/
inductive Walk where
  /-- the physical address, and the page: virtual base, log2 size, W, X -/
  | ok (pa : Nat) (page : Nat) (size : Nat) (w x : Bool)
  | fault (tval : Word)
  | park
  /-- a table's entry is in uncorrectable error (R326) -/
  | bad
deriving DecidableEq, Repr, Inhabited

/-- What the bits of a number format mean (R104, R105): a NaN, an infinity by its sign, or
(−1)^neg × m × 2^e. Integers are numbers with e = 0. -/
inductive Num where
  | nan (signalling : Bool)
  | inf (neg : Bool)
  | fin (neg : Bool) (m : Nat) (e : Int)
deriving DecidableEq, Repr, Inhabited

/-! ## Reset -/

def RoutineUnit.reset : RoutineUnit :=
  { t := Vector.replicate 8 0, fmt := 0, step := 0, flags := 0, trap := false, slots := [], active := false,
    fault := false }

def Boot.reset : Boot :=
  { bootst := 0, defsig := 0, attaddr := 0, attst := 0, flashA := [], flashB := [], failing := [],
    disabled := [], features := [], digest := [], recovery := true }

def Link.reset : Link :=
  { failed := false, expected := 0, replays := 0, retraining := false, nextSeq := 0, out := [], buffer := [], resend := 0,
    nak := false, credits := List.replicate 16 0, owed := List.replicate 16 0, sent := [] }

def Referee.reset : Referee :=
  { role := .none, last := 0, hw := 0, acked := 0, opens := [], replica := [], heard := 0, held := [] }

/-- PWRCTL of island `i` after reset: CURSTEP 8, and FSTEP 8 where the island has it (R334). -/
def pwrReset (i : Nat) : Word := if 48 ≤ i % 64 ∧ i % 64 < 58 then 0x800 else 0x820

/-- TIERW after reset: every weight 8 (R301). -/
def tierwReset : Word := 0x0808080808080808

/-- The package right after reset (assumption 3 for what the manual gives no value): no thread, no
launch, no job, memory with nothing listed. -/
def State.reset : State :=
  { agenda := [], free := 0, th := Thread.empty, others := [], conts := [], mem := ⟨[], []⟩, lines := [], stamp := 0, ranAt := [], racing := .off, images := [],
    pkgid := 0, cycle := 0, time := 0, timeFrac := 0, syncAt := 0, asidSel := 0,
    ctxs := Vector.replicate 64 Context.reset, resmap := 0, residents := [], quotas := [], bdtab := 0,
    domains := Vector.replicate 64 ⟨false, 0, false, 0, 0⟩, counters := [], tlb := [], chunks := [], icache := [], ecc := [],
    launches := [], nextLaunch := 0, huddles := [], gangWaits := [], gangs := [], nextGang := 0, seqs := [], vecTurns := [], jobs := [],
    serials := [], nextOrder := 0, acc := [], residue := .none, rt := RoutineUnit.reset, inject := [], arrivals := [], requests := [],
    nextReq := 0, forwards := [], links := Vector.replicate 8 Link.reset, inbound := [], rings := (16, 32), absent := [],
    unreachable := [], deadLinks := [], routes := [],
    referee := Referee.reset, engineNums := [], contributions := [], collcan := 0, collcanst := 0, lanes := [],
    openPhases := [], sends := [],
    queues := Vector.replicate 1024 Queue.reset, taken := .none, tierw := tierwReset, charges := Vector.replicate 8 0,
    quireCharges := [], roundAt := 0, msix := [], boot := Boot.reset, pwr := Vector.ofFn (fun i : Fin 256 => pwrReset i.val), changing := [],
    ras := Vector.replicate 12 0, hostBus := [] }

end Sys2Proof.Machine
end

