-- ==== Sys2Proof/Machine/Flags.lean ====
section
/-!
DEFINITION. Number formats, rounding and the FSTAT flags (R55, R103 to R111). A result is a pair: the bit
pattern and the flags that FSTAT takes.
-/
namespace Sys2Proof.Machine

/-! ## Flags (R55) -/

def flagNV : Nat := 1
def flagDZ : Nat := 2
def flagOF : Nat := 4
def flagUF : Nat := 8
def flagNX : Nat := 16

/-- The union of two flag sets. -/
def joinFlags (a b : Nat) : Nat := Nat.lor a b

/-- NV where the condition holds. -/
def nvIf (b : Bool) : Nat := if b then flagNV else 0

/-! ## Formats (R103) -/

/-- A floating format. -/
def isFloatFmt (f : Nat) : Bool := decide (3 ≤ f) && decide (f ≤ 9)

/-- An integer format. -/
def isIntFmt (f : Nat) : Bool := decide (f ≤ 2) || (decide (10 ≤ f) && decide (f ≤ 12))

/-- The width of a format in bits. -/
def fmtWidth (f : Nat) : Nat := [64, 64, 32, 32, 16, 16, 8, 8, 6, 4, 8, 4, 6].getD f 0

/-- The mantissa width of a floating format. -/
def fmtMant (f : Nat) : Nat := [0, 0, 0, 23, 10, 7, 3, 2, 2, 1].getD f 0

/-- The exponent width. -/
def fmtExp (f : Nat) : Nat := [0, 0, 0, 8, 5, 8, 4, 5, 3, 2].getD f 0

/-- The exponent bias. -/
def fmtBias (f : Nat) : Nat := [0, 0, 0, 127, 15, 127, 7, 15, 3, 1].getD f 0

/-- The pattern of the largest finite magnitude. -/
def fmtMax (f : Nat) : Nat := [0, 0, 0, 0x7F7FFFFF, 0x7BFF, 0x7F7F, 0x7E, 0x7B, 0x1F, 0x7].getD f 0

/-- The canonical NaN (R105); +0 for a format that has none. -/
def canonNaN (f : Nat) : Nat := [0, 0, 0, 0x7FC00000, 0x7E00, 0x7FC0, 0x7F, 0x7E].getD f 0

/-- The format has infinities. -/
def hasInf (f : Nat) : Bool := f == 3 || f == 4 || f == 5 || f == 7

/-- The format has a NaN. -/
def hasNaN (f : Nat) : Bool := hasInf f || f == 6

/-- The least and the greatest integer of an integer format. -/
def intMin (f : Nat) : Int := if f = 1 then 0 else -((2 ^ (fmtWidth f - 1) : Nat) : Int)
def intMax (f : Nat) : Int := if f = 1 then ((2 ^ 64 : Nat) : Int) - 1 else ((2 ^ (fmtWidth f - 1) : Nat) : Int) - 1

/-- The sign bit. -/
def signBit (f : Nat) (neg : Bool) : Nat := if neg then 2 ^ (fmtWidth f - 1) else 0

/-! ## Decoding (R104, R105) -/

/-- A floating pattern. -/
def decodeFloat (f x : Nat) : Num :=
  let p := fmtMant f
  let w := fmtWidth f
  let neg := bitOf x (w - 1)
  let e := bits x (w - 2) p
  let m := x % 2 ^ p
  if hasInf f && e == 2 ^ fmtExp f - 1 then (if m = 0 then .inf neg else .nan (!bitOf m (p - 1)))
  else if f == 6 && x % 128 == 127 then .nan false
  else if e = 0 then .fin neg m (1 - (fmtBias f : Int) - (p : Int))
  else .fin neg (2 ^ p + m) ((e : Int) - (fmtBias f : Int) - (p : Int))

/-- An integer as a number. -/
def numOfInt (z : Int) : Num := .fin (decide (z < 0)) z.natAbs 0

/-- A pattern of any format. -/
def decodeNum (f x : Nat) : Num :=
  if isFloatFmt f then decodeFloat f (x % 2 ^ fmtWidth f)
  else if f = 1 then numOfInt ((x % 2 ^ 64 : Nat) : Int)
  else numOfInt (toSigned (fmtWidth f) x)

/-! ## Rounding (R107, R109): the modes are 0 RNE, 1 RZ, 2 RU, 3 RD -/

/-- The quotient of `m` by 2^sh, rounded in a mode for the sign, and whether it is inexact. -/
def roundShift (mode : Nat) (neg : Bool) (m sh : Nat) : Nat × Bool :=
  let n := m / 2 ^ sh
  let r := m % 2 ^ sh
  let up :=
    if mode = 0 then decide (2 ^ sh < 2 * r) || (decide (2 * r = 2 ^ sh) && n % 2 == 1)
    else if mode = 1 then false
    else if mode = 2 then !neg && r != 0
    else neg && r != 0
  (if up then n + 1 else n, r != 0)

/-- (−1)^neg × m × 2^e rounded to an integer magnitude, and whether it is inexact. -/
def roundToNat (mode : Nat) (neg : Bool) (m : Nat) (e : Int) : Nat × Bool :=
  if 0 ≤ e then (m * 2 ^ e.toNat, false) else roundShift mode neg m (-e).toNat

/-- What an overflow gives (R109). -/
def overflowPattern (f mode : Nat) (neg : Bool) : Nat :=
  let toInf := hasInf f && (mode == 0 || (mode == 2 && !neg) || (mode == 3 && neg))
  (if toInf then (2 ^ fmtExp f - 1) * 2 ^ fmtMant f else fmtMax f) + signBit f neg

/-- (−1)^neg × m × 2^e rounded once to a floating format, with OF, UF and NX (R107, R109, R111). -/
def roundFloat (f mode : Nat) (neg : Bool) (m : Nat) (e : Int) : Nat × Nat :=
  if m = 0 then (signBit f neg, 0)
  else
    let p := (fmtMant f : Int)
    let emin := 1 - (fmtBias f : Int)
    let top := (Nat.log2 m : Int) + e
    let q := max top emin - p
    let r := if q ≤ e then (m * 2 ^ (e - q).toNat, false) else roundShift mode neg m (q - e).toNat
    let pat := r.1 + (q - (emin - p)).toNat * 2 ^ fmtMant f
    if fmtMax f < pat then (overflowPattern f mode neg, joinFlags flagOF flagNX)
    else (pat + signBit f neg,
      if r.2 then (if top < emin then joinFlags flagUF flagNX else flagNX) else 0)

/-- A number rounded to a floating format; a NaN is the canonical one (R105), an infinity in a format
without it is the largest finite value with NV (R110). -/
def encodeFloat (f mode : Nat) : Num → Nat × Nat
  | .nan sg => if hasNaN f then (canonNaN f, nvIf sg) else (0, flagNV)
  | .inf neg => if hasInf f then ((2 ^ fmtExp f - 1) * 2 ^ fmtMant f + signBit f neg, 0) else (fmtMax f + signBit f neg, flagNV)
  | .fin neg m e => roundFloat f mode neg m e

/-- A number rounded to an integer format and saturated (R110). -/
def encodeInt (f mode : Nat) : Num → Nat × Nat
  | .nan _ => (0, flagNV)
  | .inf neg => (ofSigned (fmtWidth f) (if neg then intMin f else intMax f), flagNV)
  | .fin neg m e =>
    let r := roundToNat mode neg m e
    let z := if neg then -(r.1 : Int) else (r.1 : Int)
    if z < intMin f then (ofSigned (fmtWidth f) (intMin f), flagNV)
    else if intMax f < z then (ofSigned (fmtWidth f) (intMax f), flagNV)
    else (ofSigned (fmtWidth f) z, if r.2 then flagNX else 0)

/-- A conversion (R110): from a pattern of one format to the pattern of another, with flags. -/
def convert (dst src mode x : Nat) : Nat × Nat :=
  if isFloatFmt dst then encodeFloat dst mode (decodeNum src x) else encodeInt dst mode (decodeNum src x)

end Sys2Proof.Machine
end

