-- ==== Sys2Proof/Machine/Float.lean ====
section
/-!
DEFINITION. Floating-point arithmetic: each operation takes the patterns of one format, forms its exact
result and rounds it once (R105 to R111, R119 to R122, R366 to R376).
-/
namespace Sys2Proof.Machine

/-! ## Tests on numbers -/

def Num.isNaN : Num → Bool
  | .nan _ => true
  | _ => false

def Num.isSignalling : Num → Bool
  | .nan sg => sg
  | _ => false

def Num.isInf : Num → Bool
  | .inf _ => true
  | _ => false

def Num.isZero : Num → Bool
  | .fin _ m _ => m == 0
  | _ => false

/-- The sign; a NaN has none. -/
def Num.neg : Num → Bool
  | .nan _ => false
  | .inf n => n
  | .fin n _ _ => n

/-- The canonical NaN, with NV where the condition holds. -/
def nanResult (f : Nat) (invalid : Bool) : Nat × Nat := (canonNaN f, nvIf invalid)

/-- An infinity of a format that has it. -/
def infPattern (f : Nat) (neg : Bool) : Nat := (2 ^ fmtExp f - 1) * 2 ^ fmtMant f + signBit f neg

/-! ## Exact sums -/

/-- m × 2^e over a common exponent, as an integer. -/
def scaled (neg : Bool) (m : Nat) (e base : Int) : Int :=
  let z := ((m * 2 ^ (e - base).toNat : Nat) : Int)
  if neg then -z else z

/-- The exact sum of two finite numbers rounded once; the sign of an exact zero is that of R368. -/
def sumRound (f mode : Nat) (na : Bool) (ma : Nat) (ea : Int) (nb : Bool) (mb : Nat) (eb : Int) : Nat × Nat :=
  let base := min ea eb
  let z := scaled na ma ea base + scaled nb mb eb base
  if z = 0 then
    let neg := if na = nb then na else mode == 3
    (signBit f neg, 0)
  else roundFloat f mode (decide (z < 0)) z.natAbs base

/-- a + b on numbers (R367). -/
def addNum (f mode : Nat) (a b : Num) : Nat × Nat :=
  match a, b with
  | .fin na ma ea, .fin nb mb eb => sumRound f mode na ma ea nb mb eb
  | .nan sg, y => nanResult f (sg || y.isSignalling)
  | x, .nan sg => nanResult f (sg || x.isSignalling)
  | .inf n, .inf n' => if n = n' then (infPattern f n, 0) else nanResult f true
  | .inf n, _ => (infPattern f n, 0)
  | _, .inf n => (infPattern f n, 0)

/-- The number with its sign inverted. -/
def negNum : Num → Num
  | .nan sg => .nan sg
  | .inf n => .inf (!n)
  | .fin n m e => .fin (!n) m e

/-- a × b (R367). -/
def mulNum (f mode : Nat) (a b : Num) : Nat × Nat :=
  match a, b with
  | .fin na ma ea, .fin nb mb eb => roundFloat f mode (na != nb) (ma * mb) (ea + eb)
  | .nan sg, y => nanResult f (sg || y.isSignalling)
  | x, .nan sg => nanResult f (sg || x.isSignalling)
  | x, y => if x.isZero || y.isZero then nanResult f true else (infPattern f (x.neg != y.neg), 0)

/-- fma(a, b, c) (R373). -/
def fmaNum (f mode : Nat) (a b c : Num) : Nat × Nat :=
  if (a.isZero && b.isInf) || (a.isInf && b.isZero) then nanResult f true
  else if a.isNaN || b.isNaN || c.isNaN then nanResult f (a.isSignalling || b.isSignalling || c.isSignalling)
  else
    match a, b, c with
    | .fin na ma ea, .fin nb mb eb, .fin nc mc ec => sumRound f mode (na != nb) (ma * mb) (ea + eb) nc mc ec
    | x, y, .inf n => if (x.isInf || y.isInf) && (x.neg != y.neg) != n then nanResult f true else (infPattern f n, 0)
    | x, y, _ => (infPattern f (x.neg != y.neg), 0)

/-- A quotient of positive numbers with a sticky low bit: 2⌊a 2^k / b⌋, plus 1 where it is inexact, so
that it rounds as the exact quotient does in every format. -/
def quotient (a b k : Nat) : Nat := 2 * (a * 2 ^ k / b) + (if a * 2 ^ k % b = 0 then 0 else 1)

/-- a / b (R367). -/
def divNum (f mode : Nat) (a b : Num) : Nat × Nat :=
  match a, b with
  | .nan sg, y => nanResult f (sg || y.isSignalling)
  | x, .nan sg => nanResult f (sg || x.isSignalling)
  | .inf n, y => if y.isInf then nanResult f true else (infPattern f (n != y.neg), 0)
  | .fin n _ _, .inf n' => (signBit f (n != n'), 0)
  | .fin na ma ea, .fin nb mb eb =>
    if mb = 0 then (if ma = 0 then nanResult f true else (infPattern f (na != nb), flagDZ))
    else roundFloat f mode (na != nb) (quotient ma mb 80) (ea - eb - 81)

/-- The floor of the square root, one bit of it per step from bit `k` down. -/
def isqrtFrom (n : Nat) : Nat → Nat → Nat
  | 0, r => r
  | k + 1, r => isqrtFrom n k (if (r + 2 ^ k) * (r + 2 ^ k) ≤ n then r + 2 ^ k else r)

/-- The floor of the square root of a number below 2^(2k). -/
def isqrt (k n : Nat) : Nat := isqrtFrom n k 0

/-- A square root with a sticky low bit. -/
def rootOf (k n : Nat) : Nat := 2 * isqrt k n + (if isqrt k n * isqrt k n = n then 0 else 1)

/-- m × 2^e as a number whose exponent is even and whose significand has room for the root. -/
def evenScaled (m : Nat) (e : Int) : Nat × Int := if e % 2 = 0 then (m * 2 ^ 120, e - 120) else (m * 2 ^ 121, e - 121)

/-- √a (R367, R368). -/
def sqrtNum (f mode : Nat) (a : Num) : Nat × Nat :=
  match a with
  | .nan sg => nanResult f sg
  | .inf n => if n then nanResult f true else (infPattern f false, 0)
  | .fin n m e =>
    if m = 0 then (signBit f n, 0)
    else if n then nanResult f true
    else roundFloat f mode false (rootOf 100 (evenScaled m e).1) ((evenScaled m e).2 / 2 - 1)

/-! ## Comparison (R106, R376) -/

/-- The order of two numbers that are no NaN: negative, zero or positive as a − b is. -/
def cmpNum (a b : Num) : Int :=
  match a, b with
  | .fin na ma ea, .fin nb mb eb => scaled na ma ea (min ea eb) - scaled nb mb eb (min ea eb)
  | .inf n, .inf n' => if n = n' then 0 else if n then -1 else 1
  | .inf n, _ => if n then -1 else 1
  | _, .inf n => if n then 1 else -1
  | _, _ => 0

/-- a < b, where −0 equals +0 and a NaN is unordered. -/
def ltNum (a b : Num) : Bool := !a.isNaN && !b.isNaN && decide (cmpNum a b < 0)

/-- a = b. -/
def eqNum (a b : Num) : Bool := !a.isNaN && !b.isNaN && decide (cmpNum a b = 0)

/-- The lesser or the greater operand (R106), as a pattern. -/
def minMaxFloat (f : Nat) (greater : Bool) (x y : Nat) : Nat × Nat :=
  let a := decodeFloat f x
  let b := decodeFloat f y
  let fl := nvIf (a.isSignalling || b.isSignalling)
  if a.isNaN && b.isNaN then (canonNaN f, fl)
  else if a.isNaN then (y, fl)
  else if b.isNaN then (x, fl)
  else
    let aLess := decide (cmpNum a b < 0) || (decide (cmpNum a b = 0) && a.neg && !b.neg)
    (if aLess != greater then x else y, fl)

/-! ## Operations on patterns -/

def fpAdd (f mode x y : Nat) : Nat × Nat := addNum f mode (decodeFloat f x) (decodeFloat f y)
def fpSub (f mode x y : Nat) : Nat × Nat := addNum f mode (decodeFloat f x) (negNum (decodeFloat f y))
def fpMul (f mode x y : Nat) : Nat × Nat := mulNum f mode (decodeFloat f x) (decodeFloat f y)
def fpDiv (f mode x y : Nat) : Nat × Nat := divNum f mode (decodeFloat f x) (decodeFloat f y)
def fpSqrt (f mode x : Nat) : Nat × Nat := sqrtNum f mode (decodeFloat f x)
def fpFma (f mode x y z : Nat) : Nat × Nat := fmaNum f mode (decodeFloat f x) (decodeFloat f y) (decodeFloat f z)

/-- FNEG and FABS (R106, R366). -/
def fpNeg (f x : Nat) : Nat :=
  if (decodeFloat f x).isNaN then canonNaN f else x % 2 ^ (fmtWidth f - 1) + signBit f (!(decodeFloat f x).neg)
def fpAbs (f x : Nat) : Nat := if (decodeFloat f x).isNaN then canonNaN f else x % 2 ^ (fmtWidth f - 1)

/-- FCLASS's bit (R369). -/
def fpClass (f x : Nat) : Nat :=
  match decodeFloat f x with
  | .nan sg => if sg then 8 else 9
  | .inf n => if n then 0 else 7
  | .fin n m _ =>
    if m = 0 then (if n then 3 else 4)
    else if bits x (fmtWidth f - 2) (fmtMant f) = 0 then (if n then 2 else 5)
    else (if n then 1 else 6)

/-! ## Special functions (R122): correctly rounded, always RNE -/

/-- Bits of the fixed-point arithmetic of the exponential. -/
def expBits : Nat := 512

/-- The Taylor sum of e^r for a fixed-point r below 1. -/
def expTaylor (r : Nat) : Nat → Nat → Nat → Nat
  | 0, _, _ => 0
  | k + 1, i, t => t + expTaylor r k (i + 1) (t * r / 2 ^ expBits / (i + 1))

/-- Repeated squaring. -/
def squareTimes : Nat → Nat → Nat
  | 0, x => x
  | k + 1, x => squareTimes k (x * x / 2 ^ expBits)

/-- e^x for x = m × 2^e below 256, in fixed point. -/
def expFixed (m : Nat) (e : Int) : Nat :=
  let x := if 0 ≤ e + 504 then m * 2 ^ (e + 504).toNat else m / 2 ^ (-(e + 504)).toNat
  squareTimes 8 (expTaylor x 120 0 (2 ^ expBits))

/-- e^x for a finite x other than 0: a significand with a sticky low bit, and its exponent. Past 256 in
magnitude every format over- or underflows. -/
def expOf (neg : Bool) (m : Nat) (e : Int) : Nat × Int :=
  if 8 ≤ (Nat.log2 m : Int) + e then (1, if neg then -400 else 400)
  else
    let y := expFixed m e
    let v := if neg then 2 ^ (2 * expBits) / y else y
    (2 * (v / 2 ^ 40) + 1, 39 - (expBits : Int))

/-- VEXP and REXP. -/
def fpExp (f x : Nat) : Nat × Nat :=
  match decodeFloat f x with
  | .nan sg => nanResult f sg
  | .inf n => (if n then 0 else infPattern f false, 0)
  | .fin n m e =>
    if m = 0 then roundFloat f 0 false 1 0
    else roundFloat f 0 false (expOf n m e).1 (expOf n m e).2

/-- VRCP. -/
def fpRcp (f x : Nat) : Nat × Nat := divNum f 0 (.fin false 1 0) (decodeFloat f x)

/-- VRSQ: 1/√x with a sticky low bit. -/
def fpRsq (f x : Nat) : Nat × Nat :=
  match decodeFloat f x with
  | .nan sg => nanResult f sg
  | .inf n => if n then nanResult f true else (0, 0)
  | .fin n m e =>
    if m = 0 then (infPattern f n, flagDZ)
    else if n then nanResult f true
    else
      let k : Int := if e % 2 = 0 then 300 else 301
      -- 1/√(m 2^e) = √(2^k / m) × 2^(−(e + k)/2), for e + k even
      let q := 2 ^ k.toNat / m
      let r := isqrt 160 q
      let exact := decide (r * r * m = 2 ^ k.toNat)
      roundFloat f 0 false (2 * r + (if exact then 0 else 1)) (-((e + k) / 2) - 1)

/-! ## Accumulator elements (R119 to R121) -/

/-- The number an element holds. DESIGN CHOICE (assumption 60): with E = -32,768 an S that is none of 0, 1 and -1 reads as
NaN (R119). -/
def accNum (a : AccElem) : Num :=
  let e := a.e.toInt
  let s := a.s.toInt
  if e = -32768 then (if s = 1 then .inf false else if s = -1 then .inf true else .nan false)
  else .fin (decide (s < 0)) s.natAbs e

/-- NaN and the infinities as elements. -/
def accNaN : AccElem := ⟨0, 0x8000⟩
def accInf (neg : Bool) : AccElem := ⟨if neg then BitVec.allOnes 80 else 1, 0x8000⟩

/-- A dyadic value z × 2^e stored as an element (R120). -/
def accStore (z : Int) (e : Int) : AccElem :=
  if z = 0 then ⟨0, 0⟩
  else
    let neg := decide (z < 0)
    let m := z.natAbs
    let ee := max (-32767) ((Nat.log2 m : Int) + e - 78)
    let r := (roundToNat 0 neg m (e - ee)).1
    let r2 := if r = 2 ^ 79 then (r / 2, ee + 1) else (r, ee)
    ⟨BitVec.ofInt 80 (if neg then -(r2.1 : Int) else (r2.1 : Int)), BitVec.ofInt 16 r2.2⟩

end Sys2Proof.Machine
end

