-- ==== Sys2Proof/WellFormed.lean ====
section
/-!
DEFINITION. The well-formed instructions: the field rules of 04_encoding.md, and the rules of the
reference entries that depend on the word alone (R71 to R94, R190, R378, R430, R443). An
instruction that breaks one has no effect and raises ILLEGAL (R2).
-/
namespace Sys2Proof
open Machine

/-- The register field names g0 to g55 (R72). -/
def isGeneral (r : RegField) : Bool := decide (r.toNat < 56)

/-- The ordering rule of LD, LD.x and RLD: ord 0 or 1, scope 0 without an ordering (R80). -/
def loadOrd (o c : BitVec 3) : Bool :=
  decide (o.toNat ≤ 1) && decide (c.toNat ≤ 4) && (o != 0 || c == 0)

/-- The ordering rule of ST, ST.x and RST: ord 0 or 2, scope 0 without an ordering (R80). -/
def storeOrd (o c : BitVec 3) : Bool :=
  (o == 0 || o == 2) && decide (c.toNat ≤ 4) && (o != 0 || c == 0)

/-- The operation and size of AMO and RAMO (R81). -/
def amoFields (p : BitVec 4) (z : BitVec 2) : Bool :=
  decide (2 ≤ z.toNat) && decide (p.toNat ≤ 9) && (p != 9 || z == 2)

/-- The class and element type of a vector word (R86): 0 and 3 integer at et 0 to 2, 1 floating at
et 1 or 2, 2 BF16 at et 1. -/
def vecClass (c e : BitVec 2) : Bool :=
  if c == 1 then e == 1 || e == 2 else if c == 2 then e == 1 else e != 3

/-- With scalar = 0 the field fn[7:6] is reserved (R74). -/
def scalarB (s : BitVec 1) (h : BitVec 2) : Bool := s == 1 || h == 0

/-- The scalar g register: fn[7:6] joined to vb (R74). -/
def scalarReg (h : BitVec 2) (b : BitVec 4) : RegField := BitVec.ofNat 6 (h.toNat * 16 + b.toNat)

/-- A format code VCVT takes (R87, R440). -/
def vcvtCode (f : BitVec 4) : Bool := decide (2 ≤ f.toNat) && decide (f.toNat ≤ 12)

/-! Tile commands (R91 to R94 and the reference entries). -/

/-- No flag beyond those of `mask` is set, the counter field needs its enable, and .row needs the
counter (R91). -/
def tileFlags (c : Tile) (mask : Nat) : Bool :=
  !reservedSet c.flags.toNat mask && (bitOf c.flags.toNat 3 || c.cnt == 0) &&
    (!bitOf c.flags.toNat 4 || bitOf c.flags.toNat 3) && decide (c.scope.toNat ≤ 4)

/-- P is g0 unless .resume is set (R94). -/
def tileP (c : Tile) : Bool := c.p == 0 || bitOf c.flags.toNat 0

/-- A ring count of 0 means no ring, and the handle beside it is reserved (R93). -/
def ringFields (c : Tile) : Bool := (c.inCount != 0 || c.inRing == 0) && (c.outCount != 0 || c.outRing == 0)

/-- No ring at all: word 3 is zero (R93). -/
def noRings (c : Tile) : Bool := c.inRing == 0 && c.inCount == 0 && c.outRing == 0 && c.outCount == 0

/-- An input ring replaces the register (R188, R173). -/
def ringOrReg (count : BitVec 12) (r : RegField) : Bool := count == 0 || r == 0

/-- Handles 4 to 7 are reserved (R190). -/
def handleOk (h : BitVec 6) : Bool := decide (h.toNat < 4) || decide (8 ≤ h.toNat)

/-- A format code of R103. -/
def formatOk (f : Nat) : Bool := decide (f ≤ 12)

/-- MMA's floating operand formats (R172). -/
def mmaFloat (f : Nat) : Bool := decide (5 ≤ f) && decide (f ≤ 9)

/-- MMA's integer operand formats (R172). -/
def mmaInt (f : Nat) : Bool := decide (10 ≤ f) && decide (f ≤ 12)

/-- A floating operand pairs with a floating one, an integer one with an integer one (R172). -/
def mmaPair (a b : Nat) : Bool := (mmaFloat a && mmaFloat b) || (mmaInt a && mmaInt b)

/-- ACCRD's output formats: FP32, FP16, BF16, HF8A, HF8B, SI32, SI64 and SI8 (R180). -/
def accrdFormat (f : Nat) : Bool :=
  f == 3 || f == 4 || f == 5 || f == 6 || f == 7 || f == 2 || f == 0 || f == 10

/-- MMA (R396). The ganged limit T + GSIZE is checked at the push. -/
def mmaFields (c : Tile) : Bool :=
  c.cls == 0 && tileFlags c 0x09 && tileP c && c.x == 0 && c.w == 0 && c.ha == 0 && c.hb == 0 &&
    ringFields c && c.outCount == 0 && ringOrReg c.inCount c.y &&
    bits c.w4.toNat 15 0 == 0 && c.w5 == 0 && c.w6 == 0 &&
    mmaPair (bits c.w4.toNat 23 20) (bits c.w4.toNat 19 16)

/-- ACCRD (R338, R180). -/
def accrdFields (c : Tile) : Bool :=
  c.cls == 0 && tileFlags c 0x0C && c.p == 0 && c.y == 0 && c.z == 0 && c.w == 0 && c.ha == 0 && c.hb == 0 &&
    ringFields c && c.inCount == 0 && ringOrReg c.outCount c.x &&
    bits c.w4.toNat 17 0 == 0 && accrdFormat (bits c.w4.toNat 23 20) && bits c.w5.toNat 31 24 == 0 && c.w6 == 0 &&
    (bitOf c.flags.toNat 2 == (c.w5 != 0))

/-- ACCREL (R339). -/
def accrelFields (c : Tile) : Bool :=
  c.cls == 0 && tileFlags c 0 && c.p == 0 && c.x == 0 && c.y == 0 && c.z == 0 && c.w == 0 && c.shape == 0 &&
    c.ha == 0 && c.hb == 0 && noRings c && bits c.w4.toNat 23 0 == 0 && c.w5 == 0 && c.w6 == 0

/-- The destination of OUTER and FOLD: a tag with word 4[23], else X or an output ring (R188). DEDUCED (assumption 31): an
output ring replaces X, so one beside a tag is ILLEGAL (R93, R404). -/
def resultFields (c : Tile) : Bool :=
  if bitOf c.w4.toNat 23 then c.x == 0 && c.outCount == 0 else bits c.w4.toNat 31 24 == 0 && ringOrReg c.outCount c.x

/-- OUTER (R404). -/
def outerFields (c : Tile) : Bool :=
  c.cls == 0 && tileFlags c 0x09 && tileP c && c.w == 0 && handleOk c.ha && handleOk c.hb && ringFields c &&
    ringOrReg c.inCount c.y && resultFields c && bits c.w4.toNat 22 8 == 0 && c.w5 == 0 && c.w6 == 0

/-- FOLD (R375, R188). -/
def foldFields (c : Tile) : Bool :=
  decide (c.cls.toNat ≤ 1) && tileFlags c 0x09 && tileP c && c.z == 0 && c.w == 0 && handleOk c.ha && c.hb == 0 &&
    ringFields c && ringOrReg c.inCount c.y && resultFields c && (c.cls == 0 || !bitOf c.w4.toNat 23) &&
    bits c.w4.toNat 22 4 == 0 && decide (bits c.w4.toNat 3 0 ≤ 9) && c.w5 == 0 && c.w6 == 0

/-- SCAN (R418). -/
def scanFields (c : Tile) : Bool :=
  decide (c.cls.toNat ≤ 1) && tileFlags c 0x09 && tileP c && c.z == 0 && c.w == 0 && handleOk c.ha && c.hb == 0 &&
    ringFields c && ringOrReg c.inCount c.y && ringOrReg c.outCount c.x && bits c.w4.toNat 31 5 == 0 &&
    decide (bits c.w4.toNat 3 0 ≤ 9) && c.w5 == 0 && c.w6 == 0

/-- The inputs in use, from Y (R451). -/
def zipInputs (c : Tile) : List Bool := [c.y != 0 || c.inCount != 0, c.z != 0, c.w != 0]

/-- ZIP (R451). -/
def zipFields (c : Tile) : Bool :=
  decide (c.cls.toNat ≤ 1) && tileFlags c 0x09 && tileP c && handleOk c.ha && c.hb == 0 &&
    ringFields c && ringOrReg c.inCount c.y && ringOrReg c.outCount c.x && c.w4 == 0 && c.w5 == 0 && c.w6 == 0 &&
    (c.z == 0 || c.y != 0 || c.inCount != 0) && (c.w == 0 || c.z != 0)

/-- COPY (R207). -/
def copyFields (c : Tile) : Bool :=
  c.cls == 1 && tileFlags c 0x09 && tileP c && c.z == 0 && c.w == 0 && c.ha == 0 && c.hb == 0 && ringFields c &&
    ringOrReg c.inCount c.y && ringOrReg c.outCount c.x && bits c.w4.toNat 31 12 == 0 && bits c.w4.toNat 9 9 == 0 &&
    (!bitOf c.w4.toNat 8 || (c.outCount == 0 && c.x == 0 && !c.visible)) &&
    c.w5 == 0 && c.w6 == 0

/-- The row bytes of GET and PUT (R218). -/
def rowBytesOk (n : Nat) : Bool := n % 8 == 0 && decide (8 ≤ n) && decide (n ≤ 4096)

/-- Words 4 and 5 that GET and PUT share (R94, R218). -/
def indexedFields (c : Tile) : Bool :=
  bits c.w4.toNat 31 24 == 0 && bits c.w4.toNat 23 0 != 0 && rowBytesOk (bits c.w5.toNat 12 0) &&
    bits c.w5.toNat 15 14 == 0 && bits c.w5.toNat 30 20 == 0 && c.w6 == 0

/-- GET (R379). -/
def getFields (c : Tile) : Bool :=
  c.cls == 1 && tileFlags c 0x19 && tileP c && c.w == 0 && c.ha == 0 && c.hb == 0 && ringFields c &&
    c.inCount == 0 && ringOrReg c.outCount c.x && indexedFields c && bits c.w5.toNat 19 16 == 0

/-- The formats PUT.add takes: FP32, FP16, BF16, SI32 and SI64 (R94). -/
def putAddFormat (f : Nat) : Bool := f == 3 || f == 4 || f == 5 || f == 2 || f == 0

/-- PUT and PUT.add (R407): the .add flag is the constructor. -/
def putFields (add : Bool) (c : Tile) : Bool :=
  c.cls == 1 && tileFlags c 0x39 && bitOf c.flags.toNat 5 == add && tileP c && c.w == 0 && c.ha == 0 && c.hb == 0 &&
    ringFields c && c.outCount == 0 && ringOrReg c.inCount c.x && indexedFields c &&
    (if add then putAddFormat (bits c.w5.toNat 19 16) else bits c.w5.toNat 19 16 == 0)

/-- PACK (R405). -/
def packFields (c : Tile) : Bool :=
  c.cls == 1 && tileFlags c 0x0C && c.p == 0 && c.z == 0 && c.w == 0 && c.ha == 0 && c.hb == 0 && noRings c &&
    bits c.w4.toNat 31 24 == 0 && bits c.w4.toNat 19 0 == 0 &&
    (bits c.w4.toNat 23 20 == 8 || bits c.w4.toNat 23 20 == 6 || bits c.w4.toNat 23 20 == 4) &&
    bits c.w5.toNat 31 24 == 0 && (bitOf c.flags.toNat 2 == (c.w5 != 0)) && c.w6 == 0

/-- COMPACT (R357). -/
def compactFields (c : Tile) : Bool :=
  c.cls == 1 && tileFlags c 0x08 && c.p == 0 && c.ha == 0 && c.hb == 0 && noRings c &&
    bits c.w4.toNat 31 24 == 0 && c.w4 != 0 && bits c.w5.toNat 31 13 == 0 && rowBytesOk (bits c.w5.toNat 12 0) && c.w6 == 0

/-- QFENCE (R408). -/
def qfenceFields (c : Tile) : Bool :=
  c.cls == 1 && c.flags == 0 && c.cnt == 0 && decide (c.scope.toNat ≤ 4) && c.p == 0 && c.x == 0 && c.y == 0 &&
    c.z == 0 && c.w == 0 && c.shape == 0 && c.ha == 0 && c.hb == 0 && noRings c && c.w4 == 0 && c.w5 == 0 && c.w6 == 0

/-- LOOKUP (R234, R235). -/
def lookupFields (c : Tile) : Bool :=
  c.cls == 2 && tileFlags c 0x09 && tileP c && c.ha == 0 && c.hb == 0 && noRings c &&
    decide (1 ≤ bits c.w4.toNat 6 0) && decide (bits c.w4.toNat 6 0 ≤ 64) &&
    decide (1 ≤ bits c.w4.toNat 12 7) && decide (bits c.w4.toNat 12 7 ≤ 32) &&
    decide (1 ≤ bits c.w4.toNat 19 13) && decide (bits c.w4.toNat 19 13 ≤ 64) &&
    decide (1 ≤ bits c.w4.toNat 26 20) && decide (bits c.w4.toNat 26 20 ≤ 64) &&
    decide (bits c.w4.toNat 28 27 ≤ 2) && bits c.w4.toNat 31 29 == 0 &&
    decide (1 ≤ bits c.w5.toNat 16 0) && decide (bits c.w5.toNat 16 0 ≤ 65536) &&
    decide (4 ≤ bits c.w5.toNat 20 17) && decide (bits c.w5.toNat 20 17 ≤ 7) && bits c.w5.toNat 31 21 == 0 &&
    bits c.w6.toNat 19 0 == 0 && decide (bits c.w4.toNat 19 13 ≤ bits c.w5.toNat 16 0) &&
    decide (bits c.w4.toNat 26 20 ≤ bits c.w4.toNat 19 13 * bits c.w4.toNat 19 13)

/-- COLL (R263, R356): handle A is the reduction operator of operations 0 and 1. -/
def collFields (c : Tile) : Bool :=
  c.cls == 3 && tileFlags c 0x0B && tileP c && c.hb == 0 && noRings c && (c.z == 0 || bitOf c.flags.toNat 1) &&
    decide (bits c.w4.toNat 3 0 ≤ 4) && formatOk (bits c.w4.toNat 7 4) && bits c.w4.toNat 15 8 == 0 &&
    (if bits c.w4.toNat 3 0 ≤ 1 then handleOk c.ha else c.ha == 0) && bits c.w6.toNat 31 16 == 0 &&
    (if bits c.w4.toNat 3 0 == 3 then decide (bits c.w6.toNat 15 0 ≤ 4095) else c.w6 == 0)

/-- The well-formed instructions. The device's own steps have no bits and no field rules. -/
def wellFormedInstr : Instr → Bool
  | .add _ _ _ => true
  | .sub _ _ _ => true
  | .mul _ _ _ => true
  | .mulh _ _ _ => true
  | .mulhU _ _ _ => true
  | .div _ _ _ => true
  | .divU _ _ _ => true
  | .rem _ _ _ => true
  | .remU _ _ _ => true
  | .and _ _ _ => true
  | .andn _ _ _ => true
  | .or _ _ _ => true
  | .xor _ _ _ => true
  | .shl _ _ _ => true
  | .shr _ _ _ => true
  | .shrA _ _ _ => true
  | .rot _ _ _ => true
  | .min _ _ _ => true
  | .minU _ _ _ => true
  | .max _ _ _ => true
  | .maxU _ _ _ => true
  | .sel d _ _ => isGeneral d
  | .clz _ _ => true
  | .ctz _ _ => true
  | .popc _ _ => true
  | .set _ _ _ c => decide (c.toNat ≤ 5)
  | .addsh _ _ _ _ => true
  | .addi d a i => !(d == 0 && a == 0 && i == 0)
  | .nop => true
  | .andi _ _ _ => true
  | .ori _ _ _ => true
  | .xori _ _ _ => true
  | .shi _ _ _ _ => true
  | .seti _ _ c _ => decide (c.toNat ≤ 5)
  | .movi _ _ => true
  | .movhi d _ => isGeneral d
  | .muli _ _ _ => true
  | .fadd _ _ _ t _ => t != 3
  | .fsub _ _ _ t _ => t != 3
  | .fmul _ _ _ t _ => t != 3
  | .fdiv _ _ _ t _ => t != 3
  | .fsqrt _ _ t _ => t != 3
  | .fmin _ _ _ t => t != 3
  | .fmax _ _ _ t => t != 3
  | .fsetEq _ _ _ t => t != 3
  | .fsetLt _ _ _ t => t != 3
  | .fsetLe _ _ _ t => t != 3
  | .fsetUn _ _ _ t => t != 3
  | .fclass _ _ t => t != 3
  | .fneg _ _ t => t != 3
  | .fabs _ _ t => t != 3
  | .fmaFp32 _ _ _ _ _ => true
  | .fmaFp16 _ _ _ _ _ => true
  | .fcvt _ _ s e _ => decide (s.toNat ≤ 12) && decide (e.toNat ≤ 12)
  | .cbnd _ _ _ => true
  | .cbndX _ _ _ => true
  | .cprm _ _ _ => true
  | .cgetBase _ _ => true
  | .cgetLen _ _ => true
  | .cgetPerm _ _ => true
  | .cgetTag _ _ => true
  | .cclr _ _ => true
  | .cadd _ _ _ => true
  | .ldC _ _ _ => true
  | .stC _ _ _ => true
  | .caddi _ _ _ => true
  | .b _ b c _ => decide (c.toNat ≤ 5) || (c == 6 && b == 0)
  | .j _ => true
  | .jal d _ => isGeneral d
  | .jr d _ _ => isGeneral d
  | .ld _ _ _ o c _ => loadOrd o c
  | .st _ _ _ o c _ => storeOrd o c
  | .ldX _ _ _ o c _ => loadOrd o c
  | .stX _ _ _ o c _ => storeOrd o c
  | .amo d _ _ p _ z => amoFields p z && isGeneral d
  | .cas d _ _ _ z => decide (2 ≤ z.toNat) && isGeneral d
  | .fence b a s => b != 0 && a != 0 && decide (s.toNat ≤ 4)
  | .pref _ _ _ => true
  | .sbind d _ _ => !isGeneral d
  | .sfree d => !isGeneral d
  | .send _ _ _ => true
  | .rld d _ _ o c _ => loadOrd o c && isGeneral d
  | .rst _ _ _ o c _ => storeOrd o c
  | .ramo d _ _ p _ z => amoFields p z && isGeneral d
  | .mwait => true
  | .mpop _ => true
  | .cntw _ _ _ => true
  | .cntr _ _ _ => true
  | .cnts _ _ _ => true
  | .cnta _ _ _ => true
  | .cbadvP _ _ => true
  | .cbadvC _ _ => true
  | .spawn _ _ _ => true
  | .spawnP _ _ _ _ => true
  | .suspMbox => true
  | .suspCnt a _ => isGeneral a
  | .suspJob a => isGeneral a
  | .suspStrm _ => true
  | .suspTime a => isGeneral a
  | .suspReply => true
  | .yield => true
  | .exit => true
  | .join _ => true
  | .leave _ => true
  | .hbar _ => true
  | .hbarArrive _ => true
  | .hbarWait _ => true
  | .gang n => n != 0
  | .gangF => true
  | .ungang => true
  | .jwait _ => true
  | .jpoll _ _ => true
  | .whistle _ => true
  | .ssend _ => true
  | .srecv _ => true
  | .vadd _ _ _ e _ s _ h c => c != 3 && vecClass c e && scalarB s h
  | .vsub _ _ _ e _ s _ h c => c != 3 && vecClass c e && scalarB s h
  | .vmul _ _ _ e _ s _ h c => c != 3 && vecClass c e && scalarB s h
  | .vfma _ _ _ e _ s _ h c => (c == 1 || c == 2) && vecClass c e && scalarB s h
  | .vmin _ _ _ e _ s _ h c => vecClass c e && scalarB s h
  | .vmax _ _ _ e _ s _ h c => vecClass c e && scalarB s h
  | .vand _ _ _ e _ s _ h c => c == 0 && vecClass c e && scalarB s h
  | .vor _ _ _ e _ s _ h c => c == 0 && vecClass c e && scalarB s h
  | .vxor _ _ _ e _ s _ h c => c == 0 && vecClass c e && scalarB s h
  | .vshl _ _ _ e _ s _ h c => c == 0 && vecClass c e && scalarB s h
  | .vshr _ _ _ e _ s _ h c => (c == 0 || c == 3) && vecClass c e && scalarB s h
  | .vsel _ _ _ e _ s _ h c => c != 3 && vecClass c e && scalarB s h
  | .vset c _ _ e _ s _ h k => decide (c.toNat < 4) && vecClass k e && scalarB s h
  | .vexp _ _ e _ _ c => (c == 1 || c == 2) && vecClass c e
  | .vrcp _ _ e _ _ c => (c == 1 || c == 2) && vecClass c e
  | .vrsq _ _ e _ _ c => (c == 1 || c == 2) && vecClass c e
  | .vredAdd _ _ e _ _ c => c != 3 && vecClass c e
  | .vredMin _ _ e _ _ c => vecClass c e
  | .vredMax _ _ e _ _ c => vecClass c e
  | .vperm _ _ _ e _ s _ h => e != 3 && scalarB s h
  | .vbcast _ a b e _ s _ h c => c != 3 && vecClass c e && scalarB s h && (if s == 1 then a == 0 else b == 0)
  | .vidx _ e _ _ => e != 3
  | .vmovg d k b e _ h => e != 3 && decide (k.toNat ≤ 5) && (decide (4 ≤ k.toNat) || (d == 0 && e == 0)) && (isGeneral (scalarReg h b) || !(k == 2 || k == 3 || k == 5))
  | .vcvt _ _ s _ _ e => vcvtCode s && vcvtCode e
  | .vld _ _ e _ _ => e != 3
  | .vst _ _ e _ _ => e != 3
  | .vldShape _ _ e _ _ _ => e != 3
  | .vstShape _ _ e _ _ _ => e != 3
  | .vseq _ _ _ => true
  | .vsetl _ _ => true
  | .ckpt _ => true
  | .csrr d _ => d != 0
  | .csrw _ _ => true
  | .csrx d a _ => d != 0 && a != 0
  | .trap _ => true
  | .eret => true
  | .idle => true
  | .synci _ => true
  | .tlbi _ => true
  | .mma c => mmaFields c
  | .accrd c => accrdFields c
  | .accrel c => accrelFields c
  | .outer c => outerFields c
  | .fold c => foldFields c
  | .scan c => scanFields c
  | .zip c => zipFields c
  | .copy c => copyFields c
  | .get c => getFields c
  | .put c => putFields false c
  | .putAdd c => putFields true c
  | .pack c => packFields c
  | .compact c => compactFields c
  | .qfence c => qfenceFields c
  | .lookup c => lookupFields c
  | .coll c => collFields c
  | .rmov _ _ => true
  | .radd _ _ _ => true
  | .rsub _ _ _ => true
  | .rmul _ _ _ => true
  | .rfma _ _ _ => true
  | .rmin _ _ _ => true
  | .rmax _ _ _ => true
  | .rneg _ _ => true
  | .rabs _ _ => true
  | .rcmplt _ _ _ => true
  | .rcmpeq _ _ _ => true
  | .rsel _ _ _ => true
  | .rand _ _ _ => true
  | .ror _ _ _ => true
  | .rxor _ _ _ => true
  | .rshl _ _ _ => true
  | .rshr _ _ _ _ => true
  | .rcvt _ _ g => g != 7
  | .rexp _ _ => true
  | .rconst _ _ => true
  | .rret => true
  | .slotStallEnd => true
  | .vectorEntryBind _ _ _ => true
  | .trapEntry => true
  | .writeBack => true
  | .wakeUp _ _ => true
  | .pickup _ _ _ => true
  | .preemptionRequest _ _ => true
  | .forcedSave => true
  | .accountingRound => true
  | .jobStart _ _ _ => true
  | .ticketGrant _ => true
  | .srcFree _ => true
  | .visible _ => true
  | .jobDone _ => true
  | .copyStreamElement _ _ => true
  | .messageArrival _ _ _ _ _ => true
  | .remoteRequest _ => true
  | .rldReply _ _ => true
  | .rstAcknowledgement _ => true
  | .ramoReply _ _ => true
  | .faultReply _ _ => true
  | .remoteTimeout _ => true
  | .flitReceive _ _ => true
  | .linkRetrain _ _ => true
  | .routeChange _ _ => true
  | .timeSync _ _ => true
  | .tlbiAcknowledgement => true
  | .parkedWalkRetry => true
  | .migrationTimeout => true
  | .doorbell _ _ _ => true
  | .launchPacket _ => true
  | .counterWait _ => true
  | .valueWrite _ => true
  | .noOp _ => true
  | .launchStatusWrite _ => true
  | .qctlEnable _ _ _ => true
  | .qschedWrite _ _ _ => true
  | .tierwWrite _ _ => true
  | .resmapMark _ => true
  | .resmapUnmark _ => true
  | .resmapSetQuota _ => true
  | .cntwinWrite _ => true
  | .asidctlWrite _ => true
  | .rankcntWrite _ => true
  | .bdtabWrite _ => true
  | .prioWrite _ => true
  | .registerWrite _ _ _ => true
  | .collcanWrite _ _ => true
  | .attestationGo _ _ => true
  | .attestationReport => true
  | .pwrctlStateWrite _ _ _ => true
  | .pwrctlFstepWrite _ _ _ => true
  | .dvfsChange _ => true
  | .throttle _ _ => true
  | .rasCounterClear _ _ => true
  | .scrub _ => true
  | .boot => true
  | .registration _ _ _ _ _ => true
  | .start _ => true
  | .blockFinal _ _ => true
  | .numberClose _ => true
  | .deadlineCancel _ => true
  | .cancelClose _ => true
  | .failover => true
  | .domainRelease _ => true
  | .phaseClose _ => true
  | .releaseTimeout _ => true
  | .scheduledElement _ _ _ _ => true
  | .vectorEntryCompletion _ _ => true
  | .scheduledElementSend _ _ => true
  | .windowVisible _ => true
  | .ownerCancel _ _ => true
  | .packageFailure _ => true
  | .hwReplication => true

/-- The field rules of an instruction. -/
abbrev Instr.wellFormed (i : Instr) : Bool := wellFormedInstr i

end Sys2Proof
end

