-- ==== Sys2Proof/Decode.lean ====
section
/-!
DEFINITION. Decoding and encoding (R71 to R94, R192, R193). The decoder is total: a word that is no
instruction is refused by name. The encoder writes the same tables.
-/
namespace Sys2Proof
open Machine

/-- Major opcode 0x01 (R75). -/
def decodeOp01 (w : Nat) : Option Instr :=
  if bits w 7 0 == 0 then some (.add (fld 6 w 20) (fld 6 w 14) (fld 6 w 8))
  else if bits w 7 0 == 1 then some (.sub (fld 6 w 20) (fld 6 w 14) (fld 6 w 8))
  else if bits w 7 0 == 2 then some (.mul (fld 6 w 20) (fld 6 w 14) (fld 6 w 8))
  else if bits w 7 0 == 3 then some (.mulh (fld 6 w 20) (fld 6 w 14) (fld 6 w 8))
  else if bits w 7 0 == 4 then some (.mulhU (fld 6 w 20) (fld 6 w 14) (fld 6 w 8))
  else if bits w 7 0 == 5 then some (.div (fld 6 w 20) (fld 6 w 14) (fld 6 w 8))
  else if bits w 7 0 == 6 then some (.divU (fld 6 w 20) (fld 6 w 14) (fld 6 w 8))
  else if bits w 7 0 == 7 then some (.rem (fld 6 w 20) (fld 6 w 14) (fld 6 w 8))
  else if bits w 7 0 == 8 then some (.remU (fld 6 w 20) (fld 6 w 14) (fld 6 w 8))
  else if bits w 7 0 == 16 then some (.and (fld 6 w 20) (fld 6 w 14) (fld 6 w 8))
  else if bits w 7 0 == 17 then some (.andn (fld 6 w 20) (fld 6 w 14) (fld 6 w 8))
  else if bits w 7 0 == 18 then some (.or (fld 6 w 20) (fld 6 w 14) (fld 6 w 8))
  else if bits w 7 0 == 19 then some (.xor (fld 6 w 20) (fld 6 w 14) (fld 6 w 8))
  else if bits w 7 0 == 20 then some (.shl (fld 6 w 20) (fld 6 w 14) (fld 6 w 8))
  else if bits w 7 0 == 21 then some (.shr (fld 6 w 20) (fld 6 w 14) (fld 6 w 8))
  else if bits w 7 0 == 22 then some (.shrA (fld 6 w 20) (fld 6 w 14) (fld 6 w 8))
  else if bits w 7 0 == 23 then some (.rot (fld 6 w 20) (fld 6 w 14) (fld 6 w 8))
  else if bits w 7 0 == 32 then some (.min (fld 6 w 20) (fld 6 w 14) (fld 6 w 8))
  else if bits w 7 0 == 33 then some (.minU (fld 6 w 20) (fld 6 w 14) (fld 6 w 8))
  else if bits w 7 0 == 34 then some (.max (fld 6 w 20) (fld 6 w 14) (fld 6 w 8))
  else if bits w 7 0 == 35 then some (.maxU (fld 6 w 20) (fld 6 w 14) (fld 6 w 8))
  else if bits w 7 0 == 36 then some (.sel (fld 6 w 20) (fld 6 w 14) (fld 6 w 8))
  else if bits w 13 0 == 40 then some (.clz (fld 6 w 20) (fld 6 w 14))
  else if bits w 13 0 == 41 then some (.ctz (fld 6 w 20) (fld 6 w 14))
  else if bits w 13 0 == 42 then some (.popc (fld 6 w 20) (fld 6 w 14))
  else if bits w 7 3 == 6 then some (.set (fld 6 w 20) (fld 6 w 14) (fld 6 w 8) (fld 3 w 0))
  else if bits w 7 2 == 14 then some (.addsh (fld 6 w 20) (fld 6 w 14) (fld 6 w 8) (fld 2 w 0))
  else none

/-- Major opcode 0x02 (R75). -/
def decodeOp02 (w : Nat) : Option Instr :=
  if bits w 25 0 == 0 then some (.nop)
  else some (.addi (fld 6 w 20) (fld 6 w 14) (fld 14 w 0))

/-- Major opcode 0x03 (R75). -/
def decodeOp03 (w : Nat) : Option Instr :=
  some (.andi (fld 6 w 20) (fld 6 w 14) (fld 14 w 0))

/-- Major opcode 0x04 (R75). -/
def decodeOp04 (w : Nat) : Option Instr :=
  some (.ori (fld 6 w 20) (fld 6 w 14) (fld 14 w 0))

/-- Major opcode 0x05 (R75). -/
def decodeOp05 (w : Nat) : Option Instr :=
  some (.xori (fld 6 w 20) (fld 6 w 14) (fld 14 w 0))

/-- Major opcode 0x06 (R75). -/
def decodeOp06 (w : Nat) : Option Instr :=
  if bits w 11 6 == 0 then some (.shi (fld 6 w 20) (fld 6 w 14) (fld 2 w 12) (fld 6 w 0))
  else none

/-- Major opcode 0x07 (R75). -/
def decodeOp07 (w : Nat) : Option Instr :=
  some (.seti (fld 6 w 20) (fld 6 w 14) (fld 3 w 11) (fld 11 w 0))

/-- Major opcode 0x08 (R75). -/
def decodeOp08 (w : Nat) : Option Instr :=
  some (.movi (fld 6 w 20) (fld 20 w 0))

/-- Major opcode 0x09 (R75). -/
def decodeOp09 (w : Nat) : Option Instr :=
  some (.movhi (fld 6 w 20) (fld 20 w 0))

/-- Major opcode 0x0A (R75). -/
def decodeOp0A (w : Nat) : Option Instr :=
  some (.muli (fld 6 w 20) (fld 6 w 14) (fld 14 w 0))

/-- Major opcode 0x10 (R75). -/
def decodeOp10 (w : Nat) : Option Instr :=
  if bits w 3 0 == 0 then some (.fadd (fld 6 w 20) (fld 6 w 14) (fld 6 w 8) (fld 2 w 6) (fld 2 w 4))
  else if bits w 3 0 == 1 then some (.fsub (fld 6 w 20) (fld 6 w 14) (fld 6 w 8) (fld 2 w 6) (fld 2 w 4))
  else if bits w 3 0 == 2 then some (.fmul (fld 6 w 20) (fld 6 w 14) (fld 6 w 8) (fld 2 w 6) (fld 2 w 4))
  else if bits w 3 0 == 3 then some (.fdiv (fld 6 w 20) (fld 6 w 14) (fld 6 w 8) (fld 2 w 6) (fld 2 w 4))
  else if bits w 13 8 == 0 && bits w 3 0 == 4 then some (.fsqrt (fld 6 w 20) (fld 6 w 14) (fld 2 w 6) (fld 2 w 4))
  else if bits w 5 0 == 5 then some (.fmin (fld 6 w 20) (fld 6 w 14) (fld 6 w 8) (fld 2 w 6))
  else if bits w 5 0 == 6 then some (.fmax (fld 6 w 20) (fld 6 w 14) (fld 6 w 8) (fld 2 w 6))
  else if bits w 5 0 == 7 then some (.fsetEq (fld 6 w 20) (fld 6 w 14) (fld 6 w 8) (fld 2 w 6))
  else if bits w 5 0 == 8 then some (.fsetLt (fld 6 w 20) (fld 6 w 14) (fld 6 w 8) (fld 2 w 6))
  else if bits w 5 0 == 9 then some (.fsetLe (fld 6 w 20) (fld 6 w 14) (fld 6 w 8) (fld 2 w 6))
  else if bits w 5 0 == 10 then some (.fsetUn (fld 6 w 20) (fld 6 w 14) (fld 6 w 8) (fld 2 w 6))
  else if bits w 13 8 == 0 && bits w 5 0 == 11 then some (.fclass (fld 6 w 20) (fld 6 w 14) (fld 2 w 6))
  else if bits w 13 8 == 0 && bits w 5 0 == 12 then some (.fneg (fld 6 w 20) (fld 6 w 14) (fld 2 w 6))
  else if bits w 13 8 == 0 && bits w 5 0 == 13 then some (.fabs (fld 6 w 20) (fld 6 w 14) (fld 2 w 6))
  else none

/-- Major opcode 0x11 (R75). -/
def decodeOp11 (w : Nat) : Option Instr :=
  some (.fmaFp32 (fld 6 w 20) (fld 6 w 14) (fld 6 w 8) (fld 6 w 2) (fld 2 w 0))

/-- Major opcode 0x12 (R75). -/
def decodeOp12 (w : Nat) : Option Instr :=
  some (.fmaFp16 (fld 6 w 20) (fld 6 w 14) (fld 6 w 8) (fld 6 w 2) (fld 2 w 0))

/-- Major opcode 0x13 (R75). -/
def decodeOp13 (w : Nat) : Option Instr :=
  if bits w 13 12 == 0 && bits w 1 0 == 0 then some (.fcvt (fld 6 w 20) (fld 6 w 14) (fld 4 w 8) (fld 4 w 4) (fld 2 w 2))
  else none

/-- Major opcode 0x18 (R75). -/
def decodeOp18 (w : Nat) : Option Instr :=
  if bits w 7 0 == 0 then some (.cbnd (fld 6 w 20) (fld 6 w 14) (fld 6 w 8))
  else if bits w 7 0 == 1 then some (.cbndX (fld 6 w 20) (fld 6 w 14) (fld 6 w 8))
  else if bits w 7 0 == 2 then some (.cprm (fld 6 w 20) (fld 6 w 14) (fld 6 w 8))
  else if bits w 13 0 == 3 then some (.cgetBase (fld 6 w 20) (fld 6 w 14))
  else if bits w 13 0 == 4 then some (.cgetLen (fld 6 w 20) (fld 6 w 14))
  else if bits w 13 0 == 5 then some (.cgetPerm (fld 6 w 20) (fld 6 w 14))
  else if bits w 13 0 == 6 then some (.cgetTag (fld 6 w 20) (fld 6 w 14))
  else if bits w 13 0 == 7 then some (.cclr (fld 6 w 20) (fld 6 w 14))
  else if bits w 7 0 == 8 then some (.cadd (fld 6 w 20) (fld 6 w 14) (fld 6 w 8))
  else if bits w 7 0 == 9 then some (.ldC (fld 6 w 20) (fld 6 w 14) (fld 6 w 8))
  else if bits w 7 0 == 10 then some (.stC (fld 6 w 20) (fld 6 w 14) (fld 6 w 8))
  else none

/-- Major opcode 0x19 (R75). -/
def decodeOp19 (w : Nat) : Option Instr :=
  some (.caddi (fld 6 w 20) (fld 6 w 14) (fld 14 w 0))

/-- Major opcode 0x1C (R75). -/
def decodeOp1C (w : Nat) : Option Instr :=
  some (.b (fld 6 w 20) (fld 6 w 14) (fld 3 w 11) (fld 11 w 0))

/-- Major opcode 0x1D (R75). -/
def decodeOp1D (w : Nat) : Option Instr :=
  some (.j (fld 26 w 0))

/-- Major opcode 0x1E (R75). -/
def decodeOp1E (w : Nat) : Option Instr :=
  some (.jal (fld 6 w 20) (fld 20 w 0))

/-- Major opcode 0x1F (R75). -/
def decodeOp1F (w : Nat) : Option Instr :=
  some (.jr (fld 6 w 20) (fld 6 w 14) (fld 14 w 0))

/-- Major opcode 0x20 (R75). -/
def decodeOp20 (w : Nat) : Option Instr :=
  some (.ld (fld 6 w 20) (fld 6 w 14) (fld 2 w 12) (fld 3 w 9) (fld 3 w 6) (fld 6 w 0))

/-- Major opcode 0x21 (R75). -/
def decodeOp21 (w : Nat) : Option Instr :=
  some (.st (fld 6 w 20) (fld 6 w 14) (fld 2 w 12) (fld 3 w 9) (fld 3 w 6) (fld 6 w 0))

/-- Major opcode 0x22 (R75). -/
def decodeOp22 (w : Nat) : Option Instr :=
  some (.ldX (fld 6 w 20) (fld 6 w 14) (fld 2 w 12) (fld 3 w 9) (fld 3 w 6) (fld 6 w 0))

/-- Major opcode 0x23 (R75). -/
def decodeOp23 (w : Nat) : Option Instr :=
  some (.stX (fld 6 w 20) (fld 6 w 14) (fld 2 w 12) (fld 3 w 9) (fld 3 w 6) (fld 6 w 0))

/-- Major opcode 0x24 (R75). -/
def decodeOp24 (w : Nat) : Option Instr :=
  some (.amo (fld 6 w 20) (fld 6 w 14) (fld 6 w 8) (fld 4 w 4) (fld 2 w 2) (fld 2 w 0))

/-- Major opcode 0x25 (R75). -/
def decodeOp25 (w : Nat) : Option Instr :=
  if bits w 7 4 == 0 then some (.cas (fld 6 w 20) (fld 6 w 14) (fld 6 w 8) (fld 2 w 2) (fld 2 w 0))
  else none

/-- Major opcode 0x26 (R75). -/
def decodeOp26 (w : Nat) : Option Instr :=
  if bits w 25 14 == 0 && bits w 2 0 == 0 then some (.fence (fld 4 w 10) (fld 4 w 6) (fld 3 w 3))
  else none

/-- Major opcode 0x27 (R75). -/
def decodeOp27 (w : Nat) : Option Instr :=
  if bits w 25 20 == 0 && bits w 11 6 == 0 then some (.pref (fld 6 w 14) (fld 2 w 12) (fld 6 w 0))
  else none

/-- Major opcode 0x28 (R75). -/
def decodeOp28 (w : Nat) : Option Instr :=
  if bits w 13 2 == 0 then some (.sbind (fld 6 w 20) (fld 6 w 14) (fld 2 w 0))
  else none

/-- Major opcode 0x29 (R75). -/
def decodeOp29 (w : Nat) : Option Instr :=
  if bits w 19 0 == 0 then some (.sfree (fld 6 w 20))
  else none

/-- Major opcode 0x2A (R75). -/
def decodeOp2A (w : Nat) : Option Instr :=
  if bits w 25 20 == 0 then some (.send (fld 6 w 14) (fld 6 w 8) (fld 8 w 0))
  else none

/-- Major opcode 0x2B (R75). -/
def decodeOp2B (w : Nat) : Option Instr :=
  some (.rld (fld 6 w 20) (fld 6 w 14) (fld 2 w 12) (fld 3 w 9) (fld 3 w 6) (fld 6 w 0))

/-- Major opcode 0x2C (R75). -/
def decodeOp2C (w : Nat) : Option Instr :=
  some (.rst (fld 6 w 20) (fld 6 w 14) (fld 2 w 12) (fld 3 w 9) (fld 3 w 6) (fld 6 w 0))

/-- Major opcode 0x2D (R75). -/
def decodeOp2D (w : Nat) : Option Instr :=
  some (.ramo (fld 6 w 20) (fld 6 w 14) (fld 6 w 8) (fld 4 w 4) (fld 2 w 2) (fld 2 w 0))

/-- Major opcode 0x2E (R75). -/
def decodeOp2E (w : Nat) : Option Instr :=
  if bits w 25 0 == 0 then some (.mwait)
  else if bits w 19 0 == 1 then some (.mpop (fld 6 w 20))
  else none

/-- Major opcode 0x2F (R75). -/
def decodeOp2F (w : Nat) : Option Instr :=
  if bits w 25 20 == 0 && bits w 5 0 == 0 then some (.cntw (fld 6 w 14) (fld 6 w 8) (fld 2 w 6))
  else if bits w 19 14 == 0 && bits w 5 0 == 1 then some (.cntr (fld 6 w 20) (fld 6 w 8) (fld 2 w 6))
  else if bits w 25 20 == 0 && bits w 5 0 == 2 then some (.cnts (fld 6 w 14) (fld 6 w 8) (fld 2 w 6))
  else if bits w 25 20 == 0 && bits w 5 0 == 3 then some (.cnta (fld 6 w 14) (fld 6 w 8) (fld 2 w 6))
  else if bits w 25 20 == 0 && bits w 13 12 == 0 && bits w 7 0 == 4 then some (.cbadvP (fld 6 w 14) (fld 4 w 8))
  else if bits w 25 20 == 0 && bits w 13 12 == 0 && bits w 7 0 == 5 then some (.cbadvC (fld 6 w 14) (fld 4 w 8))
  else none

/-- Major opcode 0x30 (R75). -/
def decodeOp30 (w : Nat) : Option Instr :=
  if bits w 7 0 == 0 then some (.spawn (fld 6 w 20) (fld 6 w 14) (fld 6 w 8))
  else if bits w 7 7 == 1 then some (.spawnP (fld 6 w 20) (fld 6 w 14) (fld 6 w 8) (fld 7 w 0))
  else none

/-- Major opcode 0x31 (R75). -/
def decodeOp31 (w : Nat) : Option Instr :=
  if bits w 25 0 == 0 then some (.suspMbox)
  else if bits w 25 20 == 0 && bits w 13 8 == 8 then some (.suspCnt (fld 6 w 14) (fld 8 w 0))
  else if bits w 25 20 == 0 && bits w 13 0 == 4096 then some (.suspJob (fld 6 w 14))
  else if bits w 25 3 == 768 then some (.suspStrm (fld 3 w 0))
  else if bits w 25 20 == 0 && bits w 13 0 == 8192 then some (.suspTime (fld 6 w 14))
  else if bits w 25 0 == 10240 then some (.suspReply)
  else none

/-- Major opcode 0x32 (R75). -/
def decodeOp32 (w : Nat) : Option Instr :=
  if bits w 25 0 == 0 then some (.yield)
  else if bits w 25 0 == 1 then some (.exit)
  else none

/-- Major opcode 0x33 (R75). -/
def decodeOp33 (w : Nat) : Option Instr :=
  if bits w 25 20 == 0 && bits w 13 0 == 0 then some (.join (fld 6 w 14))
  else if bits w 25 20 == 0 && bits w 13 0 == 1 then some (.leave (fld 6 w 14))
  else none

/-- Major opcode 0x34 (R75). -/
def decodeOp34 (w : Nat) : Option Instr :=
  if bits w 25 20 == 0 && bits w 13 0 == 0 then some (.hbar (fld 6 w 14))
  else if bits w 25 20 == 0 && bits w 13 0 == 1 then some (.hbarArrive (fld 6 w 14))
  else if bits w 25 20 == 0 && bits w 13 0 == 2 then some (.hbarWait (fld 6 w 14))
  else none

/-- Major opcode 0x35 (R75). -/
def decodeOp35 (w : Nat) : Option Instr :=
  if bits w 25 0 == 0 then some (.gangF)
  else if bits w 25 3 == 0 then some (.gang (fld 3 w 0))
  else if bits w 25 0 == 8192 then some (.ungang)
  else none

/-- Major opcode 0x36 (R75). -/
def decodeOp36 (w : Nat) : Option Instr :=
  if bits w 25 20 == 0 && bits w 13 0 == 0 then some (.jwait (fld 6 w 14))
  else if bits w 13 0 == 1 then some (.jpoll (fld 6 w 20) (fld 6 w 14))
  else none

/-- Major opcode 0x37 (R75). -/
def decodeOp37 (w : Nat) : Option Instr :=
  if bits w 25 20 == 0 && bits w 13 0 == 0 then some (.whistle (fld 6 w 14))
  else if bits w 25 20 == 0 && bits w 13 0 == 1 then some (.ssend (fld 6 w 14))
  else if bits w 25 20 == 0 && bits w 13 0 == 2 then some (.srecv (fld 6 w 14))
  else none

/-- Major opcode 0x38 (R75). -/
def decodeOp38 (w : Nat) : Option Instr :=
  if bits w 8 8 == 0 && bits w 3 0 == 0 then some (.vadd (fld 4 w 22) (fld 4 w 18) (fld 4 w 14) (fld 2 w 12) (fld 1 w 11) (fld 1 w 10) (fld 1 w 9) (fld 2 w 6) (fld 2 w 4))
  else if bits w 8 8 == 0 && bits w 3 0 == 1 then some (.vsub (fld 4 w 22) (fld 4 w 18) (fld 4 w 14) (fld 2 w 12) (fld 1 w 11) (fld 1 w 10) (fld 1 w 9) (fld 2 w 6) (fld 2 w 4))
  else if bits w 8 8 == 0 && bits w 3 0 == 2 then some (.vmul (fld 4 w 22) (fld 4 w 18) (fld 4 w 14) (fld 2 w 12) (fld 1 w 11) (fld 1 w 10) (fld 1 w 9) (fld 2 w 6) (fld 2 w 4))
  else if bits w 8 8 == 0 && bits w 3 0 == 3 then some (.vfma (fld 4 w 22) (fld 4 w 18) (fld 4 w 14) (fld 2 w 12) (fld 1 w 11) (fld 1 w 10) (fld 1 w 9) (fld 2 w 6) (fld 2 w 4))
  else if bits w 8 8 == 0 && bits w 3 0 == 4 then some (.vmin (fld 4 w 22) (fld 4 w 18) (fld 4 w 14) (fld 2 w 12) (fld 1 w 11) (fld 1 w 10) (fld 1 w 9) (fld 2 w 6) (fld 2 w 4))
  else if bits w 8 8 == 0 && bits w 3 0 == 5 then some (.vmax (fld 4 w 22) (fld 4 w 18) (fld 4 w 14) (fld 2 w 12) (fld 1 w 11) (fld 1 w 10) (fld 1 w 9) (fld 2 w 6) (fld 2 w 4))
  else if bits w 8 8 == 0 && bits w 3 0 == 6 then some (.vand (fld 4 w 22) (fld 4 w 18) (fld 4 w 14) (fld 2 w 12) (fld 1 w 11) (fld 1 w 10) (fld 1 w 9) (fld 2 w 6) (fld 2 w 4))
  else if bits w 8 8 == 0 && bits w 3 0 == 7 then some (.vor (fld 4 w 22) (fld 4 w 18) (fld 4 w 14) (fld 2 w 12) (fld 1 w 11) (fld 1 w 10) (fld 1 w 9) (fld 2 w 6) (fld 2 w 4))
  else if bits w 8 8 == 0 && bits w 3 0 == 8 then some (.vxor (fld 4 w 22) (fld 4 w 18) (fld 4 w 14) (fld 2 w 12) (fld 1 w 11) (fld 1 w 10) (fld 1 w 9) (fld 2 w 6) (fld 2 w 4))
  else if bits w 8 8 == 0 && bits w 3 0 == 9 then some (.vshl (fld 4 w 22) (fld 4 w 18) (fld 4 w 14) (fld 2 w 12) (fld 1 w 11) (fld 1 w 10) (fld 1 w 9) (fld 2 w 6) (fld 2 w 4))
  else if bits w 8 8 == 0 && bits w 3 0 == 10 then some (.vshr (fld 4 w 22) (fld 4 w 18) (fld 4 w 14) (fld 2 w 12) (fld 1 w 11) (fld 1 w 10) (fld 1 w 9) (fld 2 w 6) (fld 2 w 4))
  else if bits w 8 8 == 0 && bits w 3 0 == 11 then some (.vsel (fld 4 w 22) (fld 4 w 18) (fld 4 w 14) (fld 2 w 12) (fld 1 w 11) (fld 1 w 10) (fld 1 w 9) (fld 2 w 6) (fld 2 w 4))
  else if bits w 8 8 == 0 && bits w 3 0 == 12 then some (.vset (fld 4 w 22) (fld 4 w 18) (fld 4 w 14) (fld 2 w 12) (fld 1 w 11) (fld 1 w 10) (fld 1 w 9) (fld 2 w 6) (fld 2 w 4))
  else if bits w 17 14 == 0 && bits w 10 10 == 0 && bits w 8 6 == 0 && bits w 3 0 == 13 then some (.vexp (fld 4 w 22) (fld 4 w 18) (fld 2 w 12) (fld 1 w 11) (fld 1 w 9) (fld 2 w 4))
  else if bits w 17 14 == 0 && bits w 10 10 == 0 && bits w 8 6 == 0 && bits w 3 0 == 14 then some (.vrcp (fld 4 w 22) (fld 4 w 18) (fld 2 w 12) (fld 1 w 11) (fld 1 w 9) (fld 2 w 4))
  else if bits w 17 14 == 0 && bits w 10 10 == 0 && bits w 8 6 == 0 && bits w 3 0 == 15 then some (.vrsq (fld 4 w 22) (fld 4 w 18) (fld 2 w 12) (fld 1 w 11) (fld 1 w 9) (fld 2 w 4))
  else none

/-- Major opcode 0x39 (R75). -/
def decodeOp39 (w : Nat) : Option Instr :=
  if bits w 17 14 == 0 && bits w 10 10 == 0 && bits w 8 6 == 0 && bits w 3 0 == 0 then some (.vredAdd (fld 4 w 22) (fld 4 w 18) (fld 2 w 12) (fld 1 w 11) (fld 1 w 9) (fld 2 w 4))
  else if bits w 17 14 == 0 && bits w 10 10 == 0 && bits w 8 6 == 0 && bits w 3 0 == 1 then some (.vredMin (fld 4 w 22) (fld 4 w 18) (fld 2 w 12) (fld 1 w 11) (fld 1 w 9) (fld 2 w 4))
  else if bits w 17 14 == 0 && bits w 10 10 == 0 && bits w 8 6 == 0 && bits w 3 0 == 2 then some (.vredMax (fld 4 w 22) (fld 4 w 18) (fld 2 w 12) (fld 1 w 11) (fld 1 w 9) (fld 2 w 4))
  else if bits w 8 8 == 0 && bits w 5 0 == 4 then some (.vperm (fld 4 w 22) (fld 4 w 18) (fld 4 w 14) (fld 2 w 12) (fld 1 w 11) (fld 1 w 10) (fld 1 w 9) (fld 2 w 6))
  else if bits w 8 8 == 0 && bits w 3 0 == 5 then some (.vbcast (fld 4 w 22) (fld 4 w 18) (fld 4 w 14) (fld 2 w 12) (fld 1 w 11) (fld 1 w 10) (fld 1 w 9) (fld 2 w 6) (fld 2 w 4))
  else if bits w 21 14 == 0 && bits w 10 10 == 0 && bits w 8 0 == 6 then some (.vidx (fld 4 w 22) (fld 2 w 12) (fld 1 w 11) (fld 1 w 9))
  else if bits w 11 10 == 1 && bits w 8 8 == 0 && bits w 5 0 == 7 then some (.vmovg (fld 4 w 22) (fld 4 w 18) (fld 4 w 14) (fld 2 w 12) (fld 1 w 9) (fld 2 w 6))
  else if bits w 13 12 == 0 && bits w 10 10 == 0 && bits w 8 8 == 0 && bits w 3 0 == 8 then some (.vcvt (fld 4 w 22) (fld 4 w 18) (fld 4 w 14) (fld 1 w 11) (fld 1 w 9) (fld 4 w 4))
  else none

/-- Major opcode 0x3A (R75). -/
def decodeOp3A (w : Nat) : Option Instr :=
  if bits w 7 2 == 0 && bits w 0 0 == 0 then some (.vld (fld 4 w 22) (fld 6 w 16) (fld 2 w 14) (fld 6 w 8) (fld 1 w 1))
  else if bits w 7 2 == 0 && bits w 0 0 == 1 then some (.vst (fld 4 w 22) (fld 6 w 16) (fld 2 w 14) (fld 6 w 8) (fld 1 w 1))
  else if bits w 7 7 == 1 && bits w 0 0 == 0 then some (.vldShape (fld 4 w 22) (fld 6 w 16) (fld 2 w 14) (fld 6 w 8) (fld 5 w 2) (fld 1 w 1))
  else if bits w 7 7 == 1 && bits w 0 0 == 1 then some (.vstShape (fld 4 w 22) (fld 6 w 16) (fld 2 w 14) (fld 6 w 8) (fld 5 w 2) (fld 1 w 1))
  else none

/-- Major opcode 0x3B (R75). -/
def decodeOp3B (w : Nat) : Option Instr :=
  if bits w 21 18 == 0 && bits w 13 8 == 4 && bits w 5 0 == 0 then some (.vseq (fld 4 w 22) (fld 4 w 14) (fld 2 w 6))
  else if bits w 25 18 == 0 && bits w 13 8 == 4 && bits w 5 0 == 1 then some (.vsetl (fld 4 w 14) (fld 2 w 6))
  else none

/-- Major opcode 0x3D (R75). -/
def decodeOp3D (w : Nat) : Option Instr :=
  if bits w 25 20 == 0 then some (.ckpt (fld 20 w 0))
  else none

/-- Major opcode 0x3E (R75). -/
def decodeOp3E (w : Nat) : Option Instr :=
  if bits w 25 20 == 0 && bits w 13 12 == 0 then some (.csrw (fld 6 w 14) (fld 12 w 0))
  else if bits w 19 12 == 0 then some (.csrr (fld 6 w 20) (fld 12 w 0))
  else if bits w 13 12 == 0 then some (.csrx (fld 6 w 20) (fld 6 w 14) (fld 12 w 0))
  else if bits w 25 12 == 1 then some (.trap (fld 12 w 0))
  else if bits w 25 0 == 8192 then some (.eret)
  else if bits w 25 0 == 8193 then some (.idle)
  else if bits w 25 20 == 0 && bits w 13 0 == 8194 then some (.synci (fld 6 w 14))
  else if bits w 25 20 == 0 && bits w 13 0 == 8195 then some (.tlbi (fld 6 w 14))
  else none

/-- The control word `w` as an instruction, before the field rules of `Instr.wellFormed`: the
opcode, the function and the reserved fields (R75 to R90). -/
def decodeRaw (w : Nat) : Option Instr :=
  match w / 2 ^ 26 with
  | 0x01 => decodeOp01 w
  | 0x02 => decodeOp02 w
  | 0x03 => decodeOp03 w
  | 0x04 => decodeOp04 w
  | 0x05 => decodeOp05 w
  | 0x06 => decodeOp06 w
  | 0x07 => decodeOp07 w
  | 0x08 => decodeOp08 w
  | 0x09 => decodeOp09 w
  | 0x0A => decodeOp0A w
  | 0x10 => decodeOp10 w
  | 0x11 => decodeOp11 w
  | 0x12 => decodeOp12 w
  | 0x13 => decodeOp13 w
  | 0x18 => decodeOp18 w
  | 0x19 => decodeOp19 w
  | 0x1C => decodeOp1C w
  | 0x1D => decodeOp1D w
  | 0x1E => decodeOp1E w
  | 0x1F => decodeOp1F w
  | 0x20 => decodeOp20 w
  | 0x21 => decodeOp21 w
  | 0x22 => decodeOp22 w
  | 0x23 => decodeOp23 w
  | 0x24 => decodeOp24 w
  | 0x25 => decodeOp25 w
  | 0x26 => decodeOp26 w
  | 0x27 => decodeOp27 w
  | 0x28 => decodeOp28 w
  | 0x29 => decodeOp29 w
  | 0x2A => decodeOp2A w
  | 0x2B => decodeOp2B w
  | 0x2C => decodeOp2C w
  | 0x2D => decodeOp2D w
  | 0x2E => decodeOp2E w
  | 0x2F => decodeOp2F w
  | 0x30 => decodeOp30 w
  | 0x31 => decodeOp31 w
  | 0x32 => decodeOp32 w
  | 0x33 => decodeOp33 w
  | 0x34 => decodeOp34 w
  | 0x35 => decodeOp35 w
  | 0x36 => decodeOp36 w
  | 0x37 => decodeOp37 w
  | 0x38 => decodeOp38 w
  | 0x39 => decodeOp39 w
  | 0x3A => decodeOp3A w
  | 0x3B => decodeOp3B w
  | 0x3D => decodeOp3D w
  | 0x3E => decodeOp3E w
  | _ => none

/-- The opcodes that R75 assigns. -/
def opcodeAssigned (op : Nat) : Bool :=
  op == 0x3F || op == 0x01 || op == 0x02 || op == 0x03 || op == 0x04 || op == 0x05 || op == 0x06 || op == 0x07 || op == 0x08 || op == 0x09 || op == 0x0A || op == 0x10 || op == 0x11 || op == 0x12 || op == 0x13 || op == 0x18 || op == 0x19 || op == 0x1C || op == 0x1D || op == 0x1E || op == 0x1F || op == 0x20 || op == 0x21 || op == 0x22 || op == 0x23 || op == 0x24 || op == 0x25 || op == 0x26 || op == 0x27 || op == 0x28 || op == 0x29 || op == 0x2A || op == 0x2B || op == 0x2C || op == 0x2D || op == 0x2E || op == 0x2F || op == 0x30 || op == 0x31 || op == 0x32 || op == 0x33 || op == 0x34 || op == 0x35 || op == 0x36 || op == 0x37 || op == 0x38 || op == 0x39 || op == 0x3A || op == 0x3B || op == 0x3D || op == 0x3E

/-- A control word: the instruction, or the name of what is wrong with it. -/
def decodeControl (w : Nat) : Except Reject Instr :=
  match decodeRaw w with
  | some i => if i.wellFormed then .ok i else .error .fieldRule
  | none => if opcodeAssigned (w / 2 ^ 26) then .error .function else .error .opcode

/-- The fields of a tile command, word `k` in bits `[32k+31:32k]` (R91, R94). -/
def tileOf (w : Nat) : Tile :=
  { cls := fld 4 w 16, d := fld 6 w 20, flags := fld 8 w 0,
    x := fld 6 w 58, y := fld 6 w 52, z := fld 6 w 46, w := fld 6 w 40, shape := fld 8 w 32,
    ha := fld 6 w 90, hb := fld 6 w 84, cnt := fld 8 w 76, scope := fld 3 w 73,
    srcFree := bits w 72 72 == 1, visible := bits w 71 71 == 1, jobDone := bits w 70 70 == 1,
    inRing := fld 4 w 124, inCount := fld 12 w 112, outRing := fld 4 w 108, outCount := fld 12 w 96,
    w4 := fld 32 w 128, w5 := fld 32 w 160, w6 := fld 32 w 192, p := fld 6 w 250 }

/-- The command that an engine class and a tile op name (R91). -/
def tileOp (cls op : Nat) (c : Tile) : Option Instr :=
  match cls, op with
  | 0, 0x01 => some (.mma c)
  | 0, 0x02 => some (.accrd c)
  | 0, 0x03 => some (.accrel c)
  | 0, 0x10 => some (.outer c)
  | 0, 0x11 => some (.fold c)
  | 0, 0x12 => some (.scan c)
  | 0, 0x13 => some (.zip c)
  | 1, 0x01 => some (.copy c)
  | 1, 0x02 => some (.get c)
  | 1, 0x03 => some (if bitOf c.flags.toNat 5 then .putAdd c else .put c)
  | 1, 0x04 => some (.pack c)
  | 1, 0x05 => some (.compact c)
  | 1, 0x11 => some (.fold c)
  | 1, 0x12 => some (.scan c)
  | 1, 0x13 => some (.zip c)
  | 1, 0x20 => some (.qfence c)
  | 2, 0x01 => some (.lookup c)
  | 3, 0x01 => some (.coll c)
  | _, _ => none

/-- A 256-bit tile command word (R91): word 2[5:0] and word 7[25:0] are reserved. -/
def decodeTile (w : Nat) : Except Reject Instr :=
  if bits w 31 26 == 0x3F then
    if bits w 69 64 == 0 && bits w 249 224 == 0 then
      match tileOp (bits w 19 16) (bits w 15 8) (tileOf w) with
      | some i => if i.wellFormed then .ok i else .error .fieldRule
      | none => .error .function
    else .error .fieldRule
  else .error .opcode

/-- A routine slot (R193, R194), in `nbits` 16, or with its literal slot above it in 32. -/
def decodeSlotRaw (w : Nat) : Option Instr :=
  match bits w 15 11 with
  | 0 => if bits w 4 0 == 0 then some (.rmov (fld 3 w 8) (fld 3 w 5)) else none
  | 1 => if bits w 1 0 == 0 then some (.radd (fld 3 w 8) (fld 3 w 5) (fld 3 w 2)) else none
  | 2 => if bits w 1 0 == 0 then some (.rsub (fld 3 w 8) (fld 3 w 5) (fld 3 w 2)) else none
  | 3 => if bits w 1 0 == 0 then some (.rmul (fld 3 w 8) (fld 3 w 5) (fld 3 w 2)) else none
  | 4 => if bits w 1 0 == 0 then some (.rfma (fld 3 w 8) (fld 3 w 5) (fld 3 w 2)) else none
  | 5 => if bits w 1 0 == 0 then some (.rmin (fld 3 w 8) (fld 3 w 5) (fld 3 w 2)) else none
  | 6 => if bits w 1 0 == 0 then some (.rmax (fld 3 w 8) (fld 3 w 5) (fld 3 w 2)) else none
  | 7 => if bits w 4 0 == 0 then some (.rneg (fld 3 w 8) (fld 3 w 5)) else none
  | 8 => if bits w 4 0 == 0 then some (.rabs (fld 3 w 8) (fld 3 w 5)) else none
  | 9 => if bits w 1 0 == 0 then some (.rcmplt (fld 3 w 8) (fld 3 w 5) (fld 3 w 2)) else none
  | 10 => if bits w 1 0 == 0 then some (.rcmpeq (fld 3 w 8) (fld 3 w 5) (fld 3 w 2)) else none
  | 11 => if bits w 1 0 == 0 then some (.rsel (fld 3 w 8) (fld 3 w 5) (fld 3 w 2)) else none
  | 12 => if bits w 1 0 == 0 then some (.rand (fld 3 w 8) (fld 3 w 5) (fld 3 w 2)) else none
  | 13 => if bits w 1 0 == 0 then some (.ror (fld 3 w 8) (fld 3 w 5) (fld 3 w 2)) else none
  | 14 => if bits w 1 0 == 0 then some (.rxor (fld 3 w 8) (fld 3 w 5) (fld 3 w 2)) else none
  | 15 => if bits w 1 0 == 0 then some (.rshl (fld 3 w 8) (fld 3 w 5) (fld 3 w 2)) else none
  | 16 => if bits w 1 1 == 0 then some (.rshr (fld 3 w 8) (fld 3 w 5) (fld 3 w 2) (fld 1 w 0)) else none
  | 17 => if bits w 1 0 == 0 then some (.rcvt (fld 3 w 8) (fld 3 w 5) (fld 3 w 2)) else none
  | 18 => if bits w 4 0 == 0 then some (.rexp (fld 3 w 8) (fld 3 w 5)) else none
  | 19 => if bits w 7 0 == 0 then some (.rconst (fld 16 w 16) (fld 3 w 8)) else none
  | 20 => if bits w 10 0 == 0 then some (.rret) else none
  | _ => none

/-- A routine slot, with the field rules. -/
def decodeSlot (w : Nat) : Except Reject Instr :=
  match decodeSlotRaw w with
  | some i => if i.wellFormed then .ok i else .error .fieldRule
  | none => .error .function

/-- The instruction at the head of a list of bytes, and the bytes after it (R71, R97). -/
def decodeBytes (bs : List Byte) : Except Reject (Instr × List Byte) :=
  if bs.length < 4 then .error .tooShort
  else
    let w := ofBytesLE (bs.take 4)
    if w / 2 ^ 26 == 0x3F then
      if bs.length < 32 then .error .tooShort
      else (decodeTile (ofBytesLE (bs.take 32))).map (fun i => (i, bs.drop 32))
    else (decodeControl w).map (fun i => (i, bs.drop 4))

/-- The instruction, where there is one. -/
def okInstr : Except Reject Instr → Option Instr
  | .ok i => some i
  | .error _ => none

/-- The instruction whose bits are `w`, numbered as spec/opcode_table.json numbers them: a routine
slot in 16 bits, a control word in 32 bits or RCONST with its literal where no control word has
them, a tile command in 256 bits. -/
def decodeTableWord (nbits w : Nat) : Option Instr :=
  if nbits == 16 then okInstr (decodeSlot (w % 2 ^ 16))
  else if nbits == 32 then
    match decodeControl (w % 2 ^ 32) with
    | .ok i => some i
    | .error _ => if bits w 15 11 == 19 then okInstr (decodeSlot (w % 2 ^ 32)) else none
  else if nbits == 256 then okInstr (decodeTile (w % 2 ^ 256))
  else none

/-- The 256 bits of a tile command with tile op `op` (R91, R94). -/
def encodeTile (op : Nat) (c : Tile) : Nat :=
  (0x3F * 2 ^ 26 + c.d.toNat * 2 ^ 20 + c.cls.toNat * 2 ^ 16 + op * 2 ^ 8 + c.flags.toNat) +
  2 ^ 32 * (c.x.toNat * 2 ^ 26 + c.y.toNat * 2 ^ 20 + c.z.toNat * 2 ^ 14 + c.w.toNat * 2 ^ 8 + c.shape.toNat) +
  2 ^ 64 * (c.ha.toNat * 2 ^ 26 + c.hb.toNat * 2 ^ 20 + c.cnt.toNat * 2 ^ 12 + c.scope.toNat * 2 ^ 9 +
    b2n c.srcFree * 2 ^ 8 + b2n c.visible * 2 ^ 7 + b2n c.jobDone * 2 ^ 6) +
  2 ^ 96 * (c.inRing.toNat * 2 ^ 28 + c.inCount.toNat * 2 ^ 16 + c.outRing.toNat * 2 ^ 12 + c.outCount.toNat) +
  2 ^ 128 * c.w4.toNat + 2 ^ 160 * c.w5.toNat + 2 ^ 192 * c.w6.toNat + 2 ^ 250 * c.p.toNat

/-- Formats RR, RI, BC, MI, MX and SY: two 6-bit fields under the opcode (R73). -/
def wordRI (op d a low : Nat) : Nat := op * 67108864 + d * 1048576 + a * 16384 + low

/-- Format WI (R73). -/
def wordWI (op d low : Nat) : Nat := op * 67108864 + d * 1048576 + low

/-- Format J26 (R73). -/
def wordJ (op low : Nat) : Nat := op * 67108864 + low

/-- Format VV: three vector fields under the opcode (R73). -/
def wordVV (op d a b low : Nat) : Nat := op * 67108864 + d * 4194304 + a * 262144 + b * 16384 + low

/-- Format VM (R73). -/
def wordVM (op d a low : Nat) : Nat := op * 67108864 + d * 4194304 + a * 65536 + low

/-- A routine slot (R193). -/
def slot (op t low : Nat) : Nat := op * 2048 + t * 256 + low

/-- The bits of an instruction (R73, R91, R193). The device's own steps have none. -/
def encode : Instr → Nat
  | .add d a b => wordRI 0x01 d.toNat a.toNat (b.toNat * 256)
  | .sub d a b => wordRI 0x01 d.toNat a.toNat (b.toNat * 256 + 1)
  | .mul d a b => wordRI 0x01 d.toNat a.toNat (b.toNat * 256 + 2)
  | .mulh d a b => wordRI 0x01 d.toNat a.toNat (b.toNat * 256 + 3)
  | .mulhU d a b => wordRI 0x01 d.toNat a.toNat (b.toNat * 256 + 4)
  | .div d a b => wordRI 0x01 d.toNat a.toNat (b.toNat * 256 + 5)
  | .divU d a b => wordRI 0x01 d.toNat a.toNat (b.toNat * 256 + 6)
  | .rem d a b => wordRI 0x01 d.toNat a.toNat (b.toNat * 256 + 7)
  | .remU d a b => wordRI 0x01 d.toNat a.toNat (b.toNat * 256 + 8)
  | .and d a b => wordRI 0x01 d.toNat a.toNat (b.toNat * 256 + 16)
  | .andn d a b => wordRI 0x01 d.toNat a.toNat (b.toNat * 256 + 17)
  | .or d a b => wordRI 0x01 d.toNat a.toNat (b.toNat * 256 + 18)
  | .xor d a b => wordRI 0x01 d.toNat a.toNat (b.toNat * 256 + 19)
  | .shl d a b => wordRI 0x01 d.toNat a.toNat (b.toNat * 256 + 20)
  | .shr d a b => wordRI 0x01 d.toNat a.toNat (b.toNat * 256 + 21)
  | .shrA d a b => wordRI 0x01 d.toNat a.toNat (b.toNat * 256 + 22)
  | .rot d a b => wordRI 0x01 d.toNat a.toNat (b.toNat * 256 + 23)
  | .min d a b => wordRI 0x01 d.toNat a.toNat (b.toNat * 256 + 32)
  | .minU d a b => wordRI 0x01 d.toNat a.toNat (b.toNat * 256 + 33)
  | .max d a b => wordRI 0x01 d.toNat a.toNat (b.toNat * 256 + 34)
  | .maxU d a b => wordRI 0x01 d.toNat a.toNat (b.toNat * 256 + 35)
  | .sel d a b => wordRI 0x01 d.toNat a.toNat (b.toNat * 256 + 36)
  | .clz d a => wordRI 0x01 d.toNat a.toNat 40
  | .ctz d a => wordRI 0x01 d.toNat a.toNat 41
  | .popc d a => wordRI 0x01 d.toNat a.toNat 42
  | .set d a b c => wordRI 0x01 d.toNat a.toNat (b.toNat * 256 + c.toNat + 48)
  | .addsh d a b s => wordRI 0x01 d.toNat a.toNat (b.toNat * 256 + s.toNat + 56)
  | .addi d a i => wordRI 0x02 d.toNat a.toNat i.toNat
  | .nop => wordRI 0x02 0 0 0
  | .andi d a i => wordRI 0x03 d.toNat a.toNat i.toNat
  | .ori d a i => wordRI 0x04 d.toNat a.toNat i.toNat
  | .xori d a i => wordRI 0x05 d.toNat a.toNat i.toNat
  | .shi d a k s => wordRI 0x06 d.toNat a.toNat (k.toNat * 4096 + s.toNat)
  | .seti d a c i => wordRI 0x07 d.toNat a.toNat (c.toNat * 2048 + i.toNat)
  | .movi d i => wordWI 0x08 d.toNat i.toNat
  | .movhi d i => wordWI 0x09 d.toNat i.toNat
  | .muli d a i => wordRI 0x0A d.toNat a.toNat i.toNat
  | .fadd d a b t r => wordRI 0x10 d.toNat a.toNat (b.toNat * 256 + t.toNat * 64 + r.toNat * 16)
  | .fsub d a b t r => wordRI 0x10 d.toNat a.toNat (b.toNat * 256 + t.toNat * 64 + r.toNat * 16 + 1)
  | .fmul d a b t r => wordRI 0x10 d.toNat a.toNat (b.toNat * 256 + t.toNat * 64 + r.toNat * 16 + 2)
  | .fdiv d a b t r => wordRI 0x10 d.toNat a.toNat (b.toNat * 256 + t.toNat * 64 + r.toNat * 16 + 3)
  | .fsqrt d a t r => wordRI 0x10 d.toNat a.toNat (t.toNat * 64 + r.toNat * 16 + 4)
  | .fmin d a b t => wordRI 0x10 d.toNat a.toNat (b.toNat * 256 + t.toNat * 64 + 5)
  | .fmax d a b t => wordRI 0x10 d.toNat a.toNat (b.toNat * 256 + t.toNat * 64 + 6)
  | .fsetEq d a b t => wordRI 0x10 d.toNat a.toNat (b.toNat * 256 + t.toNat * 64 + 7)
  | .fsetLt d a b t => wordRI 0x10 d.toNat a.toNat (b.toNat * 256 + t.toNat * 64 + 8)
  | .fsetLe d a b t => wordRI 0x10 d.toNat a.toNat (b.toNat * 256 + t.toNat * 64 + 9)
  | .fsetUn d a b t => wordRI 0x10 d.toNat a.toNat (b.toNat * 256 + t.toNat * 64 + 10)
  | .fclass d a t => wordRI 0x10 d.toNat a.toNat (t.toNat * 64 + 11)
  | .fneg d a t => wordRI 0x10 d.toNat a.toNat (t.toNat * 64 + 12)
  | .fabs d a t => wordRI 0x10 d.toNat a.toNat (t.toNat * 64 + 13)
  | .fmaFp32 d a b c r => wordRI 0x11 d.toNat a.toNat (b.toNat * 256 + c.toNat * 4 + r.toNat)
  | .fmaFp16 d a b c r => wordRI 0x12 d.toNat a.toNat (b.toNat * 256 + c.toNat * 4 + r.toNat)
  | .fcvt d a s e r => wordRI 0x13 d.toNat a.toNat (s.toNat * 256 + e.toNat * 16 + r.toNat * 4)
  | .cbnd d a b => wordRI 0x18 d.toNat a.toNat (b.toNat * 256)
  | .cbndX d a b => wordRI 0x18 d.toNat a.toNat (b.toNat * 256 + 1)
  | .cprm d a b => wordRI 0x18 d.toNat a.toNat (b.toNat * 256 + 2)
  | .cgetBase d a => wordRI 0x18 d.toNat a.toNat 3
  | .cgetLen d a => wordRI 0x18 d.toNat a.toNat 4
  | .cgetPerm d a => wordRI 0x18 d.toNat a.toNat 5
  | .cgetTag d a => wordRI 0x18 d.toNat a.toNat 6
  | .cclr d a => wordRI 0x18 d.toNat a.toNat 7
  | .cadd d a b => wordRI 0x18 d.toNat a.toNat (b.toNat * 256 + 8)
  | .ldC d a b => wordRI 0x18 d.toNat a.toNat (b.toNat * 256 + 9)
  | .stC d a b => wordRI 0x18 d.toNat a.toNat (b.toNat * 256 + 10)
  | .caddi d a i => wordRI 0x19 d.toNat a.toNat i.toNat
  | .b a b c o => wordRI 0x1C a.toNat b.toNat (c.toNat * 2048 + o.toNat)
  | .j o => wordJ 0x1D o.toNat
  | .jal d i => wordWI 0x1E d.toNat i.toNat
  | .jr d a i => wordRI 0x1F d.toNat a.toNat i.toNat
  | .ld d a s o c f => wordRI 0x20 d.toNat a.toNat (s.toNat * 4096 + o.toNat * 512 + c.toNat * 64 + f.toNat)
  | .st d a s o c f => wordRI 0x21 d.toNat a.toNat (s.toNat * 4096 + o.toNat * 512 + c.toNat * 64 + f.toNat)
  | .ldX d a s o c i => wordRI 0x22 d.toNat a.toNat (s.toNat * 4096 + o.toNat * 512 + c.toNat * 64 + i.toNat)
  | .stX d a s o c i => wordRI 0x23 d.toNat a.toNat (s.toNat * 4096 + o.toNat * 512 + c.toNat * 64 + i.toNat)
  | .amo d a b p o z => wordRI 0x24 d.toNat a.toNat (b.toNat * 256 + p.toNat * 16 + o.toNat * 4 + z.toNat)
  | .cas d a b o z => wordRI 0x25 d.toNat a.toNat (b.toNat * 256 + o.toNat * 4 + z.toNat)
  | .fence b a s => wordRI 0x26 0 0 (b.toNat * 1024 + a.toNat * 64 + s.toNat * 8)
  | .pref a s f => wordRI 0x27 0 a.toNat (s.toNat * 4096 + f.toNat)
  | .sbind d a k => wordRI 0x28 d.toNat a.toNat k.toNat
  | .sfree d => wordRI 0x29 d.toNat 0 0
  | .send a b c => wordRI 0x2A 0 a.toNat (b.toNat * 256 + c.toNat)
  | .rld d a s o c f => wordRI 0x2B d.toNat a.toNat (s.toNat * 4096 + o.toNat * 512 + c.toNat * 64 + f.toNat)
  | .rst d a s o c f => wordRI 0x2C d.toNat a.toNat (s.toNat * 4096 + o.toNat * 512 + c.toNat * 64 + f.toNat)
  | .ramo d a b p o z => wordRI 0x2D d.toNat a.toNat (b.toNat * 256 + p.toNat * 16 + o.toNat * 4 + z.toNat)
  | .mwait => wordRI 0x2E 0 0 0
  | .mpop d => wordRI 0x2E d.toNat 0 1
  | .cntw a k h => wordRI 0x2F 0 a.toNat (k.toNat * 256 + h.toNat * 64)
  | .cntr d k h => wordRI 0x2F d.toNat 0 (k.toNat * 256 + h.toNat * 64 + 1)
  | .cnts a k h => wordRI 0x2F 0 a.toNat (k.toNat * 256 + h.toNat * 64 + 2)
  | .cnta a k h => wordRI 0x2F 0 a.toNat (k.toNat * 256 + h.toNat * 64 + 3)
  | .cbadvP a n => wordRI 0x2F 0 a.toNat (n.toNat * 256 + 4)
  | .cbadvC a n => wordRI 0x2F 0 a.toNat (n.toNat * 256 + 5)
  | .spawn d a b => wordRI 0x30 d.toNat a.toNat (b.toNat * 256)
  | .spawnP d a b p => wordRI 0x30 d.toNat a.toNat (b.toNat * 256 + p.toNat + 128)
  | .suspMbox => wordRI 0x31 0 0 0
  | .suspCnt a k => wordRI 0x31 0 a.toNat (k.toNat + 2048)
  | .suspJob a => wordRI 0x31 0 a.toNat 4096
  | .suspStrm n => wordRI 0x31 0 0 (n.toNat + 6144)
  | .suspTime a => wordRI 0x31 0 a.toNat 8192
  | .suspReply => wordRI 0x31 0 0 10240
  | .yield => wordRI 0x32 0 0 0
  | .exit => wordRI 0x32 0 0 1
  | .join a => wordRI 0x33 0 a.toNat 0
  | .leave a => wordRI 0x33 0 a.toNat 1
  | .hbar a => wordRI 0x34 0 a.toNat 0
  | .hbarArrive a => wordRI 0x34 0 a.toNat 1
  | .hbarWait a => wordRI 0x34 0 a.toNat 2
  | .gang n => wordRI 0x35 0 0 n.toNat
  | .gangF => wordRI 0x35 0 0 0
  | .ungang => wordRI 0x35 0 0 8192
  | .jwait a => wordRI 0x36 0 a.toNat 0
  | .jpoll d a => wordRI 0x36 d.toNat a.toNat 1
  | .whistle a => wordRI 0x37 0 a.toNat 0
  | .ssend a => wordRI 0x37 0 a.toNat 1
  | .srecv a => wordRI 0x37 0 a.toNat 2
  | .vadd d a b e m s t h c => wordVV 0x38 d.toNat a.toNat b.toNat (e.toNat * 4096 + m.toNat * 2048 + s.toNat * 1024 + t.toNat * 512 + h.toNat * 64 + c.toNat * 16)
  | .vsub d a b e m s t h c => wordVV 0x38 d.toNat a.toNat b.toNat (e.toNat * 4096 + m.toNat * 2048 + s.toNat * 1024 + t.toNat * 512 + h.toNat * 64 + c.toNat * 16 + 1)
  | .vmul d a b e m s t h c => wordVV 0x38 d.toNat a.toNat b.toNat (e.toNat * 4096 + m.toNat * 2048 + s.toNat * 1024 + t.toNat * 512 + h.toNat * 64 + c.toNat * 16 + 2)
  | .vfma d a b e m s t h c => wordVV 0x38 d.toNat a.toNat b.toNat (e.toNat * 4096 + m.toNat * 2048 + s.toNat * 1024 + t.toNat * 512 + h.toNat * 64 + c.toNat * 16 + 3)
  | .vmin d a b e m s t h c => wordVV 0x38 d.toNat a.toNat b.toNat (e.toNat * 4096 + m.toNat * 2048 + s.toNat * 1024 + t.toNat * 512 + h.toNat * 64 + c.toNat * 16 + 4)
  | .vmax d a b e m s t h c => wordVV 0x38 d.toNat a.toNat b.toNat (e.toNat * 4096 + m.toNat * 2048 + s.toNat * 1024 + t.toNat * 512 + h.toNat * 64 + c.toNat * 16 + 5)
  | .vand d a b e m s t h c => wordVV 0x38 d.toNat a.toNat b.toNat (e.toNat * 4096 + m.toNat * 2048 + s.toNat * 1024 + t.toNat * 512 + h.toNat * 64 + c.toNat * 16 + 6)
  | .vor d a b e m s t h c => wordVV 0x38 d.toNat a.toNat b.toNat (e.toNat * 4096 + m.toNat * 2048 + s.toNat * 1024 + t.toNat * 512 + h.toNat * 64 + c.toNat * 16 + 7)
  | .vxor d a b e m s t h c => wordVV 0x38 d.toNat a.toNat b.toNat (e.toNat * 4096 + m.toNat * 2048 + s.toNat * 1024 + t.toNat * 512 + h.toNat * 64 + c.toNat * 16 + 8)
  | .vshl d a b e m s t h c => wordVV 0x38 d.toNat a.toNat b.toNat (e.toNat * 4096 + m.toNat * 2048 + s.toNat * 1024 + t.toNat * 512 + h.toNat * 64 + c.toNat * 16 + 9)
  | .vshr d a b e m s t h c => wordVV 0x38 d.toNat a.toNat b.toNat (e.toNat * 4096 + m.toNat * 2048 + s.toNat * 1024 + t.toNat * 512 + h.toNat * 64 + c.toNat * 16 + 10)
  | .vsel d a b e m s t h c => wordVV 0x38 d.toNat a.toNat b.toNat (e.toNat * 4096 + m.toNat * 2048 + s.toNat * 1024 + t.toNat * 512 + h.toNat * 64 + c.toNat * 16 + 11)
  | .vset c a b e m s t h k => wordVV 0x38 c.toNat a.toNat b.toNat (e.toNat * 4096 + m.toNat * 2048 + s.toNat * 1024 + t.toNat * 512 + h.toNat * 64 + k.toNat * 16 + 12)
  | .vexp d a e m t c => wordVV 0x38 d.toNat a.toNat 0 (e.toNat * 4096 + m.toNat * 2048 + t.toNat * 512 + c.toNat * 16 + 13)
  | .vrcp d a e m t c => wordVV 0x38 d.toNat a.toNat 0 (e.toNat * 4096 + m.toNat * 2048 + t.toNat * 512 + c.toNat * 16 + 14)
  | .vrsq d a e m t c => wordVV 0x38 d.toNat a.toNat 0 (e.toNat * 4096 + m.toNat * 2048 + t.toNat * 512 + c.toNat * 16 + 15)
  | .vredAdd d a e m t c => wordVV 0x39 d.toNat a.toNat 0 (e.toNat * 4096 + m.toNat * 2048 + t.toNat * 512 + c.toNat * 16)
  | .vredMin d a e m t c => wordVV 0x39 d.toNat a.toNat 0 (e.toNat * 4096 + m.toNat * 2048 + t.toNat * 512 + c.toNat * 16 + 1)
  | .vredMax d a e m t c => wordVV 0x39 d.toNat a.toNat 0 (e.toNat * 4096 + m.toNat * 2048 + t.toNat * 512 + c.toNat * 16 + 2)
  | .vperm d a b e m s t h => wordVV 0x39 d.toNat a.toNat b.toNat (e.toNat * 4096 + m.toNat * 2048 + s.toNat * 1024 + t.toNat * 512 + h.toNat * 64 + 4)
  | .vbcast d a b e m s t h c => wordVV 0x39 d.toNat a.toNat b.toNat (e.toNat * 4096 + m.toNat * 2048 + s.toNat * 1024 + t.toNat * 512 + h.toNat * 64 + c.toNat * 16 + 5)
  | .vidx d e m t => wordVV 0x39 d.toNat 0 0 (e.toNat * 4096 + m.toNat * 2048 + t.toNat * 512 + 6)
  | .vmovg d k b e t h => wordVV 0x39 d.toNat k.toNat b.toNat (e.toNat * 4096 + t.toNat * 512 + h.toNat * 64 + 1031)
  | .vcvt d a s m t e => wordVV 0x39 d.toNat a.toNat s.toNat (m.toNat * 2048 + t.toNat * 512 + e.toNat * 16 + 8)
  | .vld d a e o m => wordVM 0x3A d.toNat a.toNat (e.toNat * 16384 + o.toNat * 256 + m.toNat * 2)
  | .vst d a e o m => wordVM 0x3A d.toNat a.toNat (e.toNat * 16384 + o.toNat * 256 + m.toNat * 2 + 1)
  | .vldShape d a e o n m => wordVM 0x3A d.toNat a.toNat (e.toNat * 16384 + o.toNat * 256 + n.toNat * 4 + m.toNat * 2 + 128)
  | .vstShape d a e o n m => wordVM 0x3A d.toNat a.toNat (e.toNat * 16384 + o.toNat * 256 + n.toNat * 4 + m.toNat * 2 + 129)
  | .vseq l b h => wordVV 0x3B l.toNat 0 b.toNat (h.toNat * 64 + 1024)
  | .vsetl b h => wordWI 0x3B 0 (b.toNat * 16384 + h.toNat * 64 + 1025)
  | .ckpt i => wordWI 0x3D 0 i.toNat
  | .csrr d n => wordRI 0x3E d.toNat 0 n.toNat
  | .csrw a n => wordRI 0x3E 0 a.toNat n.toNat
  | .csrx d a n => wordRI 0x3E d.toNat a.toNat n.toNat
  | .trap c => wordRI 0x3E 0 0 (c.toNat + 4096)
  | .eret => wordRI 0x3E 0 0 8192
  | .idle => wordRI 0x3E 0 0 8193
  | .synci a => wordRI 0x3E 0 a.toNat 8194
  | .tlbi a => wordRI 0x3E 0 a.toNat 8195
  | .mma c => encodeTile 0x01 c
  | .accrd c => encodeTile 0x02 c
  | .accrel c => encodeTile 0x03 c
  | .outer c => encodeTile 0x10 c
  | .fold c => encodeTile 0x11 c
  | .scan c => encodeTile 0x12 c
  | .zip c => encodeTile 0x13 c
  | .copy c => encodeTile 0x01 c
  | .get c => encodeTile 0x02 c
  | .put c => encodeTile 0x03 c
  | .putAdd c => encodeTile 0x03 c
  | .pack c => encodeTile 0x04 c
  | .compact c => encodeTile 0x05 c
  | .qfence c => encodeTile 0x20 c
  | .lookup c => encodeTile 0x01 c
  | .coll c => encodeTile 0x01 c
  | .rmov t a => slot 0 t.toNat (a.toNat * 32)
  | .radd t a b => slot 1 t.toNat (a.toNat * 32 + b.toNat * 4)
  | .rsub t a b => slot 2 t.toNat (a.toNat * 32 + b.toNat * 4)
  | .rmul t a b => slot 3 t.toNat (a.toNat * 32 + b.toNat * 4)
  | .rfma t a b => slot 4 t.toNat (a.toNat * 32 + b.toNat * 4)
  | .rmin t a b => slot 5 t.toNat (a.toNat * 32 + b.toNat * 4)
  | .rmax t a b => slot 6 t.toNat (a.toNat * 32 + b.toNat * 4)
  | .rneg t a => slot 7 t.toNat (a.toNat * 32)
  | .rabs t a => slot 8 t.toNat (a.toNat * 32)
  | .rcmplt t a b => slot 9 t.toNat (a.toNat * 32 + b.toNat * 4)
  | .rcmpeq t a b => slot 10 t.toNat (a.toNat * 32 + b.toNat * 4)
  | .rsel t a b => slot 11 t.toNat (a.toNat * 32 + b.toNat * 4)
  | .rand t a b => slot 12 t.toNat (a.toNat * 32 + b.toNat * 4)
  | .ror t a b => slot 13 t.toNat (a.toNat * 32 + b.toNat * 4)
  | .rxor t a b => slot 14 t.toNat (a.toNat * 32 + b.toNat * 4)
  | .rshl t a b => slot 15 t.toNat (a.toNat * 32 + b.toNat * 4)
  | .rshr t a b m => slot 16 t.toNat (a.toNat * 32 + b.toNat * 4 + m.toNat)
  | .rcvt t a g => slot 17 t.toNat (a.toNat * 32 + g.toNat * 4)
  | .rexp t a => slot 18 t.toNat (a.toNat * 32)
  | .rconst l t => slot 19 t.toNat 0 + l.toNat * 65536
  | .rret => slot 20 0 0
  | .slotStallEnd => 0
  | .vectorEntryBind _ _ _ => 0
  | .trapEntry => 0
  | .writeBack => 0
  | .wakeUp _ _ => 0
  | .pickup _ _ _ => 0
  | .preemptionRequest _ _ => 0
  | .forcedSave => 0
  | .accountingRound => 0
  | .jobStart _ _ _ => 0
  | .ticketGrant _ => 0
  | .srcFree _ => 0
  | .visible _ => 0
  | .jobDone _ => 0
  | .copyStreamElement _ _ => 0
  | .messageArrival _ _ _ _ _ => 0
  | .remoteRequest _ => 0
  | .rldReply _ _ => 0
  | .rstAcknowledgement _ => 0
  | .ramoReply _ _ => 0
  | .faultReply _ _ => 0
  | .remoteTimeout _ => 0
  | .flitReceive _ _ => 0
  | .linkRetrain _ _ => 0
  | .routeChange _ _ => 0
  | .timeSync _ _ => 0
  | .tlbiAcknowledgement => 0
  | .parkedWalkRetry => 0
  | .migrationTimeout => 0
  | .doorbell _ _ _ => 0
  | .launchPacket _ => 0
  | .counterWait _ => 0
  | .valueWrite _ => 0
  | .noOp _ => 0
  | .launchStatusWrite _ => 0
  | .qctlEnable _ _ _ => 0
  | .qschedWrite _ _ _ => 0
  | .tierwWrite _ _ => 0
  | .resmapMark _ => 0
  | .resmapUnmark _ => 0
  | .resmapSetQuota _ => 0
  | .cntwinWrite _ => 0
  | .asidctlWrite _ => 0
  | .rankcntWrite _ => 0
  | .bdtabWrite _ => 0
  | .prioWrite _ => 0
  | .registerWrite _ _ _ => 0
  | .collcanWrite _ _ => 0
  | .attestationGo _ _ => 0
  | .attestationReport => 0
  | .pwrctlStateWrite _ _ _ => 0
  | .pwrctlFstepWrite _ _ _ => 0
  | .dvfsChange _ => 0
  | .throttle _ _ => 0
  | .rasCounterClear _ _ => 0
  | .scrub _ => 0
  | .boot => 0
  | .registration _ _ _ _ _ => 0
  | .start _ => 0
  | .blockFinal _ _ => 0
  | .numberClose _ => 0
  | .deadlineCancel _ => 0
  | .cancelClose _ => 0
  | .failover => 0
  | .domainRelease _ => 0
  | .phaseClose _ => 0
  | .releaseTimeout _ => 0
  | .scheduledElement _ _ _ _ => 0
  | .vectorEntryCompletion _ _ => 0
  | .scheduledElementSend _ _ => 0
  | .windowVisible _ => 0
  | .ownerCancel _ _ => 0
  | .packageFailure _ => 0
  | .hwReplication => 0

/-- How many bits an instruction has: 32 for a control word, 256 for a tile command, 16 or 32 for a
routine slot, none for the device's own steps. -/
def bitLength : Instr → Nat
  | .add _ _ _ => 32
  | .sub _ _ _ => 32
  | .mul _ _ _ => 32
  | .mulh _ _ _ => 32
  | .mulhU _ _ _ => 32
  | .div _ _ _ => 32
  | .divU _ _ _ => 32
  | .rem _ _ _ => 32
  | .remU _ _ _ => 32
  | .and _ _ _ => 32
  | .andn _ _ _ => 32
  | .or _ _ _ => 32
  | .xor _ _ _ => 32
  | .shl _ _ _ => 32
  | .shr _ _ _ => 32
  | .shrA _ _ _ => 32
  | .rot _ _ _ => 32
  | .min _ _ _ => 32
  | .minU _ _ _ => 32
  | .max _ _ _ => 32
  | .maxU _ _ _ => 32
  | .sel _ _ _ => 32
  | .clz _ _ => 32
  | .ctz _ _ => 32
  | .popc _ _ => 32
  | .set _ _ _ _ => 32
  | .addsh _ _ _ _ => 32
  | .addi _ _ _ => 32
  | .nop => 32
  | .andi _ _ _ => 32
  | .ori _ _ _ => 32
  | .xori _ _ _ => 32
  | .shi _ _ _ _ => 32
  | .seti _ _ _ _ => 32
  | .movi _ _ => 32
  | .movhi _ _ => 32
  | .muli _ _ _ => 32
  | .fadd _ _ _ _ _ => 32
  | .fsub _ _ _ _ _ => 32
  | .fmul _ _ _ _ _ => 32
  | .fdiv _ _ _ _ _ => 32
  | .fsqrt _ _ _ _ => 32
  | .fmin _ _ _ _ => 32
  | .fmax _ _ _ _ => 32
  | .fsetEq _ _ _ _ => 32
  | .fsetLt _ _ _ _ => 32
  | .fsetLe _ _ _ _ => 32
  | .fsetUn _ _ _ _ => 32
  | .fclass _ _ _ => 32
  | .fneg _ _ _ => 32
  | .fabs _ _ _ => 32
  | .fmaFp32 _ _ _ _ _ => 32
  | .fmaFp16 _ _ _ _ _ => 32
  | .fcvt _ _ _ _ _ => 32
  | .cbnd _ _ _ => 32
  | .cbndX _ _ _ => 32
  | .cprm _ _ _ => 32
  | .cgetBase _ _ => 32
  | .cgetLen _ _ => 32
  | .cgetPerm _ _ => 32
  | .cgetTag _ _ => 32
  | .cclr _ _ => 32
  | .cadd _ _ _ => 32
  | .ldC _ _ _ => 32
  | .stC _ _ _ => 32
  | .caddi _ _ _ => 32
  | .b _ _ _ _ => 32
  | .j _ => 32
  | .jal _ _ => 32
  | .jr _ _ _ => 32
  | .ld _ _ _ _ _ _ => 32
  | .st _ _ _ _ _ _ => 32
  | .ldX _ _ _ _ _ _ => 32
  | .stX _ _ _ _ _ _ => 32
  | .amo _ _ _ _ _ _ => 32
  | .cas _ _ _ _ _ => 32
  | .fence _ _ _ => 32
  | .pref _ _ _ => 32
  | .sbind _ _ _ => 32
  | .sfree _ => 32
  | .send _ _ _ => 32
  | .rld _ _ _ _ _ _ => 32
  | .rst _ _ _ _ _ _ => 32
  | .ramo _ _ _ _ _ _ => 32
  | .mwait => 32
  | .mpop _ => 32
  | .cntw _ _ _ => 32
  | .cntr _ _ _ => 32
  | .cnts _ _ _ => 32
  | .cnta _ _ _ => 32
  | .cbadvP _ _ => 32
  | .cbadvC _ _ => 32
  | .spawn _ _ _ => 32
  | .spawnP _ _ _ _ => 32
  | .suspMbox => 32
  | .suspCnt _ _ => 32
  | .suspJob _ => 32
  | .suspStrm _ => 32
  | .suspTime _ => 32
  | .suspReply => 32
  | .yield => 32
  | .exit => 32
  | .join _ => 32
  | .leave _ => 32
  | .hbar _ => 32
  | .hbarArrive _ => 32
  | .hbarWait _ => 32
  | .gang _ => 32
  | .gangF => 32
  | .ungang => 32
  | .jwait _ => 32
  | .jpoll _ _ => 32
  | .whistle _ => 32
  | .ssend _ => 32
  | .srecv _ => 32
  | .vadd _ _ _ _ _ _ _ _ _ => 32
  | .vsub _ _ _ _ _ _ _ _ _ => 32
  | .vmul _ _ _ _ _ _ _ _ _ => 32
  | .vfma _ _ _ _ _ _ _ _ _ => 32
  | .vmin _ _ _ _ _ _ _ _ _ => 32
  | .vmax _ _ _ _ _ _ _ _ _ => 32
  | .vand _ _ _ _ _ _ _ _ _ => 32
  | .vor _ _ _ _ _ _ _ _ _ => 32
  | .vxor _ _ _ _ _ _ _ _ _ => 32
  | .vshl _ _ _ _ _ _ _ _ _ => 32
  | .vshr _ _ _ _ _ _ _ _ _ => 32
  | .vsel _ _ _ _ _ _ _ _ _ => 32
  | .vset _ _ _ _ _ _ _ _ _ => 32
  | .vexp _ _ _ _ _ _ => 32
  | .vrcp _ _ _ _ _ _ => 32
  | .vrsq _ _ _ _ _ _ => 32
  | .vredAdd _ _ _ _ _ _ => 32
  | .vredMin _ _ _ _ _ _ => 32
  | .vredMax _ _ _ _ _ _ => 32
  | .vperm _ _ _ _ _ _ _ _ => 32
  | .vbcast _ _ _ _ _ _ _ _ _ => 32
  | .vidx _ _ _ _ => 32
  | .vmovg _ _ _ _ _ _ => 32
  | .vcvt _ _ _ _ _ _ => 32
  | .vld _ _ _ _ _ => 32
  | .vst _ _ _ _ _ => 32
  | .vldShape _ _ _ _ _ _ => 32
  | .vstShape _ _ _ _ _ _ => 32
  | .vseq _ _ _ => 32
  | .vsetl _ _ => 32
  | .ckpt _ => 32
  | .csrr _ _ => 32
  | .csrw _ _ => 32
  | .csrx _ _ _ => 32
  | .trap _ => 32
  | .eret => 32
  | .idle => 32
  | .synci _ => 32
  | .tlbi _ => 32
  | .mma _ => 256
  | .accrd _ => 256
  | .accrel _ => 256
  | .outer _ => 256
  | .fold _ => 256
  | .scan _ => 256
  | .zip _ => 256
  | .copy _ => 256
  | .get _ => 256
  | .put _ => 256
  | .putAdd _ => 256
  | .pack _ => 256
  | .compact _ => 256
  | .qfence _ => 256
  | .lookup _ => 256
  | .coll _ => 256
  | .rmov _ _ => 16
  | .radd _ _ _ => 16
  | .rsub _ _ _ => 16
  | .rmul _ _ _ => 16
  | .rfma _ _ _ => 16
  | .rmin _ _ _ => 16
  | .rmax _ _ _ => 16
  | .rneg _ _ => 16
  | .rabs _ _ => 16
  | .rcmplt _ _ _ => 16
  | .rcmpeq _ _ _ => 16
  | .rsel _ _ _ => 16
  | .rand _ _ _ => 16
  | .ror _ _ _ => 16
  | .rxor _ _ _ => 16
  | .rshl _ _ _ => 16
  | .rshr _ _ _ _ => 16
  | .rcvt _ _ _ => 16
  | .rexp _ _ => 16
  | .rconst _ _ => 32
  | .rret => 16
  | .slotStallEnd => 0
  | .vectorEntryBind _ _ _ => 0
  | .trapEntry => 0
  | .writeBack => 0
  | .wakeUp _ _ => 0
  | .pickup _ _ _ => 0
  | .preemptionRequest _ _ => 0
  | .forcedSave => 0
  | .accountingRound => 0
  | .jobStart _ _ _ => 0
  | .ticketGrant _ => 0
  | .srcFree _ => 0
  | .visible _ => 0
  | .jobDone _ => 0
  | .copyStreamElement _ _ => 0
  | .messageArrival _ _ _ _ _ => 0
  | .remoteRequest _ => 0
  | .rldReply _ _ => 0
  | .rstAcknowledgement _ => 0
  | .ramoReply _ _ => 0
  | .faultReply _ _ => 0
  | .remoteTimeout _ => 0
  | .flitReceive _ _ => 0
  | .linkRetrain _ _ => 0
  | .routeChange _ _ => 0
  | .timeSync _ _ => 0
  | .tlbiAcknowledgement => 0
  | .parkedWalkRetry => 0
  | .migrationTimeout => 0
  | .doorbell _ _ _ => 0
  | .launchPacket _ => 0
  | .counterWait _ => 0
  | .valueWrite _ => 0
  | .noOp _ => 0
  | .launchStatusWrite _ => 0
  | .qctlEnable _ _ _ => 0
  | .qschedWrite _ _ _ => 0
  | .tierwWrite _ _ => 0
  | .resmapMark _ => 0
  | .resmapUnmark _ => 0
  | .resmapSetQuota _ => 0
  | .cntwinWrite _ => 0
  | .asidctlWrite _ => 0
  | .rankcntWrite _ => 0
  | .bdtabWrite _ => 0
  | .prioWrite _ => 0
  | .registerWrite _ _ _ => 0
  | .collcanWrite _ _ => 0
  | .attestationGo _ _ => 0
  | .attestationReport => 0
  | .pwrctlStateWrite _ _ _ => 0
  | .pwrctlFstepWrite _ _ _ => 0
  | .dvfsChange _ => 0
  | .throttle _ _ => 0
  | .rasCounterClear _ _ => 0
  | .scrub _ => 0
  | .boot => 0
  | .registration _ _ _ _ _ => 0
  | .start _ => 0
  | .blockFinal _ _ => 0
  | .numberClose _ => 0
  | .deadlineCancel _ => 0
  | .cancelClose _ => 0
  | .failover => 0
  | .domainRelease _ => 0
  | .phaseClose _ => 0
  | .releaseTimeout _ => 0
  | .scheduledElement _ _ _ _ => 0
  | .vectorEntryCompletion _ _ => 0
  | .scheduledElementSend _ _ => 0
  | .windowVisible _ => 0
  | .ownerCancel _ _ => 0
  | .packageFailure _ => 0
  | .hwReplication => 0

/-- The instruction its own bits stand for. -/
def decodeOwn (i : Instr) : Option Instr :=
  if bitLength i == 32 && bits (encode i) 31 26 != 0 then okInstr (decodeControl (encode i)) else decodeTableWord (bitLength i) (encode i)

end Sys2Proof
end

