-- ==== Sys2Proof/Machine/Caps.lean ====
section
/-!
DEFINITION. Capabilities: the compressed bounds, the permissions and cap_check (R6, R40 to R44, R349).
-/
namespace Sys2Proof.Machine

/-- The address half, which is also the data view (R39). -/
def Reg.addr (r : Reg) : Nat := r.val.toNat % 2 ^ 64

/-- The data view (R39). -/
def Reg.data (r : Reg) : Word := BitVec.ofNat 64 r.val.toNat

/-- A data result: [127:64] zero, the tag clear (R39). -/
def Reg.ofData (w : Word) : Reg := ⟨BitVec.ofNat 128 w.toNat, false⟩

/-- The fields of the upper half (R41). -/
def Reg.exp (r : Reg) : Nat := bits r.val.toNat 69 64
def Reg.baseField (r : Reg) : Nat := bits r.val.toNat 83 70
def Reg.topField (r : Reg) : Nat := bits r.val.toNat 97 84
def Reg.perm (r : Reg) : Nat := bits r.val.toNat 113 98

/-- A set tag with the reserved bits [127:114] zero: what every check takes as tagged (R41). -/
def Reg.tagged (r : Reg) : Bool := r.tag && bits r.val.toNat 127 114 == 0

/-- The capability with its parts. -/
def mkCap (addr e b t perm : Nat) : Reg :=
  ⟨BitVec.ofNat 128 (addr % 2 ^ 64 + e * 2 ^ 64 + b % 0x4000 * 2 ^ 70 + t % 0x4000 * 2 ^ 84 + perm % 0x10000 * 2 ^ 98), true⟩

/-- The length in units of 2^E (R42). -/
def capUnits (r : Reg) : Nat := (r.topField + 0x8000 - r.baseField - 1) % 0x4000 + 1

/-- The decoded base (R42). -/
def capBase (r : Reg) : Nat :=
  let e := r.exp
  let a := r.addr
  if e ≤ 49 then
    let wrap := if a / 2 ^ e % 0x4000 < r.baseField then 1 else 0
    ((a / 2 ^ (e + 14) + 2 ^ 64 - wrap) * 2 ^ (e + 14) + r.baseField * 2 ^ e) % 2 ^ 64
  else if e = 50 then r.baseField * 2 ^ 50 % 2 ^ 64
  else a

/-- The decoded top, exclusive (R42). -/
def capTop (r : Reg) : Nat :=
  let e := r.exp
  if e ≤ 50 then min (capBase r + capUnits r * 2 ^ e) (2 ^ 64) else r.addr

/-- Whether the address `x` is representable under the bounds of `r` (R42). -/
def representable (r : Reg) (x : Nat) : Bool :=
  let e := r.exp
  if e ≤ 49 then decide ((x + 2 ^ 64 - capBase r) % 2 ^ 64 < 2 ^ (e + 14))
  else if e = 50 then true
  else x == r.addr

/-- The register with the address `x`, its upper half and tag kept. -/
def Reg.withAddr (r : Reg) (x : Nat) : Reg :=
  ⟨BitVec.ofNat 128 (r.val.toNat / 2 ^ 64 * 2 ^ 64 + x % 2 ^ 64), r.tag⟩

/-- The capability moved to `x`: with its tag where `x` is representable, else data (R42, R345). -/
def Reg.moveTo (r : Reg) (x : Nat) : Reg :=
  if r.tagged && representable r (x % 2 ^ 64) then r.withAddr x else Reg.ofData (BitVec.ofNat 64 x)

/-! The permission bits (R43). -/
def permLoad : Nat := 0
def permStore : Nat := 1
def permExec : Nat := 2
def permLoadCap : Nat := 3
def permStoreCap : Nat := 4
def permEngine : Nat := 5
def permRemote : Nat := 6
def permResident : Nat := 7
def permGlobal : Nat := 8

/-- Whether `r` carries permission bit `p`. -/
def Reg.has (r : Reg) (p : Nat) : Bool := r.perm.testBit p

/-- The lowest of the `n` bytes at `addr` outside `[base, top)`. -/
def firstOutside (base top addr : Nat) : Nat := if addr < base then addr else max addr top

/-- cap_check of R6, with the TVAL of R310: the lowest faulting address. -/
def capCheck (c : Reg) (addr n : Nat) (perm : Nat) : Ev Unit :=
  if !c.tagged then .error (.trap .capTag (BitVec.ofNat 64 addr))
  else if addr < capBase c || capTop c < addr + n then
    .error (.trap .capBounds (BitVec.ofNat 64 (firstOutside (capBase c) (capTop c) addr)))
  else if !c.has perm then .error (.trap .capPerm (BitVec.ofNat 64 addr))
  else .ok ()

/-- The least exponent in `e..50` that holds `[base, top)` in 0x4000 units (R349). -/
def leastExp (base top : Nat) : Nat → Nat → Nat
  | 0, e => e
  | k + 1, e => if ceilDiv top (2 ^ e) - base / 2 ^ e ≤ 0x4000 then e else leastExp base top k (e + 1)

/-- The capability over `[base, base + len)` rounded outward as CBND rounds, with `addr` and
permissions (R349, R452). -/
def boundedCap (addr base len perm : Nat) : Reg :=
  if len = 0 then mkCap addr 51 0 0 perm
  else
    let e := leastExp base (base + len) 50 0
    mkCap addr e (base / 2 ^ e) (ceilDiv (base + len) (2 ^ e)) perm

end Sys2Proof.Machine
end

