-- ==== Sys2Proof/Machine/Sparse.lean ====
section
/-!
DEFINITION. Sparse tables: lists of (key, value) pairs in one canonical form, by rising key, no entry
equal to what an unlisted key reads as. Memory bytes and completion counters are such tables.
-/
namespace Sys2Proof.Machine

/-- What `k` reads as; `d` is what an unlisted key reads as. -/
def sparseGet {α : Type} (d : α) : List (Nat × α) → Nat → α
  | [], _ => d
  | (k, v) :: r, a => if k = a then v else sparseGet d r a

/-- The table with `a` reading as `x`. -/
def sparseSet {α : Type} [DecidableEq α] (d : α) : List (Nat × α) → Nat → α → List (Nat × α)
  | [], a, x => if x = d then [] else [(a, x)]
  | (k, v) :: r, a, x =>
    if a < k then (if x = d then (k, v) :: r else (a, x) :: (k, v) :: r)
    else if a = k then (if x = d then r else (a, x) :: r)
    else (k, v) :: sparseSet d r a x

/-- The canonical form, of keys from `lo` upward. -/
def sparseFrom {α : Type} [DecidableEq α] (d : α) (lo : Nat) : List (Nat × α) → Bool
  | [] => true
  | (k, v) :: r => decide (lo ≤ k) && decide (v ≠ d) && sparseFrom d (k + 1) r

/-- Insertion into a rising list of numbers. -/
def setInsert : List Nat → Nat → List Nat
  | [], a => [a]
  | k :: r, a => if a < k then a :: k :: r else if a = k then k :: r else k :: setInsert r a

/-- Removal from a rising list of numbers. -/
def setRemove : List Nat → Nat → List Nat
  | [], _ => []
  | k :: r, a => if a = k then r else if a < k then k :: r else k :: setRemove r a

/-- Membership. -/
def setHas : List Nat → Nat → Bool
  | [], _ => false
  | k :: r, a => decide (k = a) || setHas r a

/-- The canonical form of a rising list, of numbers from `lo` upward. -/
def setFrom (lo : Nat) : List Nat → Bool
  | [] => true
  | k :: r => decide (lo ≤ k) && setFrom (k + 1) r

end Sys2Proof.Machine
end

