-- ==== Sys2Proof/Machine/Memory.lean ====
section
/-!
DEFINITION. Physical memory, its granule tags and the physical map (R5, R43, R132, R133). A byte that
nothing has written reads as 0 (assumption 2).
-/
namespace Sys2Proof.Machine

/-- What a byte of memory that nothing has written reads as (assumption 2). -/
def unlisted : Byte := 0

/-- The canonical form of memory. -/
def Memory.wf (m : Memory) : Bool := sparseFrom unlisted 0 m.cells && setFrom 0 m.tags

/-- One byte. -/
def Memory.read (m : Memory) (a : Nat) : Byte := sparseGet unlisted m.cells a

/-- `n` bytes from `a`, lowest address first. -/
def Memory.readBytes (m : Memory) (a : Nat) : Nat → List Byte
  | 0 => []
  | n + 1 => m.read a :: m.readBytes (a + 1) n

/-- The little-endian number in `n` bytes at `a` (R5). -/
def Memory.readNat (m : Memory) (a n : Nat) : Nat := ofBytesLE (m.readBytes a n)

/-- Whether the tag of the granule that holds `a` is set (R43). -/
def Memory.tag (m : Memory) (a : Nat) : Bool := setHas m.tags (a / 16)

/-- The memory with the tag of the granule of `a` set to `t`. -/
def Memory.setTag (m : Memory) (a : Nat) (t : Bool) : Memory :=
  { m with tags := if t then setInsert m.tags (a / 16) else setRemove m.tags (a / 16) }

/-- The memory with one byte written; the granule's tag is cleared (R43). -/
def Memory.write (m : Memory) (a : Nat) (b : Byte) : Memory :=
  { cells := sparseSet unlisted m.cells a b, tags := setRemove m.tags (a / 16) }

/-- The memory with a list of bytes written from `a`; the tags of the granules touched are cleared. -/
def Memory.writeBytes (m : Memory) (a : Nat) : List Byte → Memory
  | [] => m
  | b :: bs => (m.write a b).writeBytes (a + 1) bs

/-- The memory with the low `n` bytes of `x` written at `a`. -/
def Memory.writeNat (m : Memory) (a n x : Nat) : Memory := m.writeBytes a (toBytesLE n x)

/-- The memory with a 16-byte granule and its tag written, as ST.c does (R428). -/
def Memory.writeCap (m : Memory) (a : Nat) (r : Reg) : Memory := (m.writeNat a 16 r.val.toNat).setTag a r.tag

/-- The granule at `a` with its tag (R391). -/
def Memory.readCap (m : Memory) (a : Nat) : Reg := ⟨BitVec.ofNat 128 (m.readNat a 16), m.tag a⟩

/-! ## The physical map (R132) -/

/-- Bytes of a quire's slice (R1). -/
def sliceBytes : Nat := 0x140000

/-- Bytes of a core region (R133). -/
def coreRegion : Nat := 0x28000

/-- The regions of the physical map. -/
def inSlices (pa : Nat) : Bool := decide (pa < 0x1E000000)
def inHbm (pa : Nat) : Bool := decide (0x010000000000 ≤ pa) && decide (pa < 0x016000000000)
def inMmio (pa : Nat) : Bool := decide (0x020000000000 ≤ pa) && decide (pa < 0x020100000000)
def inHost (pa : Nat) : Bool := decide (0x800000000000 ≤ pa) && decide (pa < 0x1000000000000)

/-- The number of the region that holds `pa`: 0 for a reserved one, and for the slice of a disabled
quire (R331). -/
def regionOf (s : State) (pa : Nat) : Nat :=
  if inSlices pa then (if s.boot.disabled.contains (pa / sliceBytes) then 0 else 1)
  else if inHbm pa then 2 else if inMmio pa then 3 else if inHost pa then 4 else 0

/-- The quire that owns a slice address (R133). -/
def sliceQuire (pa : Nat) : Nat := pa / sliceBytes

/-- Whether the granule of `pa` is resident to a context other than `c` (R142). -/
def residentElsewhere (s : State) (c : Ctx) (pa : Nat) : Bool :=
  inSlices pa && s.residents.any (fun r => r.ctx != c && r.quire == pa / sliceBytes &&
    r.granule == pa % sliceBytes / 4096)

/-- The memory bytes of a state. -/
def State.readByte (s : State) (pa : Nat) : Byte := s.mem.read pa

/-- A context's stamp in a list, 0 where it has none. -/
def stampOf (l : List (Ctx × Nat)) (c : Ctx) : Nat := (l.lookup c).getD 0

/-- A context's stamp set. -/
def setStamp (c : Ctx) (k : Nat) (l : List (Ctx × Nat)) : List (Ctx × Nat) := (c, k) :: l.filter (fun x => x.1 != c)

/-- The line records after a store of context `c`, with stamp `k`, to line `n` (R323). -/
def writeLine (c : Ctx) (k n : Nat) : List Line → List Line
  | [] => [⟨n, c, [(c, k)], []⟩]
  | l :: r =>
    if n < l.num then ⟨n, c, [(c, k)], []⟩ :: l :: r
    else if n = l.num then { l with ctx := c, writes := setStamp c k l.writes } :: r
    else l :: writeLine c k n r

/-- The line records after a store of context `c` to the slice lines from number `n`, `m` of them. -/
def writeLines (c : Ctx) (k n : Nat) : Nat → List Line → List Line
  | 0, ls => ls
  | m + 1, ls => writeLines c k (n + 1) m (writeLine c k n ls)

/-- The 8-byte words of `n` bytes at `pa` that a full overwrite repairs are no longer in error. -/
def clearEcc (pa n : Nat) (xs : List EccSite) : List EccSite :=
  xs.filter (fun x => match x with
    | .memory w => !(decide (pa ≤ 8 * w) && decide (8 * w + 8 ≤ pa + n))
    | .correctable w => !(decide (pa ≤ 8 * w) && decide (8 * w + 8 ≤ pa + n))
    | _ => true)

/-- Whether an uncorrectable error lies in `n` bytes at `pa` (R326). -/
def eccAt (s : State) (pa n : Nat) : Bool :=
  s.ecc.any (fun x => match x with
    | .memory w => decide (pa < 8 * w + 8) && decide (8 * w < pa + n)
    | _ => false)

/-- Whether a store of `n` bytes at `pa` would have to correct a word it does not fill (R326). -/
def eccPartial (s : State) (pa n : Nat) : Bool :=
  s.ecc.any (fun x => match x with
    | .memory w => decide (pa < 8 * w + 8) && decide (8 * w < pa + n) &&
        !(decide (pa ≤ 8 * w) && decide (8 * w + 8 ≤ pa + n))
    | _ => false)

end Sys2Proof.Machine
end

