-- ==== Sys2Proof/Machine/Translate.lean ====
section
/-!
DEFINITION. Address translation (R126 to R138, R142): the walk, the TLBs, and the forms of an address.
-/
namespace Sys2Proof.Machine

/-- A context's registers. -/
def State.ctx (s : State) (c : Ctx) : Context := s.ctxs[c.toNat]'c.isLt

/-- The state with a context's registers changed. -/
def State.setCtx (s : State) (c : Ctx) (f : Context → Context) : State :=
  { s with ctxs := s.ctxs.set c.toNat (f (s.ctx c)) c.isLt }

/-- The TVAL of a page fault (R130). -/
def pageTval (va reason level : Nat) : Word :=
  BitVec.ofNat 64 (va % 2 ^ 56 + reason * 2 ^ 56 + level * 2 ^ 60)

/-- A global address: bit 63 set, [62:60] zero (R126). -/
def isGlobal (va : Nat) : Bool := decide (va / 2 ^ 60 = 8)

/-- A local address: [63:56] zero (R126). -/
def isLocal (va : Nat) : Bool := decide (va < 2 ^ 56)

/-- The access needs W. -/
def Access.writes : Access → Bool
  | .store => true
  | _ => false

/-- The access needs X. -/
def Access.fetches : Access → Bool
  | .fetch => true
  | _ => false

/-- What a usable leaf gives: the permission checks, then the residency of the granule (R130, R142). -/
def leafResult (s : State) (c : Ctx) (va : Nat) (acc : Access) (level pa page size : Nat) (w x : Bool) : Walk :=
  if acc.writes && !w then .fault (pageTval va 1 level)
  else if acc.fetches && !x then .fault (pageTval va 2 level)
  else if residentElsewhere s c pa then .fault (pageTval va 6 0)
  else .ok pa page size w x

/-- The region that holds a whole page: 0 where it is reserved, where two regions meet, or where a
disabled quire's slice lies in it (R129, R331). -/
def pageRegion (s : State) (base size : Nat) : Nat :=
  let r := regionOf s base
  if r != regionOf s (base + 2 ^ size - 1) then 0
  else if r == 1 && s.boot.disabled.any (fun q => decide (base < (q + 1) * sliceBytes) && decide (q * sliceBytes < base + 2 ^ size)) then 0
  else r

/-- A leaf entry at `level`: its alignment and region, MIG, then the permissions (R128, R129, R138). -/
def leafEntry (s : State) (c : Ctx) (va : Nat) (acc : Access) (level size e : Nat) : Walk :=
  let base := bits e 47 12 * 4096
  if base % 2 ^ size ≠ 0 || pageRegion s base size == 0 then
    .fault (pageTval va 3 level)
  else if bitOf e 5 then .park
  else leafResult s c va acc level (base + va % 2 ^ size) (va / 2 ^ size * 2 ^ size) size (bitOf e 2) (bitOf e 3)

/-- A walk from a table at `base`, `level` levels above the leaf, fuel-free by the level (R127). DEDUCED (assumption 61): a
table in a reserved region, a leaf at level 4 or 5, and an entry of level 1 that is no leaf have reason 3 (R128, R130). An
entry in uncorrectable error ends the walk (R326). -/
def walkFrom (s : State) (c : Ctx) (va : Nat) (acc : Access) : Nat → Nat → Walk
  | 0, _ => .fault (pageTval va 0 0)
  | lvl + 1, base =>
    let level := lvl + 1
    let shift := 12 + 9 * lvl
    let idx := va / 2 ^ shift % 512
    if regionOf s (base + 8 * idx) == 0 then .fault (pageTval va 3 level)
    else if eccAt s (base + 8 * idx) 8 then .bad
    else
      let e := s.mem.readNat (base + 8 * idx) 8
      if !bitOf e 0 then .fault (pageTval va 0 level)
      else if bits e 7 6 != 0 || bits e 63 48 != 0 then .fault (pageTval va 3 level)
      else if bitOf e 1 then
        if level > 3 then .fault (pageTval va 3 level)
        else if level = 1 then
          if bitOf e 4 && eccAt s (base + 8 * (idx / 16 * 16)) 8 then .bad
          else if bitOf e 4 then
            let b := s.mem.readNat (base + 8 * (idx / 16 * 16)) 8
            if !bitOf b 0 || !bitOf b 4 || !bitOf b 1 || bits b 7 6 != 0 || bits b 63 48 != 0 then
              .fault (pageTval va 3 level)
            else leafEntry s c va acc level 16 b
          else leafEntry s c va acc level 12 e
        else if bitOf e 4 then .fault (pageTval va 3 level)
        else leafEntry s c va acc level (12 + 9 * (level - 1)) e
      else if level = 1 || bits e 5 2 != 0 then .fault (pageTval va 3 level)
      else walkFrom s c va acc lvl (bits e 47 12 * 4096)

/-- The translation of a local address in a context, with no TLB (R127 to R131). -/
def walk (s : State) (c : Ctx) (va : Nat) (acc : Access) : Walk :=
  if !isLocal va then .fault (pageTval va 5 0)
  else if !(s.ctx c).enable then
    if va / 2 ^ 48 ≠ 0 then .fault (pageTval va 5 0)
    else if regionOf s va == 0 then .fault (pageTval va 3 0)
    else if residentElsewhere s c va then .fault (pageTval va 6 0)
    else .ok va (va / 4096 * 4096) 12 true true
  else walkFrom s c va acc 5 (bits (s.ctx c).ptroot.toNat 47 12 * 4096)

/-- The 4 KiB pages that `n` bytes touch. -/
def pagesOf (va n : Nat) : List Nat :=
  ((List.range (n / 4096 + 2)).filter (fun k => decide (k * 4096 < n + va % 4096) && decide (0 < n))).map (fun k => va / 4096 * 4096 + k * 4096)

/-- The die of a quire (R18). -/
def dieOf (quire : Nat) : Nat := quire / 96

/-- The cached translation that an access from a quire may use (R136). -/
def tlbFind (s : State) (quire : Nat) (c : Ctx) (va : Nat) : Option TlbEntry :=
  s.tlb.find? (fun t => t.ctx == c && va / 2 ^ t.size * 2 ^ t.size == t.va &&
    (match t.quire with | some q => q == quire | none => t.die == dieOf quire))

/-- What a cached translation gives (R136). -/
def tlbResult (t : TlbEntry) (va : Nat) (acc : Access) : Walk :=
  let level := if t.size ≤ 16 then 1 else if t.size = 21 then 2 else 3
  if acc.writes && !t.write then .fault (pageTval va 1 level)
  else if acc.fetches && !t.exec then .fault (pageTval va 2 level)
  else .ok (t.pa + va % 2 ^ t.size) t.va t.size t.write t.exec

/-- Entries of a quire's TLB and of a die's shared one (R1, R136). -/
def quireTlb : Nat := 256
def dieTlb : Nat := 16384

/-- The first `n` elements that meet `p`, with every other element. -/
def keepFirst {α : Type} (p : α → Bool) : Nat → List α → List α
  | _, [] => []
  | n, x :: r => if p x then (match n with | 0 => keepFirst p 0 r | k + 1 => x :: keepFirst p k r) else x :: keepFirst p n r

/-- An entry added to its TLB; the oldest one makes room (R136, assumption 49). -/
def tlbAdd (e : TlbEntry) (l : List TlbEntry) : List TlbEntry :=
  keepFirst (fun t => t.quire == e.quire && t.die == e.die) (if e.quire.isSome then quireTlb else dieTlb) (e :: l)

/-- The TLBs after a walk that ended in a usable leaf (R136). -/
def tlbFill (s : State) (quire : Nat) (c : Ctx) (va : Nat) : Walk → State
  | .ok pa page size w x =>
    if (s.ctx c).enable then
      let e : TlbEntry := ⟨some quire, dieOf quire, c, page, pa - va % 2 ^ size, size, w, x⟩
      { s with tlb := tlbAdd e (tlbAdd { e with quire := none } s.tlb) }
    else s
  | _ => s

/-! ## What an access touches besides memory (R327, R334) -/

/-- PWRCTL of an island. -/
def State.pwrctl (s : State) (i : Nat) : Word := if h : i < 256 then s.pwr[i] else 0

/-- PWRCTL of an island changed. -/
def State.setPwr (s : State) (i : Nat) (w : Word) : State := if h : i < 256 then { s with pwr := s.pwr.set i w h } else s

/-- An island in retention is on (R334). -/
def wakeIn (p : Vector Word 256) (i : Nat) : Vector Word 256 :=
  if h : i < 256 then (if bits p[i].toNat 1 0 = 1 then p.set i (p[i] - 1) h else p) else p

/-- The mesh islands of a die (R334). -/
def meshIslands (die : Nat) : List Nat := [58, 59, 60, 61, 62, 63].map (64 * die + ·)

/-- The command processor's and sequencers' islands, and the mesh that leads to them (R334). -/
def ioIslands : List Nat := (List.range 4).flatMap (fun d => (64 * d + 56) :: (64 * d + 57) :: meshIslands d)

/-- The islands that an access to a physical address is made to: those of what holds it, and the mesh of the die (R334,
assumption 58). -/
def islandsOf (pa : Nat) : List Nat :=
  if inSlices pa then (64 * dieOf (sliceQuire pa) + sliceQuire pa % 96 / 2) :: meshIslands (dieOf (sliceQuire pa))
  else if inHbm pa then
    let die := (pa - 0x010000000000) / (48 * 2 ^ 30) / 2
    [48, 49, 50, 51].map (64 * die + ·) ++ meshIslands die
  else if inMmio pa then ioIslands
  else if inHost pa then (List.range 4).flatMap meshIslands
  else []

/-- Islands in retention wake with an access to them (R334). -/
def State.wake (s : State) (is : List Nat) : State := { s with pwr := is.foldl wakeIn s.pwr }

/-- The physical addresses of the entries that a walk reads, from a table at `base` (R127). -/
def walkReadsFrom (s : State) (va : Nat) : Nat → Nat → List Nat
  | 0, _ => []
  | lvl + 1, base =>
    let a := base + 8 * (va / 2 ^ (12 + 9 * lvl) % 512)
    let e := s.mem.readNat a 8
    a :: (if bitOf e 0 && !bitOf e 1 then walkReadsFrom s va lvl (bits e 47 12 * 4096) else [])

/-- A walk of a context's tables wakes the memory that holds them (R334). -/
def State.wakeWalk (s : State) (c : Ctx) (va : Nat) : State :=
  if isLocal va && (s.ctx c).enable then
    s.wake ((walkReadsFrom s va 5 (bits (s.ctx c).ptroot.toNat 47 12 * 4096)).flatMap islandsOf)
  else s

/-- A context's access at a physical address: what is in retention there wakes, and one to the host window is issued with
its owner function's requester id (R327, R334). -/
def State.touch (s : State) (c : Ctx) (acc : Access) (pa : Nat) : State :=
  let s1 := s.wake (islandsOf pa)
  if inHost pa then { s1 with hostBus := (bits (s.ctx c).own.toNat 4 0, pa, acc.writes) :: s1.hostBus } else s1

/-- A translation and the state after it, with what the access touches. -/
def touched (c : Ctx) (acc : Access) (r : Walk × State) : Walk × State :=
  match r.1 with
  | .ok pa _ _ _ _ => (r.1, r.2.touch c acc pa)
  | _ => r

/-- The translation of an access from a quire: a cached translation that differs from what a walk
gives may be used, or has made room and the walk's is cached, by a free choice (R136, assumption 4). -/
def lookup (s : State) (quire : Nat) (c : Ctx) (va : Nat) (acc : Access) : Walk × State :=
  let fresh := walk s c va acc
  if !isLocal va || !(s.ctx c).enable then (fresh, s)
  else
    match tlbFind s quire c va with
    | none => (fresh, tlbFill (s.wakeWalk c va) quire c va fresh)
    | some t =>
      if tlbResult t va acc = fresh then (fresh, s)
      else if Config.freeBit s.free then (tlbResult t va acc, { s with free := s.free + 1 })
      else (fresh, tlbFill ({ s with free := s.free + 1, tlb := s.tlb.erase t }.wakeWalk c va) quire c va fresh)

/-- The translation of an access that is then made. -/
def translate (s : State) (quire : Nat) (c : Ctx) (va : Nat) (acc : Access) : Walk × State := touched c acc (lookup s quire c va acc)

/-- The level at which a walk meets its leaf (R127), for the TVAL of R138. -/
def leafLevelFrom (s : State) (va : Nat) : Nat → Nat → Nat
  | 0, _ => 0
  | lvl + 1, base =>
    let e := s.mem.readNat (base + 8 * (va / 2 ^ (12 + 9 * lvl) % 512)) 8
    if bitOf e 1 then lvl + 1 else leafLevelFrom s va lvl (bits e 47 12 * 4096)

/-- The TVAL of a walk that has read MIG = 1 for 10 ms: reason 4 at the level of its leaf (R130, R138). -/
def migrationTval (s : State) (c : Ctx) (va : Nat) : Word :=
  pageTval va 4 (leafLevelFrom s va 5 (bits (s.ctx c).ptroot.toNat 47 12 * 4096))

/-- 10 ms in core cycles (R138, R254). -/
def tenMs : Nat := 12000000

/-! ## Walk slots (R136) -/

/-- Walks that a die runs at once. -/
def walkSlots : Nat := 384

/-- A stall on a parked walk. -/
def Stall.walking : Stall → Bool
  | .retry (.walk _ _ _ _) => true
  | .retry (.spillWalk _ _ _) => true
  | .retry (.poolWalk _ _) => true
  | _ => false

/-- A thread in a slot of a die that holds a walk slot with a parked walk. -/
def parkedThread (die : Nat) (t : Thread) : Bool := dieOf t.quire == die && t.stall.any (·.walking)

/-- The parked walks of a die: of threads, of jobs and of remote requests. -/
def parkedWalks (s : State) (die : Nat) : Nat :=
  ((s.th :: s.others).filter (parkedThread die)).length +
    (s.jobs.filter (fun j => dieOf j.quire == die && j.parkedAt.isSome && j.stage != .ended)).length +
    (s.requests.filter (fun r => dieOf r.quire == die && r.parkedAt.isSome && r.stage == .sent)).length

/-- Since which core cycle a thread waits for a walk, or has its turn (R136). -/
def Thread.missAt (t : Thread) : Option Nat :=
  match t.stall with
  | some (.retry (.walkSlot n)) => some n
  | none => t.turn
  | _ => none

/-- The core cycles since which misses of a die wait for a walk (R136). -/
def walkWaiters (s : State) (die : Nat) : List Nat :=
  ((s.th :: s.others).filter (fun t => dieOf t.quire == die)).filterMap Thread.missAt ++
    (s.jobs.filter (fun j => dieOf j.quire == die && j.parkedAt.isNone && j.stage != .ended)).filterMap (·.missAt) ++
    (s.requests.filter (fun r => dieOf r.quire == die && r.parkedAt.isNone && r.stage == .sent)).filterMap (·.missAt)

/-- An access from a quire needs a walk: it is local and misses in the TLBs (R136). -/
def tlbMiss (s : State) (quire : Nat) (c : Ctx) (va : Nat) : Bool :=
  isLocal va && (s.ctx c).enable && (tlbFind s quire c va).isNone

/-- A miss that arrives waits: every walk of its die is in use, or others wait already (R136). -/
def walkFull (s : State) (quire : Nat) (c : Ctx) (va : Nat) : Bool :=
  tlbMiss s quire c va && (decide (walkSlots ≤ parkedWalks s (dieOf quire)) || !(walkWaiters s (dieOf quire)).isEmpty)

/-- A miss of a die that has waited since a core cycle waits on: every walk is in use, or another has waited longer
(R136). -/
def walkHeld (s : State) (die since : Nat) : Bool :=
  decide (walkSlots ≤ parkedWalks s die) || (walkWaiters s die).any (fun n => decide (n < since))

/-- What an agent's miss finds that has waited before, or not, or that holds a walk itself (R136, R138). -/
def missWaits (s : State) (quire : Nat) (c : Ctx) (va : Nat) (parked : Bool) (since : Option Nat) : Bool :=
  !parked && (match since with
    | some n => tlbMiss s quire c va && walkHeld s (dieOf quire) n
    | none => walkFull s quire c va)

/-! ## Chunks and pages (R137) -/

/-- What a translated chunk gives. -/
def Chunk.result (k : Chunk) (va : Nat) (acc : Access) : Walk :=
  tlbResult ⟨none, 0, k.ctx, k.va, k.pa, k.size, k.write, k.exec⟩ va acc |> fun
    | .ok _ _ _ w x => .ok (k.pa + va % 4096) k.va k.size w x
    | r => r

/-- The translation of an access that touches several bytes, made once for each 4 KiB that it touches (R137). -/
def chunkXlate (s : State) (quire : Nat) (c : Ctx) (va : Nat) (acc : Access) : Walk × State :=
  match s.chunks.find? (fun k => k.ctx == c && k.va == va / 4096 * 4096) with
  | some k => (k.result va acc, s)
  | none =>
    match translate s quire c va acc with
    | (.ok pa page size w x, s1) =>
      (.ok pa page size w x, { s1 with chunks := ⟨c, va / 4096 * 4096, pa - va % 4096, size, w, x⟩ :: s1.chunks })
    | r => r

/-- The translation of a piece of a thread's access, made once for each page that the access touches (R137). -/
def pageXlate (s : State) (quire : Nat) (c : Ctx) (va : Nat) (acc : Access) : Walk × State :=
  match s.chunks.find? (fun k => k.ctx == c && k.va == va / 2 ^ k.size * 2 ^ k.size) with
  | some k => (tlbResult ⟨none, 0, k.ctx, k.va, k.pa, k.size, k.write, k.exec⟩ va acc, s)
  | none =>
    match translate s quire c va acc with
    | (.ok pa page size w x, s1) => (.ok pa page size w x, { s1 with chunks := ⟨c, page, pa - va % 2 ^ size, size, w, x⟩ :: s1.chunks })
    | r => r

/-- The access in progress is over. -/
def State.chunksDone (s : State) : State := { s with chunks := [] }

/-- The physical address where an access needs no TLB and faults nowhere: what the command
processor, placement and the checks of R35 use. -/
def physOf (s : State) (c : Ctx) (va : Nat) (acc : Access) : Option Nat :=
  match walk s c va acc with
  | .ok pa _ _ _ _ => some pa
  | _ => none

end Sys2Proof.Machine
end

