-- ==== Sys2Proof/Machine/Store.lean ====
section
/-!
DEFINITION. Stores to physical memory with the line records and images of R323, and the accesses the
command processor and the save logic make through a context's translation (R320, R321).
-/
namespace Sys2Proof.Machine

/-- The bytes stored, the tags of their granules cleared (R43), the errors they overwrite gone (R326),
and, in a slice, the context recorded as last writer (R323). -/
def State.rawStore (s : State) (c : Ctx) (pa : Nat) (bs : List Byte) : State :=
  { s with
    mem := s.mem.writeBytes pa bs
    ecc := clearEcc pa bs.length s.ecc
    lines := if inSlices pa then writeLines c (s.stamp + 1) (pa / 64) ((pa + bs.length - 1) / 64 + 1 - pa / 64) s.lines else s.lines
    stamp := s.stamp + 1 }

/-- The save-area address of slice byte `p` of a context (R320). -/
def saveVa (s : State) (c : Ctx) (p : Nat) : Nat := (s.ctx c).savebase.toNat + p

/-- CTXSTAT.SAVEFAULT is bit 17, LRTBAD bit 16 (R320). -/
def State.setStat (s : State) (c : Ctx) (b : Nat) : State :=
  s.setCtx c (fun x => { x with stat := x.stat ||| BitVec.ofNat 64 (2 ^ b) })

/-- Whether a thread is the one a launch and a thread id name. -/
def Thread.is (t : Thread) (launch tid : Nat) : Bool := t.launch == launch && t.tid == tid

/-- The thread lives: it has neither exited nor faulted. -/
def Thread.live (t : Thread) : Bool := t.code != .exited && t.code != .faulted

/-- The threads in slots. -/
def State.slots (s : State) : List Thread := if s.th.code == .running then s.th :: s.others else s.others

/-! Line images and what depends on them (R323). Private regions, live ranges and granules are made of whole lines. -/

/-- Byte `p` lies in a range. -/
def inRange (base len p : Nat) : Bool := decide (base ≤ p) && decide (p < base + len)

/-- The line lies in a thread's private region. -/
def inRegion (t : Thread) (n : Nat) : Bool := inRange t.privBase t.privLen (64 * n)

/-- What becomes of slice line `n`, which another context has written, when a thread is picked up: none where it stays,
some false where it is unbounded, some true where it is restored (R142, R323). -/
def restoreLine (s : State) (t : Thread) (n : Nat) : Option Bool :=
  let p := 64 * n
  if s.residents.any (fun r => r.quire == p / sliceBytes && r.granule == p % sliceBytes / 4096) then none
  else if inRegion t n then
    match t.liveSet with
    | none => some true
    | some rs => some (rs.any (fun (o, n) => inRange (t.privBase + o) n p))
  else if s.launches.any (fun l => l.ctx == t.ctx && l.regions.any (fun (b, n) => inRange b n p)) then none
  else some true

/-- A context's number among those of a quire. -/
def ranKey (quire : Nat) (c : Ctx) : Nat := 64 * quire + c.toNat

/-- A thread of a context has left its slot on a quire (R323). -/
def State.ran (s : State) (quire : Nat) (c : Ctx) : State := { s with ranAt := sparseSet 0 s.ranAt (ranKey quire c) s.stamp }

/-- A line is of a thread's context where it lies in the thread's private region, or where the context has written it
(R323, assumption 62). -/
def Line.ofThread (l : Line) (t : Thread) : Bool := inRegion t l.num || l.writes.any (fun x => x.1 == t.ctx)

/-- The stamp of the value that a line of a thread has to hold: the write-back, and outside the private region the moment
when the context last ran on the quire, which is now where a thread of it holds a slot there (R323). -/
def dueStamp (s : State) (t : Thread) (n : Nat) : Nat :=
  if inRegion t n then t.savedAt
  else if s.slots.any (fun u => u.ctx == t.ctx && u.quire == t.quire) then s.stamp
  else sparseGet 0 s.ranAt (ranKey t.quire t.ctx)

/-- A line of a saved thread's home slice that another context has written since, and that the pick-up does not leave as
it is (R323). -/
def lineLost (s : State) (t : Thread) (l : Line) : Bool :=
  64 * l.num / sliceBytes == t.quire && l.ofThread t && (restoreLine s t l.num).isSome &&
    l.writes.any (fun x => x.1 != t.ctx && decide (dueStamp s t l.num < x.2))

/-- The record of a line, with nothing in it where no context has written the line. -/
def State.line (s : State) (c : Ctx) (n : Nat) : Line := (s.lines.find? (fun l => l.num == n)).getD ⟨n, c, [], []⟩

/-- A saved thread for which the line would be restored. -/
def wantsLine (s : State) (l : Line) (t : Thread) : Bool :=
  t.live && t.quire == 64 * l.num / sliceBytes && l.ofThread t && restoreLine s t l.num == some true

/-- The saved threads of a context for which line `n` would be restored. -/
def imageReaders (s : State) (c : Ctx) (n : Nat) : List Thread :=
  s.conts.filter (fun t => t.ctx == c && wantsLine s (s.line c n) t)

/-- A thread for which an access to the save area has faulted becomes faulted, where it is one of `ts` (R320). -/
def Thread.saveFault (ts : List Thread) (cause : Cause) (v : Word) (t : Thread) : Thread :=
  if ts.any (fun u => u.launch == t.launch && u.tid == t.tid) && t.code != .exited && t.code != .faulted then
    { t with pendTraps := ⟨cause, false, v, none, true⟩ :: t.pendTraps }
  else t

/-- A save-area access of a context has faulted: SAVEFAULT is set, and the continuations that it was for become faulted
(R320). -/
def saveAreaFault (c : Ctx) (ts : List Thread) (cause : Cause) (v : Word) (s : State) : State :=
  let mark := Thread.saveFault ts cause v
  let s1 := s.setStat c 17
  { s1 with th := mark s1.th, others := s1.others.map mark, conts := s1.conts.map mark }

/-- An image cannot be written: the saved continuations that need it become faulted (R320). -/
def imageLost (i : LineImage) (c : Cause) (v : Word) (s : State) : State :=
  let s1 := s.setStat i.ctx 17
  { s1 with conts := s1.conts.map (Thread.saveFault (imageReaders s i.ctx i.num) c v) }

/-- An image stored in its save area; the words in error stay in error there (R326). -/
def storeImage (i : LineImage) (pa : Nat) (s : State) : State :=
  let s1 := s.rawStore i.ctx pa i.bytes
  { s1 with ecc := i.bad.map (fun k => .memory (pa / 8 + k)) ++ s1.ecc }

/-- An image written, kept while its walk meets MIG = 1, or given up with the continuations that need it (R138, R320). -/
def writeImage (i : LineImage) (s : State) : State :=
  let va := saveVa s i.ctx (64 * i.num)
  match walk s i.ctx va .store with
  | .ok pa _ _ _ _ => storeImage i pa s
  | .fault v => imageLost i .pageFault v s
  | .bad => imageLost i .eccUncorrected (BitVec.ofNat 64 va) s
  | .park =>
    if i.since + tenMs ≤ s.cycle.toNat then imageLost i .pageFault (migrationTval s i.ctx va) s
    else { s with images := s.images ++ [i] }

/-- The images that wait are tried again. -/
def retryImages (s : State) : State := s.images.foldl (fun s i => writeImage i s) { s with images := [] }

/-- The line was written since its last image for a context, or has none (R323). -/
def Line.dirtyFor (l : Line) (c : Ctx) : Bool :=
  !l.images.any (fun x => x.1 == c) || l.writes.any (fun x => decide (stampOf l.images c < x.2))

/-- The contexts for which line `n` is imaged before context `c` writes it: the last writer, and those with a saved thread
whose value lies in it still; a context that needs an earlier image keeps that one (R323, assumption 62). -/
def imagedFor (s : State) (c : Ctx) (n : Nat) : List Ctx :=
  let l := s.line c n
  ((l.ctx :: (s.conts.filter (wantsLine s l)).map (·.ctx)).filter (· != c)).eraseDups.filter
    (fun x => !s.conts.any (fun t => t.ctx == x && lineLost s t l))

/-- Line `n` imaged for context `c`, where it is dirty since its last image (R323). -/
def imageLine (n : Nat) (s : State) (c : Ctx) : State :=
  let bad := (List.range 8).filter (fun k => eccAt s (64 * n + 8 * k) 8)
  let s1 := if (s.line c n).dirtyFor c then writeImage ⟨c, n, s.mem.readBytes (64 * n) 64, bad, s.cycle.toNat⟩ s else s
  { s1 with
    stamp := s1.stamp + 1
    lines := s1.lines.map (fun k => if k.num = n then { k with images := setStamp c (s1.stamp + 1) k.images } else k) }

/-- The lines of `k` line numbers from `n` imaged before context `c` writes them (R323). -/
def imageLines (c : Ctx) (n : Nat) : Nat → State → State
  | 0, s => s
  | k + 1, s => imageLines c (n + 1) k ((imagedFor s c n).foldl (imageLine n) s)

/-- The ranges whose accesses race. -/
def Watch.ranges : Watch → List (Nat × Nat)
  | .race l => l
  | _ => []

/-- An access to the byte races. -/
def State.races (s : State) (pa : Nat) : Bool := s.racing.ranges.any (fun (a, n) => inRange a n pa)

/-- The state in which a store to `n` bytes is recorded, where accesses are (R156). -/
def State.noted (s : State) (pa n : Nat) : State :=
  match s.racing with
  | .log l => { s with racing := .log ((pa, n, true) :: l) }
  | _ => s

/-- A store of context `c` to physical memory. -/
def State.store (s : State) (c : Ctx) (pa : Nat) (bs : List Byte) : State :=
  if inSlices pa then ((imageLines c (pa / 64) ((pa + bs.length - 1) / 64 + 1 - pa / 64) s).rawStore c pa bs).noted pa bs.length
  else (s.rawStore c pa bs).noted pa bs.length

/-- A store of the low `n` bytes of `x`. -/
def State.storeNat (s : State) (c : Ctx) (pa n x : Nat) : State := s.store c pa (toBytesLE n x)

/-- A store of 16 bytes and their tag (R428). -/
def State.storeCap (s : State) (c : Ctx) (pa : Nat) (r : Reg) : State :=
  let s1 := s.storeNat c pa 16 r.val.toNat
  { s1 with mem := s1.mem.setTag pa r.tag }

/-- A byte that a load reads: a free one where its access races (R157). -/
def State.loadByte (s : State) (pa : Nat) : Byte := if s.races pa then Config.freeByte (s.free + pa) else s.mem.read pa

/-- A load, of `n` bytes. -/
def State.loadNat (s : State) (pa n : Nat) : Nat :=
  if s.racing.ranges.isEmpty then s.mem.readNat pa n else ofBytesLE ((List.range n).map (fun i => s.loadByte (pa + i)))

/-- A granule with its tag; one that races reads as the capability stored there, or untagged and free (R4, R157). -/
def State.loadCap (s : State) (pa : Nat) : Reg :=
  if s.racing.ranges.isEmpty then s.mem.readCap pa
  else if (List.range 16).any (fun i => s.races (pa + i)) && Config.freeBit s.free then ⟨BitVec.ofNat 128 (s.loadNat pa 16), false⟩
  else s.mem.readCap pa

/-- The state after a load of `n` bytes: the load is recorded, or has had a value of its own in a race (R156, R157). -/
def State.drawn (s : State) (pa n : Nat) : State :=
  match s.racing with
  | .off => s
  | .log l => { s with racing := .log ((pa, n, false) :: l) }
  | .race _ => { s with free := s.free + 1 }

/-- The state after several loads of `n` bytes. -/
def State.drawnEach (s : State) (pas : List Nat) (n : Nat) : State :=
  match s.racing with
  | .off => s
  | _ => pas.foldl (fun s pa => s.drawn pa n) s

/-! Accesses of the command processor through a context's translation. -/

/-- An 8-byte word at a virtual address of a context. -/
def ctxLoad (s : State) (c : Ctx) (va : Nat) : Option Nat :=
  match physOf s c va .load with
  | some pa => if eccAt s pa 8 then none else some (s.loadNat pa 8)
  | none => none

/-- `n` bytes at a virtual address of a context, each translated. -/
def ctxLoadBytes (s : State) (c : Ctx) (va : Nat) : Nat → Option (List Byte)
  | 0 => some []
  | n + 1 =>
    match physOf s c va .load, ctxLoadBytes s c (va + 1) n with
    | some pa, some bs => if eccAt s pa 1 then none else some (s.readByte pa :: bs)
    | _, _ => none

/-- A granule with its tag. -/
def ctxLoadCap (s : State) (c : Ctx) (va : Nat) : Option Reg :=
  match physOf s c va .load with
  | some pa => if eccAt s pa 16 then none else some (s.mem.readCap pa)
  | none => none

/-- Each 4 KiB chunk of some aligned stores with its physical address, translated once (R137). -/
def chunkTable (s : State) (c : Ctx) (vas : List Nat) : List (Nat × Option Nat) :=
  (vas.map (· / 4096)).eraseDups.map (fun k => (k, physOf s c (4096 * k) .store))

/-- The physical address of `va` by such a table. -/
def inChunk (l : List (Nat × Option Nat)) (va : Nat) : Option Nat := ((l.lookup (va / 4096)).getD none).map (· + va % 4096)

/-- Words stored at the addresses of a table. -/
def storeWordsBy (l : List (Nat × Option Nat)) (c : Ctx) : List (Nat × Nat) → State → Option State
  | [], s => some s
  | (va, x) :: r, s =>
    match inChunk l va with
    | some pa => storeWordsBy l c r (s.storeNat c pa 8 x)
    | none => none

/-- 8-byte words stored at virtual addresses of a context. -/
def ctxStoreWords (c : Ctx) (ws : List (Nat × Nat)) (s : State) : Option State := storeWordsBy (chunkTable s c (ws.map (·.1))) c ws s

/-- Capabilities stored at the addresses of a table. -/
def storeCapsBy (l : List (Nat × Option Nat)) (c : Ctx) : List (Nat × Reg) → State → Option State
  | [], s => some s
  | (va, x) :: r, s =>
    match inChunk l va with
    | some pa => storeCapsBy l c r (s.storeCap c pa x)
    | none => none

/-- Capabilities stored with their tags. -/
def ctxStoreCaps (c : Ctx) (ws : List (Nat × Reg)) (s : State) : Option State := storeCapsBy (chunkTable s c (ws.map (·.1))) c ws s

/-- Words and then capabilities stored into the chunks that `vas` lie in. -/
def ctxStoreBoth (c : Ctx) (vas : List Nat) (ws : List (Nat × Nat)) (cs : List (Nat × Reg)) (s : State) : Option State :=
  let l := chunkTable s c vas
  (storeWordsBy l c ws s).bind (storeCapsBy l c cs)

/-- Bytes stored at virtual addresses of a context, each translated. -/
def ctxStoreBytes (c : Ctx) (va : Nat) : List Byte → State → Option State
  | [], s => some s
  | b :: bs, s =>
    match physOf s c va .store with
    | some pa => ctxStoreBytes c (va + 1) bs (s.store c pa [b])
    | none => none

end Sys2Proof.Machine
end

