-- ==== Sys2Proof/Machine/Frame.lean ====
section
/-!
DEFINITION. The continuation record (R8, R9), the continuation pool (R321) and the frame (R319): their
images in memory and how a pick-up reads them back.
-/
namespace Sys2Proof.Machine

/-- The code of a state (R9). -/
def Code.num : Code → Nat
  | .ready => 0
  | .running => 1
  | .suspended => 2
  | .exited => 3
  | .faulted => 4

/-- The state a code names (R9). -/
def codeOf : Nat → Option Code
  | 0 => some .ready
  | 1 => some .running
  | 2 => some .suspended
  | 3 => some .exited
  | 4 => some .faulted
  | _ => none

/-- The state word (R9). -/
def stateWord (t : Thread) : Nat :=
  t.code.num + t.prio % 128 * 2 ^ 8 + t.gran % 256 * 2 ^ 16 + t.replies % 256 * 2 ^ 24 + t.huddle % 65536 * 2 ^ 32 +
    b2n t.arrived * 2 ^ 48 + b2n t.ganged * 2 ^ 49 + t.gsize % 8 * 2 ^ 50 + t.gpos % 8 * 2 ^ 53 +
    b2n t.transit * 2 ^ 56 + b2n t.spawned * 2 ^ 57

/-- The virtual address of pool entry `i`'s record (R321). -/
def recordVa (s : State) (c : Ctx) (i : Nat) : Nat := (s.ctx c).poolbase.toNat + 64 * i

/-- The virtual address of pool entry `i`'s frame (R321). -/
def frameVa (s : State) (c : Ctx) (i : Nat) : Nat :=
  (s.ctx c).poolbase.toNat + roundUp (64 * (s.ctx c).poolcnt.toNat) 8192 + 8192 * i

/-- The frame capability of a record: the frame's 8,192 bytes with LOAD, STORE, LOADCAP and STORECAP
(R8; the permissions are assumption 9). -/
def frameCap (va : Nat) : Reg := boundedCap va va 8192 0x1B

/-- The record's words and its frame capability (R8). -/
def recordWords (t : Thread) (va : Nat) : List (Nat × Nat) :=
  [(va, t.pc.toNat), (va + 8, stateWord t), (va + 32, t.wait.toNat), (va + 40, t.kobj.toNat),
   (va + 48, t.dirty.toNat), (va + 56, t.link.toNat)]

/-- The frame capability of a record at `va` (R8). -/
def recordCaps (t : Thread) (va : Nat) (s : State) : List (Nat × Reg) := [(va + 16, frameCap (frameVa s t.ctx t.pool))]

/-- The record stored in the pool (R8, R321). -/
def storeRecord (t : Thread) (s : State) : Option State :=
  let va := recordVa s t.ctx t.pool
  ctxStoreBoth t.ctx [va] (recordWords t va) (recordCaps t va s) s

/-- Register `n` of a thread, g0 as the null value (R40). -/
def Thread.reg (t : Thread) (n : Nat) : Reg := if n = 0 then Reg.null else if h : n < 56 then t.g[n] else Reg.null

/-- The tags of the general registers as the TAGS word (R319). -/
def tagWord (t : Thread) : Nat := (List.range 56).foldl (fun w n => w + b2n (t.reg n).tag * 2 ^ n) 0

/-- Two words of a 128-bit value at `va`. -/
def wordPair (va x : Nat) : List (Nat × Nat) := [(va, x % 2 ^ 64), (va + 8, x / 2 ^ 64 % 2 ^ 64)]

/-- The words of the general registers in the frame, those of `which` (R319). -/
def gregWords (t : Thread) (fr : Nat) (which : Nat → Bool) : List (Nat × Nat) :=
  (List.range (8 * t.gran)).flatMap (fun n => if which n then wordPair (fr + 16 * n) (t.reg n).val.toNat else [])

/-- The stream binding kinds' numbers (R45). -/
def BindKind.num : BindKind → Nat
  | .cp => 0
  | .rx => 1
  | .tx => 2
  | .eng => 3

/-- The kind a number names. -/
def bindKindOf : Nat → BindKind
  | 0 => .cp
  | 1 => .rx
  | 2 => .tx
  | _ => .eng

/-- A binding's word as the frame holds it: a job id has 32 bits (R183). -/
def Binding.frameWord (b : Binding) : Nat :=
  match b.kind with
  | .cp => b.word.toNat % 2 ^ 32
  | .eng => b.word.toNat % 2 ^ 32
  | _ => b.word.toNat % 2 ^ 56

/-- The binding of q`n` in the frame (R319). -/
def bindWords (t : Thread) (fr n : Nat) : List (Nat × Nat) :=
  let va := fr + 3216 + 144 * n
  match (if h : n < 8 then t.q[n] else none) with
  | none => [(va, 0), (va + 8, 0)]
  | some b =>
    [(va, b.kind.num + 4 + b.buf.length % 32 * 8 + b.frameWord * 256), (va + 8, 0)] ++
      (b.buf.take 16).zipIdx.map (fun (x, i) => (va + 16 + 8 * i, x.toNat))

/-- A vector register in the frame (R319). -/
def vregWords (t : Thread) (fr n : Nat) : List (Nat × Nat) :=
  match (if h : n < 16 then some t.v[n] else none) with
  | none => []
  | some x => (List.range 16).map (fun k => (fr + 1152 + 128 * n + 8 * k, x.toNat / 2 ^ (64 * k) % 2 ^ 64))

/-- The pending bits of the frame (R319). -/
def pendWord (t : Thread) : Nat := t.pend.toNat

/-- The words that the layout of the frame gives as zero (R319). -/
def zeroWords (fr : Nat) : List (Nat × Nat) :=
  (List.range 7).map (fun k => (fr + 1096 + 8 * k, 0)) ++ (List.range 191).map (fun k => (fr + 6664 + 8 * k, 0))

/-- The words of a frame apart from the general registers (R319, R12). -/
def frameWords (t : Thread) (fr : Nat) : List (Nat × Nat) :=
  [(fr + 896, tagWord t), (fr + 904, pendWord t), (fr + 912, t.fstat.toNat),
   (fr + 920, t.vl % 256 + (match t.replay with | some r => (r.len - 1) % 16 * 256 + 4096 | none => 0)),
   (fr + 928, match t.replay with | some r => r.left % 2 ^ 64 | none => 0),
   (fr + 936, match t.replay with | some r => r.addr % 2 ^ 64 | none => 0),
   (fr + 944, t.cause.toNat), (fr + 952, t.tval.toNat), (fr + 1072, t.prio), (fr + 1080, t.deadline.toNat),
   (fr + 1088, t.rfq.length % 256 + t.mbox.length % 256 * 256)] ++
  (List.range t.vregs).flatMap (vregWords t fr) ++ wordPair (fr + 3200) t.m.toNat ++
  (List.range 8).flatMap (bindWords t fr) ++
  (t.mbox.take 32).zipIdx.map (fun (x, i) => (fr + 4368 + 8 * i, x.toNat)) ++
  (t.rfq.take 255).zipIdx.map (fun (x, i) => (fr + 4624 + 8 * i, x.toNat)) ++ zeroWords fr

/-- The capabilities of a frame (R319). -/
def frameCaps (t : Thread) (fr : Nat) : List (Nat × Reg) :=
  [(fr + 960, t.epc), (fr + 976, t.tbase), (fr + 992, t.routbase), (fr + 1008, t.lrtbase),
   (fr + 1024, t.shapebase), (fr + 1040, t.cbbase), (fr + 1056, t.ttbase)]

/-- The frame stored: the general registers of `which`, and everything else of R12. -/
def storeFrame (t : Thread) (which : Nat → Bool) (s : State) : Option State :=
  let fr := frameVa s t.ctx t.pool
  ctxStoreBoth t.ctx [fr, fr + 4096] (gregWords t fr which ++ frameWords t fr) (frameCaps t fr) s

/-- The frame's CAUSE, TVAL and EPC, which a faulted continuation keeps (R312). -/
def storeFaultFrame (t : Thread) (s : State) : Option State :=
  let fr := frameVa s t.ctx t.pool
  (ctxStoreWords t.ctx [(fr + 944, t.cause.toNat), (fr + 952, t.tval.toNat)] s).bind (ctxStoreCaps t.ctx [(fr + 960, t.epc)])

/-! ## Reading back -/

/-- The record as a pick-up reads it: nothing for a reserved CODE, a reserved bit, or a fault
(R10, R326). The fields the record holds replace the thread's. -/
def loadRecord (s : State) (t : Thread) : Option Thread :=
  let va := recordVa s t.ctx t.pool
  match ctxLoad s t.ctx va, ctxLoad s t.ctx (va + 8), ctxLoad s t.ctx (va + 32), ctxLoad s t.ctx (va + 40),
      ctxLoad s t.ctx (va + 48), ctxLoad s t.ctx (va + 56) with
  | some pc, some w, some wait, some kobj, some dirty, some link =>
    match codeOf (bits w 7 0) with
    | some code =>
      if bitOf w 15 || bits w 63 58 != 0 || bitOf dirty 0 || bits dirty 63 56 != 0 then none
      else some { t with pc := BitVec.ofNat 64 pc, code := code, prio := bits w 14 8, gran := bits w 23 16,
                         replies := bits w 31 24, huddle := bits w 47 32, arrived := bitOf w 48, ganged := bitOf w 49,
                         gsize := bits w 52 50, gpos := bits w 55 53, transit := bitOf w 56, spawned := bitOf w 57,
                         wait := BitVec.ofNat 64 wait, kobj := BitVec.ofNat 64 kobj,
                         dirty := BitVec.ofNat 64 dirty, link := BitVec.ofNat 64 link }
    | none => none
  | _, _, _, _, _, _ => none

/-- `n` 8-byte words from a virtual address. -/
def ctxWords (s : State) (c : Ctx) (va : Nat) : Nat → Option (List Nat)
  | 0 => some []
  | n + 1 =>
    match ctxLoad s c va, ctxWords s c (va + 8) n with
    | some x, some r => some (x :: r)
    | _, _ => none

/-- The general registers of a frame (R319). -/
def loadGregs (s : State) (t : Thread) (fr tags : Nat) : Nat → Option (Vector Reg 56)
  | 0 => some (Vector.replicate 56 Reg.null)
  | n + 1 =>
    match loadGregs s t fr tags n, ctxLoad s t.ctx (fr + 16 * n), ctxLoad s t.ctx (fr + 16 * n + 8) with
    | some g, some lo, some hi =>
      if h : n < 56 then
        some (if n = 0 then g else g.set n ⟨BitVec.ofNat 128 (lo + hi * 2 ^ 64), bitOf tags n⟩ h)
      else some g
    | _, _, _ => none

/-- The vector registers of a frame (R319). -/
def loadVregs (s : State) (t : Thread) (fr : Nat) : Nat → Option (Vector (BitVec 1024) 16)
  | 0 => some (Vector.replicate 16 0)
  | n + 1 =>
    match loadVregs s t fr n, ctxWords s t.ctx (fr + 1152 + 128 * n) 16 with
    | some v, some ws => if h : n < 16 then some (v.set n (BitVec.ofNat 1024 (ofElems 64 ws)) h) else some v
    | _, _ => none

/-- A binding as a frame gives it; where it names the job that the saved one does, it is still that job, whatever its
serial has come to name since (R183). -/
def boundAgain (old : Option Binding) (b : Binding) : Binding :=
  match old with
  | some o => if o.kind == b.kind && o.frameWord == b.word.toNat then { b with word := o.word } else b
  | none => b

/-- The stream bindings of a frame (R319). -/
def loadBinds (s : State) (t : Thread) (fr : Nat) : Nat → Option (Vector (Option Binding) 8)
  | 0 => some (Vector.replicate 8 none)
  | n + 1 =>
    let va := fr + 3216 + 144 * n
    match loadBinds s t fr n, ctxLoad s t.ctx va with
    | some q, some d =>
      match ctxWords s t.ctx (va + 16) (min (bits d 7 3) 16) with
      | some ws =>
        if h : n < 8 then
          some (q.set n (if bitOf d 2 then
            some (boundAgain t.q[n] ⟨bindKindOf (bits d 1 0), BitVec.ofNat 64 (d / 256), ws.map (BitVec.ofNat 64)⟩) else none) h)
        else some q
      | none => none
    | _, _ => none

/-- A thread with the registers of a frame at an address (R319); nothing where a read faults (R326). -/
def loadFrameAt (s : State) (t : Thread) (fr : Nat) : Option Thread := do
  let [tags, pend, fstat, vstate, vseqn, vseqpc, cause, tval] ← ctxWords s t.ctx (fr + 896) 8 | none
  let [prio, deadline, counts] ← ctxWords s t.ctx (fr + 1072) 3 | none
  let [m0, m1] ← ctxWords s t.ctx (fr + 3200) 2 | none
  let g ← loadGregs s t fr tags (min (8 * t.gran) 56)
  let v ← loadVregs s t fr (min t.vregs 16)
  let q ← loadBinds s t fr 8
  let mbox ← ctxWords s t.ctx (fr + 4368) (min (bits counts 15 8) 32)
  let rfq ← ctxWords s t.ctx (fr + 4624) (bits counts 7 0)
  let epc ← ctxLoadCap s t.ctx (fr + 960)
  let tbase ← ctxLoadCap s t.ctx (fr + 976)
  let routbase ← ctxLoadCap s t.ctx (fr + 992)
  let lrtbase ← ctxLoadCap s t.ctx (fr + 1008)
  let shapebase ← ctxLoadCap s t.ctx (fr + 1024)
  let cbbase ← ctxLoadCap s t.ctx (fr + 1040)
  let ttbase ← ctxLoadCap s t.ctx (fr + 1056)
  return { t with g := g, v := v, q := q, mbox := mbox.map (BitVec.ofNat 64), rfq := rfq.map (BitVec.ofNat 64),
                  m := BitVec.ofNat 128 (m0 + m1 * 2 ^ 64), pend := BitVec.ofNat 64 pend,
                  fstat := BitVec.ofNat 64 fstat, vl := bits vstate 7 0,
                  replay := if bitOf vstate 12 then t.replay.map (fun r => { r with addr := vseqpc, left := vseqn }) else none,
                  cause := BitVec.ofNat 64 cause, tval := BitVec.ofNat 64 tval, prio := bits prio 6 0,
                  deadline := BitVec.ofNat 64 deadline, epc := epc, tbase := tbase, routbase := routbase,
                  lrtbase := lrtbase, shapebase := shapebase, cbbase := cbbase, ttbase := ttbase }

/-- A thread with the registers of its own frame (R12). -/
def loadFrame (s : State) (t : Thread) : Option Thread := loadFrameAt s t (frameVa s t.ctx t.pool)

end Sys2Proof.Machine
end

