-- ==== Sys2Proof/Machine/Ops.lean ====
section
/-!
DEFINITION. The named operations over threads, huddles, mailboxes and the thread in focus; taking an
exception and returning from one (R311 to R314); how an instruction ends.
-/
namespace Sys2Proof.Machine

/-! ## Threads -/

/-- The state with the thread in focus changed. -/
def State.up (s : State) (f : Thread → Thread) : State := { s with th := f s.th }

/-- Every thread of the package. -/
def State.threads (s : State) : List Thread := s.slots ++ s.conts

/-- The thread with a launch and id. -/
def State.find (s : State) (launch tid : Nat) : Option Thread := s.threads.find? (·.is launch tid)

/-- `f` applied to a list's thread with a launch and id. -/
def mapIn (launch tid : Nat) (f : Thread → Thread) (l : List Thread) : List Thread :=
  l.map (fun t => if t.is launch tid then f t else t)

/-- `f` applied to the thread with a launch and id, wherever it is. -/
def State.onThread (s : State) (launch tid : Nat) (f : Thread → Thread) : State :=
  { s with
    th := if s.th.is launch tid then f s.th else s.th
    others := mapIn launch tid f s.others
    conts := mapIn launch tid f s.conts }

/-- Whether the thread's continuation is saved, so that its registers lie in its frame. -/
def State.isSaved (s : State) (launch tid : Nat) : Bool := s.conts.any (·.is launch tid)

/-- Words stored into a saved thread's frame; a fault sets SAVEFAULT (R320, R325). -/
def State.frameStore (s : State) (t : Thread) (ws : List (Nat × Nat)) : State :=
  match ctxStoreWords t.ctx ws s with
  | some s1 => s1
  | none => s.setStat t.ctx 17

/-- The COUNTS word of a frame (R319). -/
def countsWord (t : Thread) : Nat := t.rfq.length % 256 + t.mbox.length % 256 * 256

/-- A mailbox entry for a thread (R213, R325): nothing where the mailbox is full. Entries for a
thread that has exited or faulted are discarded (R19, R312). -/
def State.postMail (s : State) (launch tid : Nat) (e : Word) : Option State :=
  match s.find launch tid with
  | none => some s
  | some t =>
    if !t.live then some s
    else if 32 ≤ t.mbox.length then none
    else
      let t1 := { t with mbox := t.mbox ++ [e] }
      let s1 := s.onThread launch tid (fun x => { x with mbox := x.mbox ++ [e] })
      if s.isSaved launch tid then
        let fr := frameVa s t.ctx t.pool
        some (s1.frameStore t [(fr + 4368 + 8 * t.mbox.length, e.toNat), (fr + 1088, countsWord t1)])
      else some s1

/-- A trap that a thread takes at its next instruction boundary. -/
def State.addTrap (s : State) (launch tid : Nat) (c : Cause) (job : Bool) (v : Word) : State :=
  s.onThread launch tid (fun t => if t.live then { t with pendTraps := t.pendTraps ++ [⟨c, job, v, none, false⟩] } else t)

/-- A remote fault for a thread (R254): the RFQ of a saved thread lies in its frame (R325). -/
def State.addRemoteFault (s : State) (launch tid : Nat) (v : Word) : State :=
  match s.find launch tid with
  | none => s
  | some t =>
    if !t.live then s
    else
      let s1 := s.onThread launch tid (fun x => { x with rfq := x.rfq ++ [v] })
      if s.isSaved launch tid then
        let fr := frameVa s t.ctx t.pool
        s1.frameStore t [(fr + 4624 + 8 * t.rfq.length, v.toNat), (fr + 1088, countsWord { t with rfq := t.rfq ++ [v] })]
      else s1

/-! ## Time (R54, R262): one core cycle is 5/6 ns, and TIME runs with CYCLE (assumption 7) -/

/-- Slot time charged to a tier. -/
def chargeTier (n : Nat) (c : Vector Nat 8) (t : Thread) : Vector Nat 8 :=
  if h : t.tier < 8 then c.set t.tier (c.get ⟨t.tier, h⟩ + n) h else c

/-- The key of a tier's charge on a quire. -/
def chargeKey (tier quire : Nat) : Nat := 512 * tier + quire

/-- Slot time charged to a tier on a quire. -/
def chargeQuire (n : Nat) (l : List (Nat × Nat)) (t : Thread) : List (Nat × Nat) :=
  sparseSet 0 l (chargeKey t.tier t.quire) (sparseGet 0 l (chargeKey t.tier t.quire) + n)

/-- 250 µs in core cycles. -/
def roundLength : Nat := 300000

/-- The round boundaries that `n` cycles pass beyond (R307): charges return to zero at each. -/
def roundsPassed (s : State) (n : Nat) : Nat := (s.cycle.toNat + n - s.roundAt - 1) / roundLength

/-! ## Phases (R286, R294, R296, R297) -/

/-- The TVAL of OUT_OF_SLOT (R295). -/
def slotTval (reason domain index : Nat) : Word := BitVec.ofNat 64 (reason + domain % 64 * 256 + index % 2 ^ 32 * 2 ^ 32)

/-- The time that a hold from `since` to `until_` adds to a pending pre-emption (R297). -/
def shiftPreempt (since until_ : Nat) (t : Thread) : Thread :=
  { t with preempt := t.preempt.map (fun p => p + (until_ - max p since)) }

/-- The phase of a domain is open. -/
def OpenPhase.isOpen (now : Nat) (p : OpenPhase) : Bool := decide (now < p.start + p.plen)

/-- A thread out of its phase, at the close or before it: the hold ends, and a stray element that reached it is reported at
the close (R294, R296, R297). -/
def Thread.leavePhase (now : Nat) (t : Thread) : Thread :=
  match t.phase with
  | none => t
  | some p =>
    { shiftPreempt p.start (min now (p.start + p.plen)) t with
      phase := none, strays := if p.stray then t.strays ++ [(p.domain, p.start + p.plen)] else t.strays }

/-- An SSEND or SRECV of the thread has not completed; each does before the thread's phase is over. -/
def Thread.transfers (t : Thread) : Bool :=
  match t.stall with
  | some (.ssend _) => true
  | some (.srecv _) => true
  | _ => false

/-- The phases that have closed are over for a thread (R286); one in which a stray element reached it raises OUT_OF_SLOT,
reason 6 (R294). -/
def Thread.closePhase (now : Nat) (t : Thread) : Thread :=
  let u := if t.phase.any (fun p => decide (p.start + p.plen ≤ now)) && !t.transfers then t.leavePhase now else t
  if u.strays.isEmpty then u
  else
    { u with
      strays := u.strays.filter (fun x => decide (now < x.2))
      pendTraps := u.pendTraps ++ (u.strays.filter (fun x => decide (x.2 ≤ now))).map (fun x =>
        ⟨.outOfSlot, false, slotTval 6 x.1 0, none, false⟩) }

/-- Every phase that has closed is over. -/
def State.closePhases (s : State) : State :=
  let now := s.cycle.toNat
  { s with
    th := if s.th.code == .running then s.th.closePhase now else s.th
    others := s.others.map (·.closePhase now)
    openPhases := s.openPhases.filter (·.isOpen now)
    sends := s.sends.filter (fun x => decide (now < x.start + x.window.offset + x.window.len)) }

/-- `n` core cycles pass, and every slot that runs a continuation is charged for those of them that lie in the
accounting round at their end (R307); phases close at their cycle (R286). -/
def State.tick (s : State) (n : Nat) : State :=
  let f := s.timeFrac + 5 * n
  let k := roundsPassed s n
  let m := if k = 0 then n else s.cycle.toNat + n - s.roundAt - k * roundLength
  { s with cycle := s.cycle + BitVec.ofNat 64 n
           time := s.time + BitVec.ofNat 64 (f / 6)
           timeFrac := f % 6
           charges := s.slots.foldl (chargeTier m) (if k = 0 then s.charges else Vector.replicate 8 0)
           quireCharges := s.slots.foldl (chargeQuire m) (if k = 0 then s.quireCharges else [])
           roundAt := s.roundAt + k * roundLength }.closePhases

/-- Pod time as a number of ns. -/
def State.now (s : State) : Nat := s.time.toNat

/-! ## Huddles (R20 to R25, R313) -/

/-- The huddle that a launch's number names. -/
def State.huddle (s : State) (launch num : Nat) : Option Huddle :=
  s.huddles.find? (fun h => h.launch == launch && h.num == num)

/-- The release of a generation: when every member has arrived in it (R23). -/
def Huddle.settle (h : Huddle) : Huddle :=
  if !h.broken && !h.members.isEmpty && h.members.all (fun m => h.arrived.contains m) then
    { h with gen := h.gen + 1, arrived := [] }
  else h

/-- `f` applied to a huddle, and the release decided. -/
def State.onHuddle (s : State) (launch num : Nat) (f : Huddle → Huddle) : State :=
  { s with huddles := s.huddles.map (fun h => if h.launch == launch && h.num == num then (f h).settle else h) }

/-- Huddles with no member vanish, but for huddle 0, which lives as long as its launch (R20, R392);
huddle 0 is no longer broken once its last member has left (R313). -/
def State.dropHuddles (s : State) : State :=
  let kept := s.huddles.filter (fun h => h.num == 0 || !h.members.isEmpty)
  { s with huddles := kept.map (fun h => if h.members.isEmpty then { h with broken := false } else h) }

/-- LEAVE: the thread leaves a huddle, its arrival is withdrawn and the release decided (R22, R23). -/
def State.leave (s : State) (launch tid num : Nat) : State :=
  let withdrawn := (s.huddle launch num).any (fun h => h.arrived.contains tid)
  let s1 := if withdrawn then s.onThread launch tid (fun t => { t with arrived := false }) else s
  (s1.onHuddle launch num (fun h => { h with members := h.members.filter (· != tid),
                                             arrived := h.arrived.filter (· != tid) })).dropHuddles

/-- LEAVE on every huddle of a thread (R19). -/
def State.leaveAll (s : State) (launch tid : Nat) : State :=
  ((s.huddles.filter (fun h => h.launch == launch && h.members.contains tid)).map (·.num)).foldl
    (fun s n => s.leave launch tid n) s

/-- The wait descriptor's kind, selector and operand (R14). -/
def waitKind (w : Word) : Nat := bits w.toNat 2 0
def waitSel (w : Word) : Nat := bits w.toNat 10 3
def waitArg (w : Word) : Nat := bits w.toNat 63 11

/-- A wait descriptor (R14). -/
def mkWait (kind sel arg : Nat) : Word := BitVec.ofNat 64 (kind + sel % 256 * 8 + arg * 2048)

/-- The TVAL of HUDDLE (R310). -/
def huddleTval (num culprit : Nat) : Word := BitVec.ofNat 64 (num % 4096 + culprit % 2 ^ 32 * 2 ^ 32)

/-- The thread waits at a barrier of huddle `num`, in its slot or saved. -/
def Thread.waitsAt (t : Thread) (num : Nat) : Bool :=
  t.arrived && t.huddle == num &&
    (match t.stall with
     | some (.suspend w) => waitKind w == 6
     | _ => t.code == .suspended && waitKind t.wait == 6)

/-- The huddles of a faulted thread break, and it is a member of none of them any more (assumption 48); members that
wait there take HUDDLE at the HBAR (R313). -/
def breakHuddles (launch tid : Nat) (s : State) : State :=
  let mine := (s.huddles.filter (fun h => h.launch == launch && h.members.contains tid)).map (·.num)
  let crack := fun (h : Huddle) =>
    if h.launch == launch && h.members.contains tid then
      { h with broken := true, culprit := if h.broken then h.culprit else tid,
               members := h.members.filter (· != tid), arrived := h.arrived.filter (· != tid) }
    else h
  let s1 := State.dropHuddles { s with huddles := s.huddles.map crack }
  let hit := fun (t : Thread) => t.launch == launch && t.tid != tid && mine.any (fun n => t.waitsAt n)
  let mark := fun (t : Thread) => if hit t then { t with pendTraps := t.pendTraps ++ [⟨.huddle, false, huddleTval t.huddle tid, none, false⟩] } else t
  { s1 with th := mark s1.th, others := s1.others.map mark, conts := s1.conts.map mark }

/-! ## Streams (R45, R212, R422) -/

/-- Stream register `n` of a thread. -/
def Thread.stream (t : Thread) (n : Nat) : Option Binding := if h : n < 8 then t.q[n] else none

/-- The thread with stream register `n` bound to `b`, or free. -/
def Thread.setStream (t : Thread) (n : Nat) (b : Option Binding) : Thread :=
  if h : n < 8 then { t with q := t.q.set n b h } else t

/-- The number of a stream register field. -/
def qNum (r : RegField) : Nat := r.toNat - 56

/-- The index of a thread among a job's members. -/
def Job.memberOf (j : Job) (launch tid : Nat) : Option Nat := j.members.findIdx? (fun m => m.launch == launch && m.tid == tid)

/-- Whole destination elements in `n` stream elements of `w`-bit elements, at most `c` (R212). -/
def wholeElements (n w c : Nat) : Nat := min (64 * n / max w 1) c

/-- DONE of a streaming copy: the longest run from the start, over members (R212). -/
def streamDone : List Nat → List Nat → List Nat → Nat
  | w :: ws, c :: cs, e :: es =>
    let k := wholeElements e w c
    if k = c then c + streamDone ws cs es else k
  | _, _, _ => 0

/-- The record of COPY, PACK and COMPACT (R216, R233). -/
def copyRecord (op id status cause fmember done total sshape dshape fval : Nat) : List Word :=
  [BitVec.ofNat 64 (id % 2 ^ 32 + status * 2 ^ 32 + cause * 2 ^ 40 + fmember * 2 ^ 48 + 1 * 2 ^ 51 + op * 2 ^ 56),
   BitVec.ofNat 64 done, BitVec.ofNat 64 total, BitVec.ofNat 64 (sshape + dshape * 256), BitVec.ofNat 64 fval, 0, 0, 0]

/-- The job delivers to streams (R212). -/
def Job.streams (j : Job) : Bool := match j.cmd with | .copy c => bitOf c.w4.toNat 8 | _ => false

/-- A streaming copy as a member's stream ends: ABORTED where that member's last element has not entered its buffer;
its status and record are decided, and JOB_DONE posts them. FMEMBER is that member (assumption 18). A copy that has not
started is marked, with the member (R212). -/
def abortJob (launch tid : Nat) (j : Job) : Job :=
  match j.memberOf launch tid with
  | none => j
  | some i =>
    if !j.streams || j.stage == .ended then j
    else if j.stage != .running then (if j.status = 3 then j else { j with status := 3, record := [BitVec.ofNat 64 i] })
    else if (j.stream.getD i []).isEmpty then j
    else
      let done := j.done + streamDone j.widths j.counts j.entered
      { j with status := 3, stream := [],
               record := copyRecord 1 j.id 3 0 i done (j.done + j.counts.sum) j.tile.shape.toNat (bits j.tile.w4.toNat 7 0) 0 }

/-- The streaming copy `jid` ends early (R212, R422). -/
def abortStream (launch tid jid : Nat) (s : State) : State :=
  { s with jobs := s.jobs.map (fun j => if j.id == jid then abortJob launch tid j else j) }

/-- Every streaming copy of a thread that ends ends early (R212). -/
def abortStreams (launch tid : Nat) (s : State) : State := { s with jobs := s.jobs.map (abortJob launch tid) }

/-- The job whose serial an id names, as R183 resolves it. -/
def State.jobOf (s : State) (id : Nat) : Option Job := s.jobs.find? (fun j => j.id == id)

/-- The result elements of an engine binding are discarded (R185, R422). -/
def dropResults (launch tid jid : Nat) (s : State) : State :=
  { s with jobs := s.jobs.map (fun j =>
      if j.id == jid then
        { j with members := j.members.map (fun m => if m.launch == launch && m.tid == tid then { m with fifo := [] } else m) }
      else j) }

/-- SFREE of stream register `n` of a thread (R422). -/
def sfreeOf (launch tid n : Nat) (s : State) : State :=
  match (s.find launch tid).bind (fun t => t.stream n) with
  | none => s
  | some b =>
    let s1 := s.onThread launch tid (fun t => t.setStream n none)
    match b.kind with
    | .cp => abortStream launch tid b.word.toNat s1
    | .eng => dropResults launch tid b.word.toNat s1
    | _ => s1

/-- SFREE of every stream register (R312, R365). -/
def sfreeAll (launch tid : Nat) (s : State) : State := (List.range 8).foldl (fun s n => sfreeOf launch tid n s) s

/-! ## A thread that ends -/

/-- A launch's figures changed. -/
def State.onLaunch (s : State) (num : Nat) (f : Launch → Launch) : State :=
  { s with launches := s.launches.map (fun l => if l.num == num then f l else l) }

/-- The thread in focus becomes faulted at `e` (R312): huddles and streams are released, its record
and the fault's part of its frame are stored, and it leaves its slot. -/
def becomeFaulted (e : Word) (s : State) : State :=
  let t := { s.th with pc := e, code := .faulted, stall := none, mbox := [], rfq := [], pendTraps := [],
                       phase := none, arrived := false, trapMark := true, ganged := false }
  let s1 := breakHuddles t.launch t.tid (abortStreams t.launch t.tid (sfreeAll t.launch t.tid s))
  let s2 := match storeRecord t s1 with
    | some x => (match storeFaultFrame t x with | some y => y | none => x.setStat t.ctx 17)
    | none => s1.setStat t.ctx 17
  let s3 := s2.onLaunch t.launch (fun l => { l with live := l.live - 1, faults := l.faults + 1 })
  { s3 with th := Thread.empty, conts := s3.conts ++ [t] }

/-! ## Taking an exception, and returning from one -/

/-- The code of a cause (R310). -/
def Cause.num : Cause → Nat
  | .illegal => 0x01
  | .tileAlign => 0x02
  | .capTag => 0x03
  | .capBounds => 0x04
  | .capPerm => 0x05
  | .misalign => 0x06
  | .pageFault => 0x07
  | .fetchFault => 0x08
  | .streamUnbound => 0x09
  | .gangBroken => 0x0A
  | .outOfSlot => 0x0B
  | .spillFault => 0x0C
  | .routineFault => 0x0D
  | .nonfinite => 0x0E
  | .ckptOverrun => 0x0F
  | .trap => 0x10
  | .privilege => 0x11
  | .remoteFault => 0x12
  | .accTag => 0x13
  | .huddle => 0x14
  | .eccUncorrected => 0x15
  | .formatFault => 0x16

/-- The cause a code names (R310). -/
def causeOf (n : Nat) : Cause :=
  ([.illegal, .illegal, .tileAlign, .capTag, .capBounds, .capPerm, .misalign, .pageFault, .fetchFault, .streamUnbound,
    .gangBroken, .outOfSlot, .spillFault, .routineFault, .nonfinite, .ckptOverrun, .trap, .privilege, .remoteFault,
    .accTag, .huddle, .eccUncorrected, .formatFault] : List Cause).getD n .illegal

/-- A capability at another address: the tag is kept where the address is representable, since a
tagged capability's address lies in its window (R42, assumption 10). -/
def Reg.atAddr (r : Reg) (x : Nat) : Reg :=
  if r.tagged && representable r (x % 2 ^ 64) then r.withAddr x else ⟨(r.withAddr x).val, false⟩

/-- The trap waits for the next boundary, not for an instruction in progress to complete. -/
def PendTrap.now (p : PendTrap) : Bool := p.after.isNone

/-- The registers that trap entry writes (R311), and the phase left (R296). A GANG_BROKEN that was to follow the
instruction does not come: the member takes its own trap (R29). -/
def trapRegs (now : Nat) (c : Cause) (job : Bool) (v e : Word) (t : Thread) : Thread :=
  { t.leavePhase now with
           cause := BitVec.ofNat 64 (c.num + b2n job * 256), tval := v, epc := t.fetchCap.atAddr e.toNat,
           pendTraps := t.pendTraps.filter (·.now), stall := none, abandoned := none, turn := none, trapMark := true }

/-- Whether TBASE can be entered (R311): not null, and cap_check(TBASE, TBASE.address, 4, EXEC). -/
def handlerOk (tbase : Reg) : Bool :=
  match capCheck tbase tbase.addr 4 permExec with
  | .ok _ => true
  | .error _ => false

/-- Trap entry (R311): CAUSE, TVAL and EPC are written; with a usable TBASE the thread continues at
it, else it becomes faulted (R312). `fetching` says that the trap arose from fetching at `e`. -/
def takeTrap (c : Cause) (job : Bool) (v e : Word) (fetching : Bool) (s : State) : State :=
  let s1 := s.up (trapRegs s.cycle.toNat c job v e)
  if !handlerOk s.th.tbase || (fetching && e.toNat == s.th.tbase.addr) then becomeFaulted e s1
  else s1.up (fun t => { t with pc := BitVec.ofNat 64 t.tbase.addr })

/-- The return from an exception (R314): PC becomes EPC's address; a failed check is FETCH_FAULT at the
target. A target that is no multiple of 4 is MISALIGN at the ERET (R71). -/
def returnFromTrap (s : State) : State :=
  let target := s.th.epc.addr
  match capCheck s.th.epc target 4 permExec with
  | .error (.trap _ v) => takeTrap .fetchFault false v (BitVec.ofNat 64 target) true s
  | .error _ => s
  | .ok _ =>
    if target % 4 ≠ 0 then takeTrap .misalign false (BitVec.ofNat 64 target) s.th.pc false s
    else s.up (fun t => { t with pc := BitVec.ofNat 64 target, stall := none })

/-! ## How an instruction ends -/

/-- The next instruction of a control word (R71). -/
def Thread.next (t : Thread) (n : Nat) : Thread :=
  { t with pc := t.pc + BitVec.ofNat 64 n, stall := none, abandoned := none, turn := none }

/-- PC moves past `n` bytes. -/
def State.advance (s : State) (n : Nat) : State := s.up (·.next n)

/-- The outcome of an instruction: its next state, its trap at the word itself, or its wait. An
instruction that traps or waits has had no effect (R337). -/
def finish (s : State) : Ev State → Host.Outcome State Fault Refusal
  | .ok t => .next t
  | .error (.trap c v) => .next (takeTrap c false v s.th.pc false s)
  | .error (.stall w) => .next (s.up (fun t => { t with stall := some w }))

/-- The offending word, or word 0 of a tile command, zero-extended (R310). -/
def wordTval (i : Instr) : Word := BitVec.ofNat 64 (encode i % 2 ^ 32)

/-- ILLEGAL at the word. -/
def illegal {α : Type} (i : Instr) : Ev α := .error (.trap .illegal (wordTval i))

/-- A wait that issues the instruction again. -/
def again {α : Type} (w : Why) : Ev α := .error (.stall (.retry w))

/-- The thread is privileged when CTXMODE.PRIV of its context is 1 (R314). -/
def State.priv (s : State) : Bool := bitOf (s.ctx s.th.ctx).mode.toNat 0

/-- The thread's sequencer entries. -/
def State.entries (s : State) : List SeqEntry := s.seqs.filter (fun e => e.launch == s.th.launch && e.tid == s.th.tid)

/-- The remote requests that the thread has issued. -/
def State.issued (s : State) : List Request :=
  s.requests.filter (fun r => !r.outside && r.launch == s.th.launch && r.tid == s.th.tid)

/-- The thread's remote requests that await a reply. -/
def State.mine (s : State) : List Request := s.issued.filter (fun r => !r.expired)

/-- Later accesses are held until an acquiring RLD or RAMO has its reply (R155). -/
def acquired (s : State) : Ev Unit := if s.mine.any (·.acq) then again .acquire else .ok ()

/-- The instructions that R162 lists wait until the thread's entries have completed. -/
def drained (s : State) : Ev Unit := if s.entries.isEmpty then .ok () else again .drain

end Sys2Proof.Machine
end

