-- ==== Sys2Proof/Machine/Mmio.lean ====
section
/-!
DEFINITION. The MMIO region (R132): the launch queues' registers (R98 to R102, R299 to R301, R328, R329),
power (R334), the RAS counters (R336), boot, identity and attestation (R330, R332), the feature chain
(R333) and the owner's cancellation (R274). `fn` is the PCI Express function: 0 the PF, n VFn.
-/
namespace Sys2Proof.Machine

/-! ## Queues -/

/-- The registers of queue `q`. -/
def State.queue (s : State) (q : Nat) : Queue := if h : q < 1024 then s.queues[q] else Queue.reset

/-- The state with a queue's registers changed. -/
def State.onQueue (s : State) (q : Nat) (f : Queue → Queue) : State :=
  if h : q < 1024 then { s with queues := s.queues.set q (f s.queues[q]) h } else s

/-- QSTAT.STATE (R102): 0 disabled, 1 running, 2 halted. -/
def Queue.state (q : Queue) : Nat := bits q.qstat.toNat 1 0

/-- QSTAT with a state, code and latch (R102). -/
def mkQstat (st code latch : Nat) : Word := BitVec.ofNat 64 (st + code % 256 * 2 ^ 8 + latch % 2 ^ 32 * 2 ^ 16)

def Queue.code (q : Queue) : Nat := bits q.qstat.toNat 15 8
def Queue.latch (q : Queue) : Nat := bits q.qstat.toNat 47 16

/-- Slots of a ring (R98). -/
def Queue.slots (q : Queue) : Nat := 2 ^ (q.qlog2.toNat % 64) / 128

/-- Slots filled (R100). -/
def Queue.fill (q : Queue) : Nat := (q.qprod.toNat + 2 ^ 32 - q.qcons.toNat % 2 ^ 32) % 2 ^ 32

/-- The function that owns a queue (R328). -/
def Queue.owner (q : Queue) : Nat := bits q.qown.toNat 4 0

/-- QSCHED's fields (R300). -/
def Queue.ctx (q : Queue) : Ctx := q.qsched.setWidth 6
def Queue.tier (q : Queue) : Nat := bits q.qsched.toNat 10 8
def Queue.prio (q : Queue) : Nat := bits q.qsched.toNat 22 16

/-- The queue signals its owner where its interrupt is enabled (R329). -/
def signalQueue (q : Nat) (s : State) : State :=
  if bitOf (s.queue q).qctl.toNat 1 then { s with msix := s.msix ++ [((s.queue q).owner, q % 64)] } else s

/-- A queue halts with a code; `latch` is the first slot of the offending packet (R101, R102). -/
def haltQueue (q code latch : Nat) (s : State) : State :=
  signalQueue q (s.onQueue q (fun x => { x with qstat := mkQstat 2 code latch }))

/-- The walk and the launch of a queue's head given up: the packet there is another, or is retried from the start
(R138, R302, R306). -/
def dropHead (q : Nat) (s : State) : State :=
  { s.onQueue q (fun x => { x with parkedAt := none }) with taken := if s.taken = some q then none else s.taken }

/-- The doorbell (R100): a fill above the slot count halts a running queue with OVERFLOW, and no other; what the command
processor held of its head is given up, and the packets stay. DESIGN CHOICE (assumption 45): a queue that is disabled or
halted only takes the new QPROD. -/
def ringDoorbell (q : Nat) (v : Word) (s : State) : State :=
  let s1 := s.onQueue q (fun x => { x with qprod := BitVec.ofNat 64 (v.toNat % 2 ^ 32), bellAt := s.cycle.toNat })
  let x := s1.queue q
  if x.state == 1 && decide (x.slots < x.fill) then haltQueue q 4 x.latch (dropHead q s1) else s1

/-- A QCTL write (R98, R101, R299, R329, R330). -/
def writeQctl (q : Nat) (v : Word) (s : State) : State :=
  let x := s.queue q
  if bits v.toNat 63 2 != 0 || (bitOf v.toNat 0 && s.boot.recovery) then s
  else if !bitOf v.toNat 0 then
    dropHead q (s.onQueue q (fun x => { x with qctl := v, qstat := mkQstat 0 x.code x.latch }))
  else if x.qbase.toNat % 4096 ≠ 0 || x.qlog2.toNat < 12 || 30 < x.qlog2.toNat then
    s.onQueue q (fun x => { x with qctl := v &&& 2, qstat := mkQstat 0 1 x.latch })
  else s.onQueue q (fun x => { x with qctl := v, qstat := mkQstat 1 0 x.latch })

/-- The context is enabled for a function (R328). -/
def ctxUsable (fn : Nat) (c : Ctx) (s : State) : Bool :=
  fn == 0 || (bits (s.ctx c).own.toNat 4 0 == fn && bitOf (s.ctx c).own.toNat 5)

/-- A tier and priority for the launches of a queue that have not started, and for their threads (R300, R306). -/
def reschedule (q tier prio : Nat) (s : State) : State :=
  let waits := fun (l : Launch) => l.queue == q && !l.started
  { s with
    launches := s.launches.map (fun l => if waits l then { l with tier := tier, queuePrio := prio } else l)
    conts := s.conts.map (fun t =>
      if s.launches.any (fun l => l.num == t.launch && waits l) then { t with tier := tier, queuePrio := prio, prio := prio, requeued := true }
      else t) }

/-- A QSCHED write (R299, R300, R328). -/
def writeQsched (fn q : Nat) (v : Word) (s : State) : State :=
  let x := s.queue q
  if reservedSet v.toNat 0x7F073F || !ctxUsable fn (v.setWidth 6) s ||
      (bitOf x.qctl.toNat 0 && v.setWidth 6 != x.ctx) then s
  else
    let s1 := s.onQueue q (fun x => { x with qsched := v })
    reschedule q (s1.queue q).tier (s1.queue q).prio s1

/-- An owner field (R328): 17 to 31 are reserved. -/
def ownerOk (v : Word) : Bool := decide (bits v.toNat 4 0 ≤ 16)

/-- A write to a register of a queue that the function owns (R299, R327, R328). -/
def writeQueueReg (fn q off : Nat) (v : Word) (s : State) : State :=
  if fn != 0 && (s.queue q).owner != fn then s
  else if off = 0 then s.onQueue q (fun x => { x with qbase := v })
  else if off = 8 then s.onQueue q (fun x => { x with qlog2 := v })
  else if off = 16 then ringDoorbell q v s
  else if off = 24 then dropHead q (s.onQueue q (fun x => { x with qcons := BitVec.ofNat 64 (v.toNat % 2 ^ 32) }))
  else if off = 32 then writeQctl q v s
  else if off = 48 then writeQsched fn q v s
  else if off = 56 then
    (if fn != 0 || bits v.toNat 63 5 != 0 || !ownerOk v then s else s.onQueue q (fun x => { x with qown := v }))
  else s

/-- A register of a queue as a function reads it. -/
def readQueueReg (fn q off : Nat) (s : State) : Word :=
  let x := s.queue q
  if fn != 0 && x.owner != fn then 0
  else if off = 0 then x.qbase else if off = 8 then x.qlog2 else if off = 16 then x.qprod
  else if off = 24 then x.qcons else if off = 32 then x.qctl else if off = 40 then x.qstat
  else if off = 48 then x.qsched else x.qown

/-! ## Tier weights (R301) -/

/-- The weight of tier `t`. -/
def tierWeight (w : Word) (t : Nat) : Nat := bits w.toNat (8 * t + 7) (8 * t)

/-- W, the sum of the weights. -/
def tierSum (w : Word) : Nat := ((List.range 8).map (tierWeight w)).sum

/-- A TIERW write: refused where every weight is 0, or a nonzero one is below W / 64. -/
def writeTierw (v : Word) (s : State) : State :=
  if tierSum v == 0 || (List.range 8).any (fun t => tierWeight v t != 0 && decide (64 * tierWeight v t < tierSum v)) then s
  else { s with tierw := v }

/-! ## Power (R334, R298) -/

/-- A loaded domain (R285). -/
def State.domain (s : State) (n : Nat) : Domain := if h : n < 64 then s.domains[n] else ⟨false, 0, false, 0, 0⟩

/-- The quires of an island. -/
def islandQuires (i : Nat) : List Nat := if i % 64 < 48 then [96 * (i / 64) + 2 * (i % 64), 96 * (i / 64) + 2 * (i % 64) + 1] else []

/-- The island has a control clock step. -/
def hasFstep (i : Nat) : Bool := decide (i % 64 < 48) || decide (58 ≤ i % 64)

/-- A quire holds a continuation, a faulted one among them (R321), a mapped tag or a resident granule. -/
def quireHeld (s : State) (q : Nat) : Bool :=
  s.threads.any (fun t => t.code != .exited && t.quire == q) || s.acc.any (fun a => a.quire == q) || s.residents.any (fun r => r.quire == q)

/-- A PWRCTL write: the fields it may not set refuse it, and STATE 2 in the two cases of R334. -/
def writePwrctl (i : Nat) (v : Word) (s : State) : State :=
  let old := (s.pwrctl i).toNat
  let st := bits v.toNat 1 0
  let fs := bits v.toNat 5 2
  let bad := bits v.toNat 7 6 != 0 || bits v.toNat 63 13 != 0 || st == 3 ||
    (if hasFstep i then fs == 0 || decide (8 < fs) else fs != 0) ||
    (st == 2 && ((islandQuires i).any (quireHeld s) || (decide (48 ≤ i % 64) && !s.boot.recovery)))
  let kept := old % 2 ^ 12
  if bad then s.setPwr i (BitVec.ofNat 64 (kept + 2 ^ 12))
  else
    { s.setPwr i (BitVec.ofNat 64 (st + fs * 4 + bits old 11 8 * 2 ^ 8)) with
      changing := s.changing.filter (· != i) ++ (if hasFstep i && fs != bits old 11 8 then [i] else []) }

/-! ## RAS counters (R336) -/

/-- RAS counter `k`. -/
def State.rasOf (s : State) (k : Nat) : Word := if h : k < 12 then s.ras[k] else 0

/-- RAS counter `k` changed. -/
def State.setRas (s : State) (k : Nat) (w : Word) : State := if h : k < 12 then { s with ras := s.ras.set k w h } else s

/-- A saturating count; counter 10 counts in [63:1]. -/
def countRas (k n : Nat) (s : State) : State :=
  let x := (s.rasOf k).toNat
  if k = 10 then s.setRas k (BitVec.ofNat 64 (min (x / 2 + n) (2 ^ 63 - 1) * 2 + x % 2))
  else s.setRas k (BitVec.ofNat 64 (min (x + n) (2 ^ 64 - 1)))

/-- A PF write clears a counter; counter 10 keeps the sync state. -/
def clearRas (k : Nat) (s : State) : State := if k = 10 then s.setRas k (s.rasOf k &&& 1) else s.setRas k 0

/-! ## Boot and identity registers (R330, R332), the feature chain (R333), COLLCAN (R274) -/

/-- A write to ATTADDR (R332). -/
def writeAttaddr (v : Word) (s : State) : State :=
  if reservedSet v.toNat 0xFFFFFFFFFFC0 then s else { s with boot := { s.boot with attaddr := v } }

/-- A write to ATTST (R332): GO while STATE is 1 is ignored. -/
def writeAttst (v : Word) (s : State) : State :=
  if bits v.toNat 63 3 != 0 || !bitOf v.toNat 0 || bits s.boot.attst.toNat 2 1 == 1 then s
  else { s with boot := { s.boot with attst := 2 } }

/-- A write to COLLCAN: the pair goes to the Referee, and COLLCANST reads pending (R274). -/
def writeCollcan (v : Word) (s : State) : State := { s with collcan := v, collcanst := 3 }

/-- The 8-byte word of the feature chain at an offset of its page (R333). -/
def chainWord (features : List Nat) (off : Nat) : Word :=
  let k := off / 16
  if off % 16 ≠ 0 then 0
  else
    match features[k]? with
    | none => 0
    | some id => BitVec.ofNat 64 (id + 1 * 2 ^ 16 + 1 * 2 ^ 24 + (if k + 1 < features.length then 16 * (k + 1) else 0) * 2 ^ 32)

/-- Feature `id` is in the chain (R333). -/
def State.feature (s : State) (id : Nat) : Bool := s.boot.features.contains id

/-! ## The region -/

/-- The 8-byte word at a physical address of the MMIO region, 8-byte aligned. -/
def mmioRead (fn pa : Nat) (s : State) : Word :=
  let o := pa - 0x020000000000
  if o < 0x10000 then readQueueReg fn (o / 64) (o % 64) s
  else if fn != 0 then 0
  else if o = 0x10000 then s.tierw
  else if 0x20000 ≤ o && o < 0x20200 then (s.ctx (BitVec.ofNat 6 ((o - 0x20000) / 8))).own
  else if 0x30000 ≤ o && o < 0x30800 then s.pwrctl ((o - 0x30000) / 8)
  else if 0x40000 ≤ o && o < 0x40060 then s.rasOf ((o - 0x40000) / 8)
  else if o = 0x50000 then s.boot.bootst
  else if o = 0x50008 then s.boot.defsig
  else if o = 0x50010 then s.boot.attaddr
  else if o = 0x50018 then s.boot.attst
  else if 0x51000 ≤ o && o < 0x51520 then
    BitVec.ofNat 64 (ofBytesLE ((List.range 8).map (fun k => Config.publicKey (o - 0x51000 + k))))
  else if 0x60000 ≤ o && o < 0x61000 then chainWord s.boot.features (o - 0x60000)
  else if o = 0x400000 then 0
  else if o = 0x400008 then s.collcanst
  else Config.mmioWord pa

/-- A write of an 8-byte word to the MMIO region: refused where it sets a reserved bit (R2, R299). -/
def mmioWrite (fn pa : Nat) (v : Word) (s : State) : State :=
  let o := pa - 0x020000000000
  if o < 0x10000 then writeQueueReg fn (o / 64) (o % 64) v s
  else if fn != 0 then s
  else if o = 0x10000 then writeTierw v s
  else if 0x20000 ≤ o && o < 0x20200 then
    (if bits v.toNat 63 6 != 0 || !ownerOk v then s
      else s.setCtx (BitVec.ofNat 6 ((o - 0x20000) / 8)) (fun c => { c with own := v }))
  else if 0x30000 ≤ o && o < 0x30800 then writePwrctl ((o - 0x30000) / 8) v s
  else if 0x40000 ≤ o && o < 0x40060 then clearRas ((o - 0x40000) / 8) s
  else if o = 0x50010 then writeAttaddr v s
  else if o = 0x50018 then writeAttst v s
  else if o = 0x400000 then writeCollcan v s
  else s

/-- `n` bytes of the MMIO region within one 8-byte word (assumption 13). -/
def mmioLoad (pa n : Nat) (s : State) : Nat := (mmioRead 0 (pa / 8 * 8) s).toNat / 2 ^ (8 * (pa % 8)) % 2 ^ (8 * n)

/-- A RAS counter, which is read-only to contexts (R336). -/
def isRas (pa : Nat) : Bool := decide (0x020000040000 ≤ pa) && decide (pa < 0x020000040060)

/-- `n` bytes that a context writes within one 8-byte word: the other bytes are written as they read (assumption 13). -/
def mmioStore (pa n x : Nat) (s : State) : State :=
  let old := (mmioRead 0 (pa / 8 * 8) s).toNat
  let sh := 8 * (pa % 8)
  if isRas pa then s
  else mmioWrite 0 (pa / 8 * 8)
    (BitVec.ofNat 64 (old % 2 ^ sh + x % 2 ^ (8 * n) * 2 ^ sh + old / 2 ^ (sh + 8 * n) * 2 ^ (sh + 8 * n))) s

end Sys2Proof.Machine
end

