-- ==== Sys2Proof/Machine/Topology.lean ====
section
/-!
DEFINITION. The pod's mesh-torus and its routes (R257, R258).
-/
namespace Sys2Proof.Machine

/-! ## Coordinates and ports (R257) -/

/-- The coordinates of a package. -/
def coordA (p : Nat) : Nat := p % 2
def coordB (p : Nat) : Nat := p / 2 % 4
def coordC (p : Nat) : Nat := p / 8 % 16
def coordD (p : Nat) : Nat := p / 128

/-- PKGID of coordinates. -/
def pkgAt (a b c d : Nat) : Nat := 128 * d + 8 * c + 2 * b + a

/-- The package at the other end of a port: C and D close into rings of the pod's extents, A and B are a mesh. -/
def neighbourAt (rings : Nat × Nat) (p port : Nat) : Option Nat :=
  let a := coordA p
  let b := coordB p
  let c := coordC p
  let d := coordD p
  match port with
  | 0 => some (pkgAt a b ((c + rings.1 - 1) % rings.1) d)
  | 1 => some (pkgAt a b ((c + 1) % rings.1) d)
  | 2 => some (pkgAt a b c ((d + rings.2 - 1) % rings.2))
  | 3 => some (pkgAt a b c ((d + 1) % rings.2))
  | 4 => some (pkgAt (1 - a) b c d)
  | 5 => if b = 0 then none else some (pkgAt a (b - 1) c d)
  | 6 => if 3 ≤ b then none else some (pkgAt a (b + 1) c d)
  | 7 => some (pkgAt (1 - a) b c d)
  | _ => none

/-- The port at the other end of a port's link; the two links to the A neighbour join ports of one number
(assumption 57). -/
def farPort : Nat → Nat
  | 0 => 1
  | 1 => 0
  | 2 => 3
  | 3 => 2
  | 5 => 6
  | 6 => 5
  | k => k

/-! ## What the routing state knows (R258) -/

/-- A link that has failed for routing, as the port of a package names it. -/
def linkDown (s : State) (p port : Nat) : Bool :=
  s.deadLinks.contains (p, port) || (p == s.pkgid.toNat && (if h : port < 8 then s.links[port].failed else true))

/-- A package in the pod that has not failed. -/
def packageUp (s : State) (p : Nat) : Bool :=
  decide (coordC p < s.rings.1) && decide (coordD p < s.rings.2) && !s.absent.contains (BitVec.ofNat 12 p) &&
    !s.unreachable.contains (BitVec.ofNat 12 p)

/-- The next hop through a port, where link and package are up. -/
def hopTo (s : State) (p port : Nat) : Option Nat :=
  (neighbourAt s.rings p port).filter (fun n => !linkDown s p port && !linkDown s n (farPort port) && packageUp s n)

/-- The first of some ports whose hop is open. -/
def firstOpen (s : State) (p : Nat) : List Nat → Option (Nat × Nat)
  | [] => none
  | k :: r => match hopTo s p k with | some n => some (k, n) | none => firstOpen s p r

/-! ## Routes (R258) -/

/-- The port of the shorter way round a ring of `n`, ties to +1. -/
def ringPort (n src dst minus plus : Nat) : Nat := if 2 * ((dst + n - src) % n) ≤ n then plus else minus

/-- The ports that lead on from `p` toward `dst`: C first, then D, then A and B. A packet that has moved aside in A at the
destination chassis moves in B first. -/
def wantedPorts (s : State) (p dst : Nat) (aside : Bool) : List Nat :=
  if coordC p ≠ coordC dst then [ringPort s.rings.1 (coordC p) (coordC dst) 0 1]
  else if coordD p ≠ coordD dst then [ringPort s.rings.2 (coordD p) (coordD dst) 2 3]
  else if coordA p ≠ coordA dst && !(aside && coordB p != coordB dst) then [4, 7]
  else if coordB p < coordB dst then [6]
  else [5]

/-- The detour in B, to b + 1, or to b - 1 at the edge. -/
def detourPort (p : Nat) : Nat := if coordB p = 3 then 5 else 6

/-- A packet for `dst` that has come to `p` through a port's link has moved aside in A: the move took it off the
destination's place in A. -/
def movedAside (p dst port : Nat) : Bool := (port == 4 || port == 7) && coordA p != coordA dst

/-- The next hop from `p` toward `dst`: port and package. -/
def nextHop (s : State) (p dst : Nat) (aside : Bool) : Option (Nat × Nat) :=
  match firstOpen s p (wantedPorts s p dst aside), firstOpen s p [detourPort p], firstOpen s p [4, 7] with
  | some x, _, _ => some x
  | none, some x, _ => some x
  | none, none, x => x

/-- A packet gets from `p` to `dst` in at most that many hops. -/
def arrives (s : State) (dst : Nat) : Nat → Nat → Bool → Bool
  | 0, p, _ => p == dst
  | f + 1, p, aside => p == dst || (match nextHop s p dst aside with | some (k, n) => arrives s dst f n (movedAside n dst k) | none => false)

/-- More hops than any route has: a packet that makes so many goes round without end. -/
def hopLimit : Nat := 64

/-- The port through which a packet to another package goes on from this one; none where no route and no detour exists. -/
def portFrom (s : State) (dst : Nat) (aside : Bool) : Option Nat :=
  if packageUp s dst && arrives s dst hopLimit s.pkgid.toNat aside then (nextHop s s.pkgid.toNat dst aside).map (·.1) else none

/-- The port through which this package's packets to another one leave. -/
def routePort (s : State) (dst : Nat) : Option Nat := portFrom s dst false

/-- A port of this package leads nowhere: its link has failed for routing, or the next package is gone. -/
def portDown (s : State) (port : Nat) : Bool := (hopTo s s.pkgid.toNat port).isNone

/-- A package that this one cannot reach (R249, R258). -/
def noRoute (s : State) (pkg : BitVec 12) : Bool := pkg != s.pkgid && (routePort s pkg.toNat).isNone

end Sys2Proof.Machine
end

