-- ==== Sys2Proof/Machine/Operands.lean ====
section
/-!
DEFINITION. Operands: the general registers, the stream registers and their queues (R33, R39 to R47, R161,
R247 to R253), and where a result goes.
-/
namespace Sys2Proof.Machine

/-! ## Ranks and messages (R248, R249, R260) -/

/-- The rank-table entry of a rank, from memory (R260). -/
def rankFresh (s : State) (c : Ctx) (rank : Nat) : Word :=
  BitVec.ofNat 64 (s.loadNat ((s.ctx c).ranktab.toNat + 8 * rank) 8)

/-- The entry by which an interface sends what waits at it: a cached one, else the one in memory (R260). -/
def rankUsed (s : State) (c : Ctx) (rank : Nat) : Word :=
  (((s.ctx c).ranks.find? (fun e => e.1 == rank)).map (·.2)).getD (rankFresh s c rank)

/-- The entry of a rank would have to be read from memory, and is in uncorrectable error there (R326). -/
def rankLost (s : State) (c : Ctx) (rank : Nat) : Bool :=
  !(s.ctx c).ranks.any (fun e => e.1 == rank) && eccAt s ((s.ctx c).ranktab.toNat + 8 * rank) 8

/-- ECC_UNCORRECTED at an entry of the rank table, by its physical address (R326, assumption 30). -/
def rankEcc (s : State) (c : Ctx) (rank : Nat) : Halt :=
  .trap .eccUncorrected (BitVec.ofNat 64 ((s.ctx c).ranktab.toNat + 8 * rank))

/-- The rank-table entry an interface uses: a cached one that differs from memory may be used or not
(R260, assumption 4). -/
def rankRead (s : State) (c : Ctx) (rank : Nat) : Word × State :=
  let fresh := rankFresh s c rank
  match (s.ctx c).ranks.find? (fun e => e.1 == rank) with
  | none => (fresh, s.setCtx c (fun x => { x with ranks := (rank, fresh) :: x.ranks }))
  | some (_, w) =>
    if w = fresh then (w, s)
    else if Config.freeBit s.free then (w, { s with free := s.free + 1 })
    else (fresh, { s with free := s.free + 1 })

/-- The fields of a rank-table entry (R260). -/
def rankPkg (w : Word) : BitVec 12 := w.setWidth 12
def rankQuire (w : Word) : Nat := bits w.toNat 20 12
def rankCore (w : Word) : Nat := bits w.toNat 23 21
def rankState (w : Word) : Nat := bits w.toNat 25 24
def rankBad (w : Word) : Bool := rankState w == 0 || rankState w == 3 || bits w.toNat 63 26 != 0

/-- The TVAL of REMOTE_FAULT (R254). -/
def remoteTval (addr pkg reason : Nat) : Word :=
  BitVec.ofNat 64 (addr % 2 ^ 48 + pkg % 2 ^ 12 * 2 ^ 48 + reason % 16 * 2 ^ 60)

/-- REASON 11: a bad destination word, with the issuing package's PKGID (R254). -/
def badDest (s : State) : Halt := .trap .remoteFault (remoteTval 0 s.pkgid.toNat 11)

/-- The faults of a message toward a destination word (R248, R249): `tx` allows CHAN. -/
def sendFault (s : State) (c : Ctx) (w : Word) (tx : Bool) : Option Halt :=
  let rank := bits w.toNat 31 0
  if bits w.toNat 63 40 != 0 || (!tx && bits w.toNat 39 32 != 0) || decide ((s.ctx c).rankcnt.toNat ≤ rank) then
    some (badDest s)
  else if rankLost s c rank then some (rankEcc s c rank)
  else
    let e := (rankRead s c rank).1
    if rankBad e then some (badDest s)
    else if noRoute s (rankPkg e) then some (.trap .remoteFault (remoteTval 0 (rankPkg e).toNat 8))
    else none

/-- The messages in a core's injection queue (R247). -/
def injected (s : State) (quire core : Nat) : Nat := (s.inject.filter (fun p => p.quire == quire && p.core == core)).length

/-- The injection queue of the focus thread's core has no room (R247). -/
def injectFull (s : State) : Bool := decide (32 ≤ injected s s.th.quire s.th.core)

/-- One element pushed toward a rank and channel (R249). -/
def pushMessage (rank : Nat) (chan : BitVec 8) (payload : Word) (s : State) : State :=
  { (rankRead s s.th.ctx rank).2 with
    inject := s.inject ++ [⟨s.th.quire, s.th.core, s.th.ctx, rank, chan, payload⟩] }

/-! ## Read bindings take what is held for them (R185, R247, R417) -/

/-- Elements held in a core's receive queue for a pair (R247). -/
def heldFor (s : State) (t : Thread) (chan : Nat) : List Word :=
  (s.arrivals.filter (fun a => a.quire == t.quire && a.core == t.core && a.ctx == t.ctx && a.chan.toNat == chan)).map (·.payload)

/-- The receive queue without its first `n` elements for a pair. -/
def dropHeld (t : Thread) (chan : Nat) : Nat → List Arrival → List Arrival
  | 0, l => l
  | _, [] => []
  | n + 1, a :: r =>
    if a.quire == t.quire && a.core == t.core && a.ctx == t.ctx && a.chan.toNat == chan then dropHeld t chan n r
    else a :: dropHeld t chan (n + 1) r

/-- Move what is held for the focus thread's stream register `n` into its buffer, up to 16 elements. -/
def refill (n : Nat) (s : State) : State :=
  match s.th.stream n with
  | none => s
  | some b =>
    let room := 16 - b.buf.length
    match b.kind with
    | .rx =>
      let take := (heldFor s s.th b.word.toNat).take room
      { s with arrivals := dropHeld s.th b.word.toNat take.length s.arrivals
               th := s.th.setStream n (some { b with buf := b.buf ++ take }) }
    | .eng =>
      match s.jobOf b.word.toNat with
      | none => s
      | some j =>
        match j.memberOf s.th.launch s.th.tid with
        | none => s
        | some i =>
          let take := ((j.members[i]?.map (·.fifo)).getD []).take room
          { s with
            jobs := s.jobs.map (fun k => if k.id == j.id then
              { k with members := k.members.mapIdx (fun x m => if x = i then { m with fifo := m.fifo.drop take.length } else m) } else k)
            th := s.th.setStream n (some { b with buf := b.buf ++ take }) }
    | _ => s

/-! ## Operand checks and fetch -/

/-- A general register at or beyond the thread's count (R33). -/
def beyond (t : Thread) (r : RegField) : Bool := isGeneral r && r != 0 && decide (8 * t.gran ≤ r.toNat)

/-- A stream register that is unbound or of the wrong direction (R46). -/
def streamBad (t : Thread) (write : Bool) (r : RegField) : Bool :=
  !isGeneral r && (match t.stream (qNum r) with | none => true | some b => (b.kind == .tx) != write)

/-- The general register that a VMOVG writes (R443). -/
def vecGdest : Instr → Option RegField
  | .vmovg _ k b _ _ h => if k == 2 || k == 3 || k == 5 then some (scalarReg h b) else none
  | _ => none

/-- A sequencer entry will write a general register (R162). -/
def SeqEntry.writesReg (e : SeqEntry) (r : RegField) : Bool :=
  e.gdest.any (fun g => g.1 == r) || e.replay.any (fun p => p.body.any (fun i => vecGdest i == some r)) ||
    e.work.any (fun w => w.words.any (fun x => vecGdest x.1 == some r))

/-- A general register that awaits a reply or a VMOVG result (R162, R252). -/
def awaits (s : State) (r : RegField) : Bool :=
  isGeneral r && r != 0 &&
    (s.th.pend.getLsbD r.toNat || s.seqs.any (fun e => e.launch == s.th.launch && e.tid == s.th.tid && e.writesReg r))

/-- A general register that awaits a reply (R252). A VMOVG that writes a register which an earlier one writes does not
wait here: the sequencer keeps their order (R164). -/
def awaitsReply (s : State) (r : RegField) : Bool := isGeneral r && r != 0 && s.th.pend.getLsbD r.toNat

/-- A general register in uncorrectable error (R326). -/
def regEcc (s : State) (r : RegField) : Bool := isGeneral r && s.ecc.contains (.general s.th.launch s.th.tid r)

/-- Elements a stream register holds. -/
def buffered (t : Thread) (r : RegField) : Nat := ((t.stream (qNum r)).map (·.buf.length)).getD 0

/-- A stream register that has fewer elements than the sources pop (R46). -/
def starved (t : Thread) (srcs : List RegField) (r : RegField) : Bool :=
  !isGeneral r && decide (buffered t r < srcs.count r)

/-- The fault or wait of a push to a stream register (R46, R249). -/
def pushHalt (s : State) (d : RegField) : Option Halt :=
  if isGeneral d then none
  else
    match s.th.stream (qNum d) with
    | none => none
    | some b =>
      match sendFault s s.th.ctx b.word true with
      | some h => some h
      | none => if injectFull s then some (.stall (.retry .inject)) else none

/-- What stops an instruction before it reads its operands: ILLEGAL for the word or a register beyond
the count, STREAM_UNBOUND, an uncorrectable register, then a wait for a register, an element or room
(R33, R46, R252, R326, R337). -/
def operandHalt (i : Instr) (srcs : List RegField) (dst : Option RegField) (s : State) : Option Halt :=
  if !wellFormedInstr i || srcs.any (beyond s.th) || dst.any (beyond s.th) then some (.trap .illegal (wordTval i))
  else
    match srcs.find? (streamBad s.th false) with
    | some r => some (.trap .streamUnbound (zext64 r))
    | none =>
      match dst.filter (streamBad s.th true) with
      | some r => some (.trap .streamUnbound (zext64 r))
      | none =>
        match srcs.find? (regEcc s) with
        | some r => some (.trap .eccUncorrected (zext64 r))
        | none =>
          match (srcs ++ dst.toList).find? (awaits s) with
          | some r => some (.stall (.retry (.register r)))
          | none =>
            match srcs.find? (starved s.th srcs) with
            | some r => some (.stall (.retry (.pop r)))
            | none =>
              if (srcs ++ dst.toList).any (!isGeneral ·) && s.mine.any (·.acq) then some (.stall (.retry .acquire))
              else dst.bind (pushHalt s)

/-- The value a source field gives: a general register, or the oldest element of a stream register as
untagged data (R46), which is popped. -/
def popOne (r : RegField) (s : State) : Reg × State :=
  if isGeneral r then (s.th.reg r.toNat, s)
  else
    match s.th.stream (qNum r) with
    | some b => (Reg.ofData (b.buf.headD 0), refill (qNum r) (s.up (fun t => t.setStream (qNum r) (some { b with buf := b.buf.tail }))))
    | none => (Reg.null, s)

/-- The source fields in order (R46). -/
def popAll : List RegField → State → List Reg × State
  | [], s => ([], s)
  | r :: rs, s => ((popOne r s).1 :: (popAll rs (popOne r s).2).1, (popAll rs (popOne r s).2).2)

/-- The operands of an instruction and the state after its pops, or what stops it. -/
def operands (i : Instr) (srcs : List RegField) (dst : Option RegField) (s : State) : Ev (List Reg × State) :=
  match operandHalt i srcs dst s with
  | some h => .error h
  | none => .ok (popAll srcs s)

/-- Register `n` written, with its DIRTY bit (R8, R40: a write to g0 is discarded). -/
def Thread.setReg (t : Thread) (n : Nat) (r : Reg) : Thread :=
  if n = 0 then t
  else if h : n < 56 then { t with g := t.g.set n r h, dirty := t.dirty ||| BitVec.ofNat 64 (2 ^ n) }
  else t

/-- A register that is written holds no error any more (R326). -/
def State.healed (s : State) (r : RegField) : State :=
  { s with ecc := s.ecc.filter (· != .general s.th.launch s.th.tid r) }

/-- A result goes to its destination field: a general register, or one element to a stream (R46). -/
def writeDest (d : RegField) (r : Reg) (s : State) : State :=
  if isGeneral d then (s.up (fun t => t.setReg d.toNat r)).healed d
  else
    match s.th.stream (qNum d) with
    | some b => pushMessage (bits b.word.toNat 31 0) (BitVec.ofNat 8 (b.word.toNat / 2 ^ 32)) r.data s
    | none => s

/-- A data result (R39). -/
def writeData (d : RegField) (w : Word) (s : State) : State := writeDest d (Reg.ofData w) s

/-! ## Shapes of instructions -/

/-- The `n`-th operand. -/
def nth (xs : List Reg) (n : Nat) : Reg := xs.getD n Reg.null

/-- An instruction that computes one data value from its sources and moves on (R337). -/
def compute (i : Instr) (srcs : List RegField) (d : RegField) (f : List Reg → Word) (s : State) :
    Host.Outcome State Fault Refusal :=
  finish s (do
    let (xs, s1) ← operands i srcs (some d) s
    return (writeData d (f xs) s1).advance 4)

/-- One source. -/
def unary (i : Instr) (d a : RegField) (f : Word → Word) (s : State) : Host.Outcome State Fault Refusal :=
  compute i [a] d (fun xs => f (nth xs 0).data) s

/-- Two sources. -/
def binary (i : Instr) (d a b : RegField) (f : Word → Word → Word) (s : State) : Host.Outcome State Fault Refusal :=
  compute i [a, b] d (fun xs => f (nth xs 0).data (nth xs 1).data) s

/-- FSTAT with flags ORed in (R55). -/
def State.orFlags (s : State) (f : Word) : State := s.up (fun t => { t with fstat := t.fstat ||| f })

end Sys2Proof.Machine
end

