-- ==== Sys2Proof/Machine/Access.lean ====
section
/-!
DEFINITION. A thread's accesses to memory (R44, R126 to R138, R144, R146, R155, R162, R326): what they wait
for, their translation, and the loads and stores themselves.
-/
namespace Sys2Proof.Machine

/-! ## Waits -/

/-- A request that has been performed at its target (R155). -/
def Request.performed (r : Request) : Bool := r.stage != .sent

/-- A request whose acknowledgement is a wait of FENCE and of releases (R148, R155). -/
def Request.acknowledges (r : Request) : Bool :=
  match r.kind with
  | .rld => false
  | _ => true

/-- Two ranges meet. -/
def rangesMeet (a n b m : Nat) : Bool := decide (a < b + m) && decide (b < a + n)

/-- The physical ranges of `n` bytes at a local virtual address, as far as they translate. -/
def physSpans (s : State) (c : Ctx) (va n : Nat) : List (Nat × Nat) :=
  (pagesOf va n).filterMap (fun p =>
    let lo := max va p
    (physOf s c lo .load).map (fun pa => (pa, min (va + n) (p + 4096) - lo)))

/-- `n` bytes at `a` and `m` at `b`, both local addresses of a context, have a byte in common: at one virtual address, or
at two that reach it (R146). -/
def shareBytes (s : State) (c : Ctx) (a n b m : Nat) : Bool :=
  rangesMeet a n b m || (physSpans s c a n).any (fun x => (physSpans s c b m).any (fun y => rangesMeet x.1 x.2 y.1 y.2))

/-- Element `j` of a scheduled send is not read yet: its phase cycle has not passed (R292). -/
def Sending.unread (now : Nat) (x : Sending) (j : Nat) : Bool :=
  !x.window.got.contains j && decide (now ≤ x.start + x.window.offset + j)

/-- A thread's scheduled sends have elements that are not read yet. -/
def unreadSends (s : State) (launch tid : Nat) : Bool :=
  s.sends.any (fun x => x.launch == launch && x.tid == tid && (List.range x.window.len).any (x.unread s.cycle.toNat))

/-- What follows waits until the thread's scheduled sends have been read (R292). -/
def sendsRead (s : State) : Ev Unit := if unreadSends s s.th.launch s.th.tid then again .sendBytes else .ok ()

/-- A release waits until every earlier access of the thread is performed (R146). -/
def performedAll (s : State) : Ev Unit := if s.issued.all (·.performed) then sendsRead s else again .acks

/-- An earlier remote operation of the thread reaches the bytes through a local address, and is not performed. -/
def holdsBytes (s : State) (va n : Nat) (r : Request) : Bool :=
  !r.performed && !r.global && shareBytes s s.th.ctx r.addr r.size va n

/-- Accesses of one thread to a common byte through local addresses keep their order (R146, case 1). -/
def remoteFree (va n : Nat) (s : State) : Ev Unit :=
  if s.issued.any (holdsBytes s va n) then again (.bytes va (va + n)) else .ok ()

/-- An incomplete VLD or VST of the thread touches the bytes (R162). -/
def entryTouches (s : State) (va n : Nat) : Bool := s.entries.any (fun e => e.bytes.any (fun (lo, k) => shareBytes s s.th.ctx lo k va n))

/-- A plain access waits for an incomplete VLD or VST that touches its bytes (R162). -/
def bytesFree (va n : Nat) (s : State) : Ev Unit := if entryTouches s va n then again (.bytes va (va + n)) else .ok ()

/-- An element of a scheduled send of a thread that touches the bytes is not read yet. -/
def sendPending (s : State) (launch tid va n : Nat) : Bool :=
  s.sends.any (fun x => x.launch == launch && x.tid == tid && (List.range x.window.len).any (fun j =>
    x.unread s.cycle.toNat j && (rangesMeet (x.window.va + 8 * j) 8 va n ||
      (physSpans s x.ctx va n).any (fun y => rangesMeet (x.window.pas.getD j 0) 8 y.1 y.2))))

/-- A later access to the bytes of a scheduled send waits until they have been read (R292). -/
def sendRead (va n : Nat) (s : State) : Ev Unit :=
  if sendPending s s.th.launch s.th.tid va n then again .sendBytes else .ok ()

/-- What an access of `n` bytes at `va` waits for: an ordered one for the sequencer (R162), a release for
the earlier accesses (R146). -/
def accessWaits (ordered release : Bool) (va n : Nat) (s : State) : Ev Unit := do
  acquired s
  if ordered then drained s else bytesFree va n s
  remoteFree va n s
  sendRead va n s
  if release then performedAll s else pure ()

/-! ## Translation -/

/-- A thread's access waits while every walk of its die is in use (R136). -/
def walkFree (va : Nat) (s : State) : Ev Unit :=
  if missWaits s s.th.quire s.th.ctx va false s.th.turn then again (.walkSlot (s.th.turn.getD s.cycle.toNat)) else .ok ()

/-- What a translation gives a thread: PAGE_FAULT, a park in the slot, or an error in a table (R130, R138, R326). -/
def xlated (va : Nat) (acc : Access) (s : State) (r : Walk × State) : Ev (Nat × State) :=
  match r.1 with
  | .ok pa _ _ _ _ => .ok (pa, r.2)
  | .fault tval => .error (.trap .pageFault tval)
  | .park => again (.walk s.th.ctx va acc.writes s.cycle.toNat)
  | .bad => .error (.trap .eccUncorrected (BitVec.ofNat 64 va))

/-- The physical address of a thread's access. -/
def xlate (va : Nat) (acc : Access) (s : State) : Ev (Nat × State) := do
  walkFree va s
  xlated va acc s (translate s s.th.quire s.th.ctx va acc)

/-- The physical address of one piece of a thread's access that touches several: each page is translated once
(R137). -/
def xlatePiece (va : Nat) (acc : Access) (s : State) : Ev (Nat × State) := do
  walkFree va s
  xlated va acc s (pageXlate s s.th.quire s.th.ctx va acc)

/-- An address that is no multiple of the access size (R44). -/
def aligned (va n : Nat) : Ev Unit := if va % n ≠ 0 then .error (.trap .misalign (BitVec.ofNat 64 va)) else .ok ()

/-! ## Loads and stores of 1 to 8 bytes -/

/-- A load. -/
def loadAt (va n : Nat) (s : State) : Ev (Nat × State) := do
  let (pa, s1) ← xlate va .load s
  if inMmio pa then return (mmioLoad pa n s1, s1)
  else if eccAt s1 pa n then .error (.trap .eccUncorrected (BitVec.ofNat 64 va))
  else return (s1.loadNat pa n, s1.drawn pa n)

/-- A store of the low `n` bytes of `x`. -/
def storeAt (va n x : Nat) (s : State) : Ev State := do
  let (pa, s1) ← xlate va .store s
  if inMmio pa then return mmioStore pa n x s1
  else if eccPartial s1 pa n then .error (.trap .eccUncorrected (BitVec.ofNat 64 va))
  else return s1.storeNat s.th.ctx pa n x

/-- `n` bytes from `va` translated, with the fault of the first byte that has one; each page is translated once (R137). -/
def placesFromVa (va : Nat) : Nat → State → Ev (List Nat × State)
  | 0, s => .ok ([], s)
  | n + 1, s => do
    let (pa, s1) ← xlatePiece va .load s
    let (r, s2) ← placesFromVa (va + 1) n s1
    return (pa :: r, s2)

/-- The first of some places in memory that is in uncorrectable error, from `va` on (R326). -/
def placesClean (s : State) : Nat → List Nat → Ev Unit
  | _, [] => .ok ()
  | va, pa :: r =>
    if !inMmio pa && eccAt s pa 1 then .error (.trap .eccUncorrected (BitVec.ofNat 64 va)) else placesClean s (va + 1) r

/-- `n` bytes of one access: its translations come before its errors (R44). -/
def loadBytesAt (va n : Nat) (s : State) : Ev (List Byte × State) := do
  let (ps, s1) ← placesFromVa va n s
  placesClean s1 va ps
  return (ps.map (fun pa => BitVec.ofNat 8 (if inMmio pa then mmioLoad pa 1 s1 else s1.loadNat pa 1)), s1.chunksDone.drawnEach ps 1)

/-- A granule and its tag (R391). MMIO has no tags. -/
def loadCapAt (va : Nat) (s : State) : Ev (Reg × State) := do
  let (pa, s1) ← xlate va .load s
  if inMmio pa then
    return (⟨BitVec.ofNat 128 (mmioLoad pa 8 s1 + mmioLoad (pa + 8) 8 s1 * 2 ^ 64), false⟩, s1)
  else if eccAt s1 pa 16 then .error (.trap .eccUncorrected (BitVec.ofNat 64 va))
  else return (s1.loadCap pa, s1.drawn pa 16)

/-- A granule and its tag stored (R428). -/
def storeCapAt (va : Nat) (r : Reg) (s : State) : Ev State := do
  let (pa, s1) ← xlate va .store s
  if inMmio pa then
    return mmioStore (pa + 8) 8 (r.val.toNat / 2 ^ 64) (mmioStore pa 8 (r.val.toNat % 2 ^ 64) s1)
  else return s1.storeCap s.th.ctx pa r

/-! ## Read-modify-write (R341) -/

/-- The level of a leaf of a page size; 0 where translation is off (R130). -/
def leafLevel (s : State) (c : Ctx) (size : Nat) : Nat :=
  if !(s.ctx c).enable then 0 else if size ≤ 16 then 1 else if size = 21 then 2 else 3

/-- The physical address of an AMO or CAS: the host window and MMIO are PAGE_FAULT, reason 3 (R341). -/
def xlateAtomic (va : Nat) (s : State) : Ev (Nat × State) := do
  walkFree va s
  match (translate s s.th.quire s.th.ctx va .store).1 with
  | .ok pa _ size _ _ =>
    if inHost pa || inMmio pa then .error (.trap .pageFault (pageTval va 3 (leafLevel s s.th.ctx size)))
    else .ok (pa, (translate s s.th.quire s.th.ctx va .store).2)
  | .fault tval => .error (.trap .pageFault tval)
  | .park => again (.walk s.th.ctx va true s.cycle.toNat)
  | .bad => .error (.trap .eccUncorrected (BitVec.ofNat 64 va))

/-- The result of an AMO or RAMO operation on `n` bytes (R341). -/
def amoResult (op n old v : Nat) : Nat :=
  let w := 8 * n
  let so := toSigned w old
  let sv := toSigned w v
  match op with
  | 0 => (old + v) % 2 ^ w
  | 1 => Nat.land old (v % 2 ^ w)
  | 2 => Nat.lor old (v % 2 ^ w)
  | 3 => Nat.xor old (v % 2 ^ w)
  | 4 => if so ≤ sv then old else v % 2 ^ w
  | 5 => if so ≤ sv then v % 2 ^ w else old
  | 6 => min old (v % 2 ^ w)
  | 7 => max old (v % 2 ^ w)
  | 8 => v % 2 ^ w
  | _ => (fpAdd 3 0 old (v % 2 ^ w)).1

end Sys2Proof.Machine
end

