-- ==== Sys2Proof/Machine/Waits.lean ====
section
/-!
DEFINITION. Suspension points (R12 to R14), the conditions they wait for, job statuses as threads see them
(R183, R184, R387, R388), and completion counters (R52, R57).
-/
namespace Sys2Proof.Machine

/-! ## Counters (R52) -/

/-- The key of counter `k` of a quire. -/
def counterKey (quire k : Nat) : Nat := 256 * quire + k

/-- Counter `k` of a quire. -/
def State.counter (s : State) (quire k : Nat) : Word := sparseGet 0 s.counters (counterKey quire k)

/-- The state with a counter set. -/
def State.setCounter (s : State) (quire k : Nat) (v : Word) : State :=
  { s with counters := sparseSet 0 s.counters (counterKey quire k) v }

/-- CNTWIN's window of a context: WBASE and the count (R56). -/
def windowBase (s : State) (c : Ctx) : Nat := bits (s.ctx c).cntwin.toNat 7 0
def windowCount (s : State) (c : Ctx) : Nat := bits (s.ctx c).cntwin.toNat 16 8

/-- The counter that cn`k` names in a context, none at or beyond the window (R52). -/
def counterOf (s : State) (c : Ctx) (k : Nat) : Option Nat :=
  if k < windowCount s c then some (windowBase s c + k) else none

/-! ## Jobs as threads see them -/

/-- The status word that JPOLL returns: PENDING until the job is terminal (R184). -/
def Job.statusWord (j : Job) : Nat := if j.stage = .ended then j.status else 0x8000

/-- The status word of an id in a context: as DONE where it names no job of the context (R387). -/
def jobStatus (s : State) (c : Ctx) (id : Nat) : Nat :=
  if 2 ^ 27 ≤ id then 0
  else
    match s.jobOf id with
    | none => 0
    | some j => if j.ctx != c then 0 else j.statusWord

/-- The completion was delivered to a thread (R30, R435). -/
def Job.deliveredTo (j : Job) (launch tid : Nat) : Bool :=
  j.members.all (fun m => !(m.launch == launch && m.tid == tid) || m.delivered)

/-- Whether a wait on a job by a thread is over: the job is terminal, and a ganged job's message has
reached every member of the gang, or the former member that waits (R30, R388, R435). -/
def jobOver (s : State) (t : Thread) (id : Nat) : Bool :=
  if 2 ^ 27 ≤ id then true
  else
    match s.jobOf id with
    | none => true
    | some j =>
      j.ctx != t.ctx || (j.stage == .ended &&
        (if j.members.length ≤ 1 then true
         else if t.ganged then j.members.all (·.delivered) else j.deliveredTo t.launch t.tid))

/-! ## Wait conditions (R14) -/

/-- A stream register of a thread holds an arrived element, or one is held for it. -/
def hasElement (s : State) (t : Thread) (n : Nat) : Bool :=
  match t.stream n with
  | none => false
  | some b =>
    !b.buf.isEmpty ||
      (match b.kind with
       | .rx => !(heldFor s t b.word.toNat).isEmpty
       | .eng => s.jobs.any (fun j => j.id == b.word.toNat && j.members.any (fun m => m.launch == t.launch && m.tid == t.tid && !m.fifo.isEmpty))
       | _ => false)

/-- The barrier generation in which a thread arrived has released: its arrival is not one of the current generation
(R23). -/
def barrierReleased (s : State) (t : Thread) : Bool :=
  match s.huddle t.launch t.huddle with
  | none => true
  | some h => !h.arrived.contains t.tid

/-- The gang a thread waits to enter has formed (R26). -/
def gangFormed (s : State) (t : Thread) : Bool :=
  t.ganged && !s.gangWaits.any (fun w => w.launch == t.launch && w.tid == t.tid)

/-- (TIME − operand) mod 2^53 < 2^52 (R14). -/
def timeReached (now operand : Nat) : Bool :=
  decide ((now % 2 ^ 53 + 2 ^ 53 - operand % 2 ^ 53) % 2 ^ 53 < 2 ^ 52)

/-- The condition of a wait descriptor for a thread (R14). -/
def waitHolds (s : State) (t : Thread) (w : Word) : Bool :=
  match waitKind w with
  | 0 => !t.mbox.isEmpty
  | 1 =>
    match counterOf s t.ctx (waitSel w) with
    | some k => decide (waitArg w ≤ (s.counter t.quire k).toNat)
    | none => false
  | 2 => jobOver s t (waitArg w % 2 ^ 32)
  | 3 => hasElement s t (waitSel w)
  | 4 => timeReached s.now (waitArg w)
  | 5 => t.replies == 0
  | 6 => barrierReleased s t
  | _ => gangFormed s t

/-- A suspension point (R12): it waits for the sequencer to drain, completes where its condition holds,
and else holds its slot until it is written back. A return from a wait on a counter or a job is an access, which an earlier
acquire orders (R146, R148). In a gang it completes with every member's (R28). -/
def suspendPoint (w : Word) (s : State) : Ev State := do
  drained s
  if waitKind w = 1 ∨ waitKind w = 2 then acquired s else pure ()
  if waitHolds s s.th w && !s.th.ganged then return s.advance 4
  else return s.up (fun t => { t with stall := some (.suspend w) })

end Sys2Proof.Machine
end

