-- ==== Sys2Proof/Machine/Mail.lean ====
section
/-!
DEFINITION. Job messages (R152, R213): their entries, how they reach mailboxes, the completion of a wait, and
what the delivery of a ganged job's completion does to the gang (R30).
-/
namespace Sys2Proof.Machine

/-! ## Entries (R213) -/

/-- A mailbox entry for a message of a job with a status word. -/
def mailEntry (id kind status : Nat) : Word :=
  BitVec.ofNat 64 (id % 2 ^ 32 + kind * 2 ^ 32 +
    (if kind = 3 ∨ kind = 4 then
      bits status 7 0 * 2 ^ 40 + (if kind = 4 then bits status 9 8 * 2 ^ 48 else 0) +
        (if bits status 7 0 = 1 ∨ bits status 7 0 = 2 then bits status 23 16 * 2 ^ 56 else 0)
     else 0))

/-- The kind of an entry. -/
def entryKind (e : Word) : Nat := bits e.toNat 39 32

/-- An entry that tells of a completion. -/
def isCompletion (e : Word) : Bool := entryKind e == 3 || entryKind e == 4

/-- `f` applied to a job. -/
def State.onJob (s : State) (id : Nat) (f : Job → Job) : State :=
  { s with jobs := s.jobs.map (fun j => if j.id == id then f j else j) }

/-- `f` applied to one member of a job. -/
def Job.onMember (j : Job) (launch tid : Nat) (f : JobMember → JobMember) : Job :=
  { j with members := j.members.map (fun m => if m.launch == launch && m.tid == tid then f m else m) }

/-! ## Completing a wait -/

/-- The thread after the suspension point at which it waited (R13, R23). -/
def Thread.afterWait (t : Thread) (w : Word) : Thread :=
  { t.next 4 with arrived := if waitKind w == 6 then false else t.arrived }

/-- The record of a saved thread written again; a fault sets SAVEFAULT (R320). -/
def saveRecord (launch tid : Nat) (s : State) : State :=
  match s.conts.find? (·.is launch tid) with
  | none => s
  | some t => match storeRecord t s with
    | some s1 => s1
    | none => s.setStat t.ctx 17

/-- A saved thread becomes ready, its suspension point completed or not (R13). The wait of kind 7 stays, since the
slot stays reserved until the thread is picked up (R378). -/
def makeReady (complete : Bool) (now : Nat) (t : Thread) : Thread :=
  let u := if complete then t.afterWait t.wait else t
  { u with code := .ready, wait := if waitKind t.wait == 7 then t.wait else 0, readyAt := now }

/-! ## Gangs that break (R28, R29) -/

/-- The gang of a thread. -/
def State.gangOf (s : State) (launch tid : Nat) : Option Gang :=
  s.gangs.find? (fun g => g.launch == launch && g.members.contains tid)

/-- A member that is no longer in a gang (R28). -/
def Thread.ungang (t : Thread) : Thread := { t with ganged := false, gsize := 0, gpos := 0 }

/-- The leader of a gang. -/
def State.leaderOf (s : State) (g : Gang) : Option Thread := g.members.head?.bind (fun t => s.find g.launch t)

/-- The gang is disbanded: every member fetches with the leader's capability (R26, R28). -/
def disband (g : Gang) (s : State) : State :=
  let cap := ((s.leaderOf g).map (·.fetchCap)).getD Reg.null
  let s1 := g.members.foldl (fun s t => s.onThread g.launch t (fun x => { x.ungang with fetchCap := cap })) s
  { s1 with gangs := s1.gangs.filter (·.num != g.num) }

/-- The TVAL of GANG_BROKEN: the core number of the faulting member (R29, R310). -/
def brokenTval (core : Nat) : Word := BitVec.ofNat 64 core

/-- The thread's instruction has not completed: it waits, in its slot or saved. -/
def Thread.inProgress (t : Thread) : Bool := t.stall.isSome || t.abandoned.isSome || t.code == .suspended

/-- A member that does not fault takes GANG_BROKEN: now, or once its instruction, which goes on at `goes`, has
completed (R29). -/
def Thread.broken (core : Nat) (goes : Word) (t : Thread) : Thread :=
  if t.live then
    { t with pendTraps := t.pendTraps ++
        [⟨.gangBroken, false, brokenTval core, if t.inProgress then some (t.pc, goes) else none, false⟩] }
  else t

/-- The gang breaks: its members but for those that trap themselves take GANG_BROKEN (R29). -/
def breakFor (g : Gang) (gone : List Nat) (core : Nat) (goes : Word) (s : State) : State :=
  (g.members.filter (fun m => !gone.contains m)).foldl
    (fun s m => saveRecord g.launch m (s.onThread g.launch m (·.broken core goes))) (disband g s)

/-- The gang of a thread that becomes faulted by itself, saved or as it is written back, breaks (R29, R312). -/
def breakAround (t : Thread) (s : State) : State :=
  match s.gangOf t.launch t.tid with
  | none => s
  | some g => breakFor g [t.tid] t.core (g.waits.getD t.pc + 4) s

/-- The gang of a thread that takes a trap at an instruction that waits in it breaks; where the others have still to
complete the instruction, they do so first (R29). -/
def breakAtWait (complete : Bool) (t : Thread) (s : State) : State :=
  match s.gangOf t.launch t.tid with
  | none => s
  | some g =>
    let late := fun (p : PendTrap) => if p.cause == .gangBroken && p.after.isNone then { p with after := some (t.pc, t.pc + 4) } else p
    let f := fun (x : Thread) => if complete then { x with pendTraps := x.pendTraps.map late } else x
    (g.members.filter (· != t.tid)).foldl (fun s m => s.onThread g.launch m f) (breakFor g [t.tid] t.core (t.pc + 4) s)

/-! ## Gangs that a completion breaks (R30) -/

/-- A wait that the delivery of a job's completion can make true (R30): MWAIT, SUSP.mbox, or JWAIT or SUSP.job
on the job. -/
def waitOnJob (id : Nat) (w : Word) : Bool := waitKind w == 0 || (waitKind w == 2 && waitArg w % 2 ^ 32 == id)

/-- The wait descriptor of the suspension point at which a thread waits, in its slot or saved. -/
def Thread.waitOf (t : Thread) : Option Word :=
  match t.stall with
  | some (.suspend w) => some w
  | _ => if t.code == .suspended then some t.wait else none

/-- The delivery has made the condition of the gang's suspension point true. -/
def deliveryEnds (id : Nat) (g : Gang) (s : State) : Bool :=
  g.members.all (fun m => (s.find g.launch m).any (fun t => t.waitOf.any (fun w => waitOnJob id w && waitHolds s t w)))

/-- A member past the suspension point. -/
def Thread.ended (now : Nat) (t : Thread) : Thread :=
  match t.waitOf with
  | none => t
  | some w => if t.code == .suspended then makeReady true now t else t.afterWait w

/-- The windows of a thread's phase without the last one. -/
def Thread.unpost (t : Thread) : Thread :=
  { t with stall := none, phase := t.phase.map (fun p => { p with windows := p.windows.dropLast }) }

/-- A member back at an instruction that is to have no effect (R30): a window that it posted, or an arrival that it made
there, is withdrawn. -/
def Thread.undone (now : Nat) (t : Thread) : Thread :=
  let t0 := { t with abandoned := none }
  let t1 := if t0.waitOf.any (fun w => waitKind w == 6) && t0.arrivedHere then { t0 with arrived := false } else t0
  match t1.stall with
  | some (.ssend _) => t1.unpost
  | some (.srecv _) => t1.unpost
  | some (.whistle _ since) => { shiftPreempt since now t1 with stall := none }
  | _ => if t1.code == .suspended then makeReady false now t1 else { t1 with stall := none }

/-- The descriptor of cb`n` (R49). -/
def ringAddr (cbbase : Reg) (n : Nat) : Nat := (cbbase.addr + 32 * n) % 2 ^ 64

/-- The advance of a CBADV taken back. -/
def undoAdvance (t : Thread) (s : State) : State :=
  match t.stall.orElse (fun _ => t.abandoned) with
  | some (.cbadv producer n _ k) =>
    match physOf s t.ctx (ringAddr t.cbbase n.toNat + (if producer then 24 else 28)) .store with
    | some pa => s.storeNat t.ctx pa 4 (s.loadNat pa 4 + 2 ^ 32 - k % 2 ^ 32)
    | none => s
  | _ => s

/-- The arrival that a thread made at the HBAR at which it waits, taken back. -/
def undoArrival (t : Thread) (s : State) : State :=
  if t.waitOf.any (fun w => waitKind w == 6) && t.arrivedHere then
    s.onHuddle t.launch t.huddle (fun h => { h with arrived := h.arrived.filter (· != t.tid) })
  else s

/-- The SSEND that a thread waits in, out of its interface. -/
def undoSend (t : Thread) (s : State) : State :=
  match t.stall, (t.phase.map (·.windows)).bind (·.getLast?) with
  | some (.ssend _), some w =>
    { s with sends := s.sends.filter (fun x => !(x.launch == t.launch && x.tid == t.tid && x.window.offset == w.offset)) }
  | _, _ => s

/-- A popped stream element back in its binding. -/
def unpop (launch : Nat) (x : Nat × Nat × Word) (s : State) : State :=
  match s.find launch x.1 with
  | none => s
  | some t =>
    match t.stream x.2.1 with
    | none => s
    | some b =>
      let back := fun (y : Thread) => y.setStream x.2.1 (some { b with buf := x.2.2 :: b.buf })
      let s1 := s.onThread launch x.1 back
      if s.isSaved launch x.1 then s1.frameStore t (bindWords (back t) (frameVa s t.ctx t.pool) x.2.1) else s1

/-- The gang's waiting instruction has no effect (R30). -/
def undoGang (g : Gang) (s : State) : State :=
  let s1 := g.members.foldl (fun s m => match s.find g.launch m with
    | some t => (undoSend t (undoArrival t (undoAdvance t s))).onThread g.launch m (·.undone s.cycle.toNat)
    | none => s) s
  g.popped.foldl (fun s x => unpop g.launch x s) s1

/-- The traps of R30 for a gang whose job names the member with index `m`. DESIGN CHOICE (assumption 35): the core in
GANG_BROKEN's TVAL is the one that member was on at the push. -/
def breakByJob (j : Job) (g : Gang) (m : Nat) (s : State) : State :=
  let core := ((j.members[m]?).map (·.core)).getD 0
  let hit := fun (t : Nat) => (j.members[m]?).any (fun x => x.tid == t)
  let s1 :=
    if g.waits.isNone then s
    else if deliveryEnds j.id g s then g.members.foldl (fun s t => s.onThread g.launch t (·.ended s.cycle.toNat)) s
    else undoGang g s
  g.members.foldl (fun s t =>
    let s2 := if hit t then s.addTrap g.launch t (causeOf (bits j.status 23 16)) true (BitVec.ofNat 64 (j.id % 2 ^ 32))
      else s.addTrap g.launch t .gangBroken false (brokenTval core)
    saveRecord g.launch t s2) (disband g s1)

/-- The member that a record names (R175, R216). -/
def recordMember (j : Job) : Nat := match j.record with | w :: _ => bits w.toNat 50 48 | [] => 0

/-- The completion has reached every member: the gang that pushed the job, where it is still formed, breaks if the
job ended PARTIAL or FAULT (R30, R435). -/
def settleDelivery (id : Nat) (s : State) : State :=
  match s.jobOf id with
  | none => s
  | some j =>
    if decide (j.members.length ≤ 1) || !j.members.all (·.delivered) || !(j.status % 256 == 1 || j.status % 256 == 2) then s
    else
      match s.gangs.find? (fun g => some g.num == j.gang) with
      | none => s
      | some g => breakByJob j g (recordMember j) s

/-! ## Posting (R213) -/

/-- A completion was delivered to a member. -/
def markDelivered (id launch tid : Nat) (s : State) : State :=
  s.onJob id (fun j => j.onMember launch tid (fun m => { m with delivered := true }))

/-- An entry for a member: it waits behind earlier ones, or for room. -/
def postEntry (id launch tid : Nat) (e : Word) (s : State) : State :=
  let waiting := (s.jobOf id).any (fun j => j.members.any (fun m => m.launch == launch && m.tid == tid && !m.mail.isEmpty))
  match (if waiting then none else s.postMail launch tid e) with
  | some s1 => if isCompletion e then markDelivered id launch tid s1 else s1
  | none => s.onJob id (fun j => j.onMember launch tid (fun m => { m with mail := m.mail ++ [e] }))

/-- An entry for every member of a job. -/
def postAll (id : Nat) (e : Word) (s : State) : State :=
  match s.jobOf id with
  | none => s
  | some j => j.members.foldl (fun s m => postEntry id m.launch m.tid e s) s

/-- The entries of one job that wait for a member, while there is room. -/
def deliverEntries (id launch tid : Nat) : List Word → State → State
  | [], s => s
  | e :: r, s =>
    match s.postMail launch tid e with
    | none => s
    | some s1 =>
      let s2 := s1.onJob id (fun j => j.onMember launch tid (fun m => { m with mail := m.mail.tail }))
      deliverEntries id launch tid r (if isCompletion e then settleDelivery id (markDelivered id launch tid s2) else s2)

/-- What waits for room in a thread's mailbox enters it, job by job in the order of acceptance (R213). -/
def deliverWaiting (launch tid : Nat) (s : State) : State :=
  s.jobs.reverse.foldl (fun s j =>
    deliverEntries j.id launch tid
      ((j.members.filter (fun m => m.launch == launch && m.tid == tid)).flatMap (·.mail)) s) s

end Sys2Proof.Machine
end

