-- ==== Sys2Proof/Machine/Mem.lean ====
section
/-!
DEFINITION. The memory family (R80 to R82, R148, R341, R346, R389 to R391, R406, R426 to R428).
-/
namespace Sys2Proof.Machine

/-- The bytes of a size code (R80). -/
def sizeBytes (z : BitVec 2) : Nat := 2 ^ z.toNat

/-- a.address + off6 × n (R389, R426). -/
def miAddr (a : Reg) (f : BitVec 6) (n : Nat) : Nat := (a.data + BitVec.ofInt 64 (f.toInt * (n : Int))).toNat

/-- a.address + I × n (R389, R426). -/
def mxAddr (a i : Reg) (n : Nat) : Nat := (a.data + i.data * BitVec.ofNat 64 n).toNat

/-- The load of LD and LD.x: the checks in the order of R44, then the access. -/
def loadChecked (c : Reg) (va n : Nat) (acq : Bool) (s : State) : Ev (Nat × State) := do
  accessWaits acq false va n s
  capCheck c va n permLoad
  aligned va n
  loadAt va n s

/-- The store of ST and ST.x. -/
def storeChecked (c : Reg) (va n x : Nat) (rel : Bool) (s : State) : Ev State := do
  accessWaits rel rel va n s
  capCheck c va n permStore
  aligned va n
  storeAt va n x s

/-- LD (R389, R390). -/
def execLd (d a : RegField) (z : BitVec 2) (o c : BitVec 3) (f : BitVec 6) (s : State) :
    Host.Outcome State Fault Refusal :=
  finish s (do
    let (xs, s1) ← operands (.ld d a z o c f) [a] (some d) s
    let n := sizeBytes z
    let (v, s2) ← loadChecked (nth xs 0) (miAddr (nth xs 0) f n) n (o == 1) s1
    return (writeData d (BitVec.ofNat 64 v) s2).advance 4)

/-- LD.x (R389, R390). -/
def execLdX (d a : RegField) (z : BitVec 2) (o c : BitVec 3) (i : RegField) (s : State) :
    Host.Outcome State Fault Refusal :=
  finish s (do
    let (xs, s1) ← operands (.ldX d a z o c i) [a, i] (some d) s
    let n := sizeBytes z
    let (v, s2) ← loadChecked (nth xs 0) (mxAddr (nth xs 0) (nth xs 1) n) n (o == 1) s1
    return (writeData d (BitVec.ofNat 64 v) s2).advance 4)

/-- ST (R426, R427). -/
def execSt (d a : RegField) (z : BitVec 2) (o c : BitVec 3) (f : BitVec 6) (s : State) :
    Host.Outcome State Fault Refusal :=
  finish s (do
    let (xs, s1) ← operands (.st d a z o c f) [a, d] none s
    let n := sizeBytes z
    let s2 ← storeChecked (nth xs 0) (miAddr (nth xs 0) f n) n (nth xs 1).data.toNat (o == 2) s1
    return s2.advance 4)

/-- ST.x (R426, R427). -/
def execStX (d a : RegField) (z : BitVec 2) (o c : BitVec 3) (i : RegField) (s : State) :
    Host.Outcome State Fault Refusal :=
  finish s (do
    let (xs, s1) ← operands (.stX d a z o c i) [a, i, d] none s
    let n := sizeBytes z
    let s2 ← storeChecked (nth xs 0) (mxAddr (nth xs 0) (nth xs 1) n) n (nth xs 2).data.toNat (o == 2) s1
    return s2.advance 4)

/-- LD.c's address (R389). -/
def capAddr (a i : Reg) : Nat := (a.data + i.data).toNat

/-- LD.c: the tag is kept where the granule has one and a has LOADCAP (R391). -/
def execLdC (d a b : RegField) (s : State) : Host.Outcome State Fault Refusal :=
  finish s (do
    let (xs, s1) ← operands (.ldC d a b) [a, b] (some d) s
    let va := capAddr (nth xs 0) (nth xs 1)
    accessWaits false false va 16 s1
    capCheck (nth xs 0) va 16 permLoad
    aligned va 16
    let (r, s2) ← loadCapAt va s1
    return (writeDest d ⟨r.val, r.tag && (nth xs 0).has permLoadCap⟩ s2).advance 4)

/-- The address lies in the private region that the thread received at start (R43). -/
def inPrivate (t : Thread) (va : Nat) : Bool := decide (t.privBase ≤ va) && decide (va < t.privBase + t.privLen)

/-- The permission checks of a tagged capability's store (R43, R428). -/
def storeCapAllowed (a d : Reg) (va : Nat) (t : Thread) : Ev Unit :=
  if d.tagged && (!a.has permStoreCap || (!d.has permGlobal && !inPrivate t va)) then
    .error (.trap .capPerm (BitVec.ofNat 64 va))
  else .ok ()

/-- ST.c (R428): a value with reserved bits set is stored untagged. -/
def execStC (d a b : RegField) (s : State) : Host.Outcome State Fault Refusal :=
  finish s (do
    let (xs, s1) ← operands (.stC d a b) [a, b, d] none s
    let va := capAddr (nth xs 0) (nth xs 1)
    accessWaits false false va 16 s1
    capCheck (nth xs 0) va 16 permStore
    storeCapAllowed (nth xs 0) (nth xs 2) va s.th
    aligned va 16
    let s2 ← storeCapAt va ⟨(nth xs 2).val, (nth xs 2).tagged⟩ s1
    return s2.advance 4)

/-- The checks of AMO and CAS, their translation, and the old value (R341, R346). -/
def atomicOld (c : Reg) (n : Nat) (o : BitVec 2) (s : State) : Ev (Nat × Nat × State) := do
  let va := c.addr
  accessWaits (o != 0) (o == 2 || o == 3) va n s
  capCheck c va n permLoad
  capCheck c va n permStore
  aligned va n
  let (pa, s1) ← xlateAtomic va s
  if eccAt s1 pa n then .error (.trap .eccUncorrected (BitVec.ofNat 64 va))
  else return (pa, s1.loadNat pa n, s1.drawn pa n)

/-- AMO (R341, R342). -/
def execAmo (d a b : RegField) (p : BitVec 4) (o z : BitVec 2) (s : State) : Host.Outcome State Fault Refusal :=
  finish s (do
    let (xs, s1) ← operands (.amo d a b p o z) [a, b] (some d) s
    let n := sizeBytes z
    let (pa, old, s2) ← atomicOld (nth xs 0) n o s1
    let s3 := s2.storeNat s.th.ctx pa n (amoResult p.toNat n old (nth xs 1).data.toNat)
    return (writeData d (BitVec.ofNat 64 old) s3).advance 4)

/-- CAS: d is read as the expected value (R81, R346). -/
def execCas (d a b : RegField) (o z : BitVec 2) (s : State) : Host.Outcome State Fault Refusal :=
  finish s (do
    let (xs, s1) ← operands (.cas d a b o z) [a, b, d] (some d) s
    let n := sizeBytes z
    let (pa, old, s2) ← atomicOld (nth xs 0) n o s1
    let s3 := if old = (nth xs 2).data.toNat % 2 ^ (8 * n) then s2.storeNat s.th.ctx pa n (nth xs 1).data.toNat else s2
    return (writeData d (BitVec.ofNat 64 old) s3).advance 4)

/-- What FENCE waits for with msg before it: every remote operation, with the acknowledgements of RST and RAMO, and the reads
of scheduled sends (R148, R292). -/
def fenceMsg (s : State) : Ev Unit :=
  if s.mine.any (fun r => r.acknowledges || !r.performed) || !s.issued.all (·.performed) then again .acks else sendsRead s

/-- FENCE waits for the sequencer, and with msg before it for the accesses of that set; it has no other effect (R148,
R372). -/
def execFence (b a : BitVec 4) (c : BitVec 3) (s : State) : Host.Outcome State Fault Refusal :=
  finish s (do
    let (_, s1) ← operands (.fence b a c) [] none s
    drained s1
    if bitOf b.toNat 3 then fenceMsg s1 else pure ()
    return s1.advance 4)

/-- The lines of PREF that lie within a's bounds and translate are brought near: their translations may
be cached (R136, R406). -/
def prefLines (c : Reg) (line : Nat) : Nat → State → State
  | 0, s => s
  | k + 1, s =>
    prefLines c (line + 64) k
      (if capBase c ≤ line && line + 64 ≤ capTop c then (translate s s.th.quire s.th.ctx line .load).2 else s)

/-- PREF (R406). -/
def execPref (a : RegField) (z : BitVec 2) (f : BitVec 6) (s : State) : Host.Outcome State Fault Refusal :=
  finish s (do
    let (xs, s1) ← operands (.pref a z f) [a] none s
    let va := miAddr (nth xs 0) f 64
    acquired s1
    capCheck (nth xs 0) va 1 permLoad
    if !isLocal va then .error (.trap .pageFault (pageTval va 5 0))
    else return (prefLines (nth xs 0) (va / 64 * 64) (sizeBytes z) s1).advance 4)

end Sys2Proof.Machine
end

