-- ==== Sys2Proof/Machine/Fabric.lean ====
section
/-!
DEFINITION. Streams, messages and remote operations as threads issue them (R247 to R254, R398, R401, R409 to
R411, R416, R417, R420, R422).
-/
namespace Sys2Proof.Machine

/-! ## SBIND and SFREE (R416, R417, R422) -/

/-- Another binding of the core already holds the pair (R247). -/
def channelHeld (s : State) (chan : Nat) : Bool :=
  s.threads.any (fun t => t.live && t.quire == s.th.quire && t.core == s.th.core && t.ctx == s.th.ctx &&
    (List.range 8).any (fun n => (t.stream n).any (fun b => b.kind == .rx && b.word.toNat == chan)))

/-- The job that a value read by SBIND names: an id has 27 bits (R183, R387). -/
def jobNamed (s : State) (a : Nat) : Option Job := if 2 ^ 27 ≤ a then none else s.jobOf a

/-- The job is a COPY with stream delivery that the thread pushed and has not bound (R417). -/
def streamJob (s : State) (id : Nat) : Bool :=
  match jobNamed s id with
  | none => false
  | some j =>
    (match j.cmd with | .copy _ => true | _ => false) && bitOf j.tile.w4.toNat 8 &&
      (j.memberOf s.th.launch s.th.tid).isSome && !j.bound.contains (s.th.launch, s.th.tid)

/-- The job was pushed by the thread, alone or in a gang, and no stream register of the thread is bound to
it (R417). -/
def resultJob (s : State) (id : Nat) : Bool :=
  match jobNamed s id with
  | none => false
  | some j =>
    (j.memberOf s.th.launch s.th.tid).isSome &&
      !(List.range 8).any (fun n => (s.th.stream n).any (fun b => b.kind == .eng && b.word.toNat == id))

/-- A binding made, and what is held for it taken (R417). -/
def bindStream (n : Nat) (kind : BindKind) (w : Word) (s : State) : State :=
  refill n (s.up (fun t => t.setStream n (some ⟨kind, w, []⟩)))

/-- SBIND (R417). -/
def execSbind (d a : RegField) (k : BitVec 2) (s : State) : Host.Outcome State Fault Refusal :=
  finish s (do
    let i : Instr := .sbind d a k
    let (xs, s1) ← operands i [a] none s
    let w := (nth xs 0).data
    let n := qNum d
    if (s.th.stream n).isSome then illegal i
    else
      match bindKindOf k.toNat with
      | .rx =>
        if 256 ≤ w.toNat || channelHeld s w.toNat then illegal i
        else return (bindStream n .rx w s1).advance 4
      | .tx =>
        if bits w.toNat 63 40 != 0 || decide ((s.ctx s.th.ctx).rankcnt.toNat ≤ bits w.toNat 31 0) then .error (badDest s)
        else return (bindStream n .tx w s1).advance 4
      | .cp =>
        if !streamJob s w.toNat then illegal i
        else return (bindStream n .cp w
          (s1.onJob w.toNat (fun j => { j with bound := j.bound ++ [(s.th.launch, s.th.tid)] }))).advance 4
      | .eng =>
        if !resultJob s w.toNat then illegal i
        else return (bindStream n .eng w s1).advance 4)

/-- SFREE (R422). -/
def execSfree (d : RegField) (s : State) : Host.Outcome State Fault Refusal :=
  finish s (do
    let (_, s1) ← operands (.sfree d) [] none s
    return (sfreeOf s.th.launch s.th.tid (qNum d) s1).advance 4)

/-! ## SEND (R249) -/

/-- SEND. -/
def execSend (a b : RegField) (c : BitVec 8) (s : State) : Host.Outcome State Fault Refusal :=
  finish s (do
    let (xs, s1) ← operands (.send a b c) [a, b] none s
    acquired s1
    let w := (nth xs 0).data
    match sendFault s s.th.ctx w false with
    | some h => .error h
    | none =>
      if injectFull s then again .inject
      else return (pushMessage (bits w.toNat 31 0) c (nth xs 1).data s1).advance 4)

/-! ## Remote operations (R251, R252, R409 to R411) -/

/-- A remote operation waits for what earlier accesses of its bytes through local addresses have not done yet, and a release
for the reads of the thread's scheduled sends too (R146, R155, R162, R292). -/
def remoteWaits (ordered release : Bool) (va n : Nat) (s : State) : Ev Unit := do
  if ordered then drained s else bytesFree va n s
  if isLocal va then sendRead va n s else pure ()
  if release then sendsRead s else pure ()

/-- The checks of a remote operation at its issue, in their order. -/
def remoteChecks (c : Reg) (va n : Nat) (perms : List Nat) (s : State) : Ev Unit := do
  acquired s
  perms.forM (capCheck c va n)
  if isGlobal va && !c.has permRemote then .error (.trap .capPerm (BitVec.ofNat 64 va)) else pure ()
  aligned va n
  if !isGlobal va && !isLocal va then .error (.trap .pageFault (pageTval va 5 0)) else pure ()
  if 255 ≤ s.th.replies then again (.replies 255) else pure ()

/-- The request of the focus thread (R253). -/
def mkRequest (kind : ReqKind) (d : RegField) (va n : Nat) (x : Word) (acq rel : Bool) (scope : BitVec 3) (s : State) : Request :=
  { num := s.nextReq, kind := kind, outside := false, expired := false, source := s.pkgid, quire := s.th.quire, core := s.th.core, slot := s.th.slot,
    launch := s.th.launch, tid := s.th.tid, reg := d, serial := s.th.serial, ctx := s.th.ctx,
    addr := if isGlobal va then va % 2 ^ 48 else va,
    pkg := if isGlobal va then BitVec.ofNat 12 (bits va 59 48) else s.pkgid,
    global := isGlobal va, size := n, data := x, acq := acq, rel := rel, scope := scope, sentAt := s.cycle.toNat, parkedAt := none, missAt := none, wired := false,
    stage := .sent }

/-- The request is issued: REPLIES counts it, and its destination register awaits the reply (R252). -/
def issueRequest (r : Request) (awaiting : Bool) (s : State) : State :=
  { s.up (fun t => { t with replies := t.replies + 1
                            pend := if awaiting && r.reg != 0 then t.pend ||| BitVec.ofNat 64 (2 ^ r.reg.toNat) else t.pend }) with
    requests := s.requests ++ [r]
    nextReq := s.nextReq + 1 }

/-- RLD (R410). -/
def execRld (d a : RegField) (z : BitVec 2) (o c : BitVec 3) (f : BitVec 6) (s : State) :
    Host.Outcome State Fault Refusal :=
  finish s (do
    let (xs, s1) ← operands (.rld d a z o c f) [a] (some d) s
    let n := sizeBytes z
    let va := miAddr (nth xs 0) f n
    remoteWaits (o == 1) false va n s1
    remoteChecks (nth xs 0) va n [permLoad] s1
    return (issueRequest (mkRequest .rld d va n 0 (o == 1) false c s1) true s1).advance 4)

/-- RST (R411). -/
def execRst (d a : RegField) (z : BitVec 2) (o c : BitVec 3) (f : BitVec 6) (s : State) :
    Host.Outcome State Fault Refusal :=
  finish s (do
    let (xs, s1) ← operands (.rst d a z o c f) [a, d] none s
    let n := sizeBytes z
    let va := miAddr (nth xs 0) f n
    remoteWaits (o == 2) (o == 2) va n s1
    remoteChecks (nth xs 0) va n [permStore] s1
    return (issueRequest (mkRequest .rst 0 va n (nth xs 1).data false (o == 2) c s1) false s1).advance 4)

/-- RAMO (R409). -/
def execRamo (d a b : RegField) (p : BitVec 4) (o z : BitVec 2) (s : State) : Host.Outcome State Fault Refusal :=
  finish s (do
    let (xs, s1) ← operands (.ramo d a b p o z) [a, b] (some d) s
    let n := sizeBytes z
    let va := (nth xs 0).addr
    remoteWaits (o != 0) (o == 2 || o == 3) va n s1
    remoteChecks (nth xs 0) va n [permLoad, permStore] s1
    return (issueRequest (mkRequest (.ramo p.toNat) d va n (nth xs 1).data (o == 1 || o == 3) (o == 2 || o == 3) 3 s1) true
      s1).advance 4)

/-! ## The mailbox (R398, R401) -/

/-- MWAIT: a suspension point of kind 0. -/
def execMwait (s : State) : Host.Outcome State Fault Refusal :=
  finish s (do
    let (_, s1) ← operands .mwait [] none s
    suspendPoint (mkWait 0 0 0) s1)

/-- The oldest mailbox entry, removed; what waited for room enters (R213, R398). -/
def popMail (s : State) : State :=
  deliverWaiting s.th.launch s.th.tid (s.up (fun t => { t with mbox := t.mbox.tail }))

/-- MPOP: 0 where the mailbox is empty. -/
def execMpop (d : RegField) (s : State) : Host.Outcome State Fault Refusal :=
  finish s (do
    let (_, s1) ← operands (.mpop d) [] (some d) s
    acquired s1
    return (writeData d (s.th.mbox.headD 0) (popMail s1)).advance 4)

end Sys2Proof.Machine
end

