-- ==== Sys2Proof/Machine/Fetch.lean ====
section
/-!
DEFINITION. Fetching the instruction at PC (R71, R95, R97, R126, R310, R432), and bringing a slot into
focus (assumption 5).
-/
namespace Sys2Proof.Machine

/-! ## Instruction caches (R432) -/

/-- The line of the focus core's instruction cache that holds a virtual address. -/
def icacheFind (s : State) (va : Nat) : Option ILine :=
  s.icache.find? (fun l => l.quire == s.th.quire && l.core == s.th.core && l.ctx == s.th.ctx && l.va == va / 64 * 64)

/-- `n` bytes of code at `va`, whose physical address is `pa`: a cached copy that differs from memory
may be used or not (R432, assumption 4). The range lies in one 64-byte line. -/
def codeBytes (va pa n : Nat) (s : State) : List Byte × State :=
  let fresh := s.mem.readBytes pa n
  match icacheFind s va with
  | none =>
    (fresh, { s with icache := ⟨s.th.quire, s.th.core, s.th.ctx, va / 64 * 64, s.mem.readBytes (pa / 64 * 64) 64⟩ :: s.icache })
  | some l =>
    let old := (l.bytes.drop (va % 64)).take n
    if old = fresh then (fresh, s)
    else (if Config.freeBit s.free then old else fresh, { s with free := s.free + 1 })

/-! ## Fetch -/

/-- The fault of a fetch whose translation fails (R95, R126, R130, R131, R138, R142, R310; assumption 11):
FETCH_FAULT at the first address outside the mapping, and PAGE_FAULT for every other reason. -/
def fetchWalkFault (va : Nat) (tval : Word) : Halt :=
  if bits tval.toNat 59 56 == 0 then .trap .fetchFault (BitVec.ofNat 64 va) else .trap .pageFault tval

/-- `n` bytes at PC, through the fetch capability and the translation. -/
def fetchBytes (n : Nat) (s : State) : Ev (List Byte × State) :=
  let va := s.th.pc.toNat
  if va % 4 ≠ 0 then .error (.trap .misalign s.th.pc)
  else
    match capCheck s.th.fetchCap va n permExec with
    | .error (.trap _ v) => .error (.trap .fetchFault v)
    | .error h => .error h
    | .ok _ =>
      let r := translate s s.th.quire s.th.ctx va .fetch
      if missWaits s s.th.quire s.th.ctx va false s.th.turn then again (.walkSlot (s.th.turn.getD s.cycle.toNat))
      else match r.1 with
      | .fault tval => .error (fetchWalkFault va tval)
      | .park => .error (.stall (.retry (.walk s.th.ctx va false s.cycle.toNat)))
      | .bad => .error (.trap .eccUncorrected s.th.pc)
      | .ok pa _ _ _ _ =>
        if eccAt s pa n then .error (.trap .eccUncorrected s.th.pc)
        else .ok (codeBytes va pa n r.2)

/-- What a decoder's answer means for the word `w` (R2). -/
def decoded (w : Nat) (s : State) : Except Reject Instr → Ev (Instr × State)
  | .ok i => .ok (i, s)
  | .error _ => .error (.trap .illegal (BitVec.ofNat 64 (w % 2 ^ 32)))

/-- The instruction at PC (R71, R97): a tile command word has opcode 0x3F and is 32-byte aligned. -/
def fetch (s : State) : Ev (Instr × State) :=
  match fetchBytes 4 s with
  | .error h => .error h
  | .ok (bs, s1) =>
    let w := ofBytesLE bs
    if bits w 31 26 ≠ 0x3F then decoded w s1 (decodeControl w)
    else if s.th.pc.toNat % 32 ≠ 0 then .error (.trap .tileAlign s.th.pc)
    else
      match fetchBytes 32 s1 with
      | .error h => .error h
      | .ok (cs, s2) => decoded (ofBytesLE cs) s2 (decodeTile (ofBytesLE cs))

/-- Whether a trap arose from fetching (R311). -/
def fetchCause : Cause → Bool
  | .illegal => false
  | _ => true

/-- A fetch that fails: its trap at the fetched address, or its wait. -/
def fetchFailed (h : Halt) (s : State) : State :=
  match h with
  | .trap c v => takeTrap c false v s.th.pc (fetchCause c) s
  | .stall w => s.up (fun t => { t with stall := some w })

/-! ## Focus (assumption 5) -/

/-- A thread in the slot of a core. -/
def Thread.inSlot (t : Thread) (quire core slot : Nat) : Bool := t.quire == quire && t.core == core && t.slot == slot

/-- The running thread of a slot in focus; nothing changes where the slot is empty or in focus. -/
def State.focus (s : State) (quire core slot : Nat) : State :=
  match s.others.find? (·.inSlot quire core slot) with
  | none => s
  | some t =>
    let rest := s.others.filter (fun x => !x.inSlot quire core slot)
    { s with th := t, others := if s.th.code == .running then s.th :: rest else rest }

/-- The thread that a launch and id name in focus, where it has a slot. -/
def State.focusOn (s : State) (launch tid : Nat) : State :=
  match s.others.find? (·.is launch tid) with
  | none => s
  | some t => s.focus t.quire t.core t.slot

/-- The thread is at an instruction boundary: its instruction has had no effect yet, or it is a suspension point
that waits. -/
def Thread.atBoundary (t : Thread) : Bool :=
  match t.stall with
  | none => true
  | some (.retry _) => true
  | some (.suspend _) => true
  | _ => false

/-- A trap of the thread is due: at once, or since the instruction that it was to follow has completed (R29). -/
def PendTrap.due (p : PendTrap) (t : Thread) : Bool :=
  match p.after with
  | none => true
  | some (at_, _) => t.pc != at_

/-- The thread has a trap to take at this instruction boundary (R30, R254); a remote fault is taken after a
suspension point that waits. -/
def Thread.trapPending (t : Thread) : Bool :=
  t.atBoundary && (t.pendTraps.any (·.due t) ||
    (!t.rfq.isEmpty && (match t.stall with | some (.suspend _) => false | _ => true)))

/-- Whether an instruction is a step of the device, which comes from the agenda. -/
def deviceStep (i : Instr) : Bool := bitLength i == 0

end Sys2Proof.Machine
end

