-- ==== Sys2Proof/Machine/Packet.lean ====
section
/-!
DEFINITION. Transaction packets and flits (R255, R256): the header as bits, packing and unpacking.
-/
namespace Sys2Proof.Machine

/-! ## Packets (R256) -/

/-- LEN: data granules of 4 bytes. -/
def Wire.len (w : Wire) : Nat := w.data.length / 4

/-- The 16-byte header. -/
def Wire.header (w : Wire) : Nat :=
  w.type % 2 ^ 4 + w.len % 2 ^ 6 * 2 ^ 4 + w.dpkg % 2 ^ 12 * 2 ^ 10 + w.spkg % 2 ^ 12 * 2 ^ 22 + w.ctx % 2 ^ 6 * 2 ^ 34 +
    w.quire % 2 ^ 9 * 2 ^ 40 + w.core % 2 ^ 3 * 2 ^ 49 + w.slot % 2 ^ 3 * 2 ^ 52 + w.reg % 2 ^ 6 * 2 ^ 55 +
    w.serial % 2 ^ 12 * 2 ^ 61 + w.size % 2 ^ 2 * 2 ^ 73 + w.op % 2 ^ 4 * 2 ^ 75 + w.addr % 2 ^ 48 * 2 ^ 79

/-- A packet as bytes: its header, then its granules. -/
def Wire.bytes (w : Wire) : List Byte := toBytesLE 16 w.header ++ w.data

/-- The packet that a header and the bytes after it hold. -/
def wireOf (h : Nat) (data : List Byte) : Wire :=
  { type := bits h 3 0, dpkg := bits h 21 10, spkg := bits h 33 22, ctx := bits h 39 34, quire := bits h 48 40,
    core := bits h 51 49, slot := bits h 54 52, reg := bits h 60 55, serial := bits h 72 61, size := bits h 74 73,
    op := bits h 78 75, addr := bits h 126 79, data := data }

/-- The first packet of some payload, and the bytes after it; nothing where the flit ends there: a header of TYPE 15, fewer
than 16 bytes, or a packet that would straddle flits. -/
def parseWire (bs : List Byte) : Option (Wire × List Byte) :=
  let h := ofBytesLE (bs.take 16)
  let n := 4 * bits h 9 4
  if bs.length < 16 + n || bits h 3 0 == 15 then none else some (wireOf h ((bs.drop 16).take n), bs.drop (16 + n))

/-- The packets of a payload, at most that many. -/
def parseWires : Nat → List Byte → List Wire
  | 0, _ => []
  | f + 1, bs => match parseWire bs with | some (w, r) => w :: parseWires f r | none => []

/-- The packets of a flit's 236 payload bytes. -/
def flitPackets (payload : List Byte) : List Wire := parseWires 15 payload

/-- The bytes of a flit's payload: packets back to back, and a header of TYPE 15 where 16 bytes remain; the unused bytes are
zero. -/
def flitPayload (ws : List Wire) : List Byte :=
  let bs := ws.flatMap Wire.bytes
  ((if bs.length + 16 ≤ 236 then bs ++ toBytesLE 16 15 else bs) ++ List.replicate 236 0).take 236

/-- Bytes that a packet takes. -/
def Wire.size8 (w : Wire) : Nat := 16 + w.data.length

/-- A reply, which travels on a virtual channel of its own. -/
def Wire.isReply (w : Wire) : Bool := w.type == 1 || w.type == 3 || w.type == 5 || w.type == 8

/-- A packet has crossed a ring's dateline, its wrap link, once it has left through a port: `n` is the ring's extent, and
`src`, `p` the places in it where the packet began and of the package it leaves; `plus` is the port's direction. -/
def crossed (n src p : Nat) (plus : Bool) : Bool := if plus then decide (p < src) || p + 1 == n else decide (src < p) || p == 0

/-- The virtual channel of a packet through a port of package `p`: one for requests and one for replies, and their others
from a torus dateline on (R256, assumption 57). -/
def channelOf (rings : Nat × Nat) (p port : Nat) (w : Wire) : Nat :=
  b2n w.isReply + 2 * b2n (
    if port ≤ 1 then crossed rings.1 (coordC w.spkg) (coordC p) (port == 1)
    else if port ≤ 3 then crossed rings.2 (coordD w.spkg) (coordD p) (port == 3)
    else false)

/-- The packets of a queue that fill one flit: of one virtual channel, back to back, none straddling; and the rest. -/
def takeFlit (channel : Wire → Nat) (vc : Nat) : Nat → List Wire → List Wire × List Wire
  | _, [] => ([], [])
  | room, w :: r =>
    if channel w == vc && decide (w.size8 ≤ room) then
      let x := takeFlit channel vc (room - w.size8) r
      (w :: x.1, x.2)
    else ([], w :: r)

/-! ## The link-layer field (R255) -/

/-- Bits `hi..lo` of the link-layer field in bytes 236 to 241. -/
def flitField (bs : List Byte) (hi lo : Nat) : Nat := bits (ofBytesLE ((bs.drop 236).take 6)) hi lo

/-- A replay buffer after an acknowledgement: the flits up to the one acknowledged are gone. -/
def acknowledge (ack : BitVec 12) (l : List Flit) : List Flit :=
  if l.any (·.seq == ack) then (l.dropWhile (·.seq != ack)).tail else l

/-- Credits returned for a virtual channel. -/
def addCredit (vc n : Nat) (l : List Nat) : List Nat := l.mapIdx (fun i x => if i = vc then x + n else x)

/-- A link after the link-layer field of a flit from the other side: KIND 2 asks for every flit that is not acknowledged. -/
def Link.fields (l : Link) (bs : List Byte) : Link :=
  let b := acknowledge (BitVec.ofNat 12 (flitField bs 23 12)) l.buffer
  { l with buffer := b
           credits := addCredit (flitField bs 33 30) (flitField bs 47 34) l.credits
           resend := if flitField bs 25 24 = 2 then b.length else min l.resend b.length }

/-- The first virtual channel with credits to return, and how many. -/
def Link.owing (l : Link) : Nat × Nat := ((l.owed.zipIdx.find? (fun x => x.1 != 0)).map (fun x => (x.2, x.1 % 2 ^ 14))).getD (0, 0)

/-- The link-layer field of a flit: SEQ, ACK, KIND, VC and CREDIT. -/
def Link.layout (l : Link) (seq : BitVec 12) (kind vc : Nat) : Nat :=
  seq.toNat + (l.expected - 1).toNat * 2 ^ 12 + kind % 4 * 2 ^ 24 + vc % 16 * 2 ^ 26 + l.owing.1 * 2 ^ 30 + l.owing.2 * 2 ^ 34

/-- The 256 bytes of a flit: payload, link-layer field, CRC and FEC. -/
def flitBytes (ws : List Wire) (field : Nat) : List Byte :=
  let b := flitPayload ws ++ toBytesLE 6 field
  let c := b ++ (Config.flitCrc b).toList
  c ++ (Config.flitFecOf c).toList

/-- A flit leaves the port: what it returns in credits is returned. -/
def Link.emit (l : Link) (seq : BitVec 12) (kind vc : Nat) (ws : List Wire) : Link :=
  { l with sent := flitBytes ws (l.layout seq kind vc)
           owed := l.owed.mapIdx (fun i x => if i = l.owing.1 then x - l.owing.2 else x) }

/-! ## Ports -/

/-- A Glaivo port. -/
def State.link (s : State) (p : Nat) : Option Link := if h : p < 8 then some s.links[p] else none

/-- A port changed. -/
def State.setLink (s : State) (p : Nat) (l : Link) : State := if h : p < 8 then { s with links := s.links.set p l h } else s

/-- The port of the route in use to a package: the one kept, else the one that R258 gives (R259). None where no route is
left (R258). -/
def portTo (s : State) (pkg : Nat) : Option Nat :=
  (routePort s pkg).map (fun k => ((s.routes.find? (fun x => x.1.toNat == pkg)).map (·.2)).getD k)

/-- A packet in the queue of a port. -/
def queueAt (port : Nat) (w : Wire) (s : State) : Option State := (s.link port).map (fun l => s.setLink port { l with out := l.out ++ [w] })

/-- A packet in the queue of the port of its route, which is in use from then on; nothing where there is no route. -/
def sendWire (w : Wire) (s : State) : Option State :=
  (portTo s w.dpkg).bind (fun k => (queueAt k w s).map (fun s1 =>
    if s.routes.any (fun x => x.1.toNat == w.dpkg) then s1 else { s1 with routes := (BitVec.ofNat 12 w.dpkg, k) :: s.routes }))

/-- A flit toward a package has been sent and is not acknowledged. -/
def Link.carries (pkg : Nat) (l : Link) : Bool := l.buffer.any (fun f => f.packets.any (·.dpkg == pkg))

/-- A port that leads nowhere sends no more: what is not acknowledged waits again, before what waits (R259, assumption
57). -/
def Link.reclaim (l : Link) : Link := { l with out := l.buffer.flatMap (·.packets) ++ l.out, buffer := [], resend := 0, nak := false }

end Sys2Proof.Machine
end

