-- ==== Sys2Proof/Machine/Remote.lean ====
section
/-!
DEFINITION. What the fabric does by itself (R135, R155, R247 to R262): messages, the service of remote
requests and their replies, links, routes, failures and pod time.
-/
namespace Sys2Proof.Machine

/-! ## Messages (R247, R250, R261, R325) -/

/-- The core that a waiting message is for, where its entry is valid and of this package (R260, R261). -/
def packetDest (s : State) (p : Packet) : Option (Nat × Nat) :=
  let e := rankUsed s p.ctx p.rank
  if rankLost s p.ctx p.rank || rankBad e || rankState e == 2 || rankPkg e != s.pkgid then none else some (rankQuire e, rankCore e)

/-- The first waiting message of a source core for a destination core and channel is the one with
this payload (R250). -/
def nextPacket (s : State) (ctx : Ctx) (chan : BitVec 8) (quire core : Nat) (payload : Word) : Option Packet :=
  s.inject.find? (fun p => p.ctx == ctx && p.chan == chan && packetDest s p == some (quire, core) && p.payload == payload &&
    s.inject.find? (fun x => x.quire == p.quire && x.core == p.core && x.ctx == ctx && x.chan == chan &&
      packetDest s x == some (quire, core)) == some p)

/-- The thread and stream register that a pair is bound to on a core, running or saved (R247, R325). -/
def boundTo (s : State) (ctx : Ctx) (chan : BitVec 8) (quire core : Nat) : Option (Thread × Nat) :=
  s.threads.findSome? (fun t =>
    if t.live && t.ctx == ctx && t.quire == quire && t.core == core then
      ((List.range 8).find? (fun n => (t.stream n).any (fun b => b.kind == .rx && b.word.toNat == chan.toNat))).map (fun n => (t, n))
    else none)

/-- An element enters a binding's buffer, and the frame of a saved thread (R325). -/
def enterBinding (t : Thread) (n : Nat) (b : Binding) (x : Word) (s : State) : State :=
  let nb := { b with buf := b.buf ++ [x] }
  let s1 := s.onThread t.launch t.tid (fun y => y.setStream n (some nb))
  if s.isSaved t.launch t.tid then s1.frameStore t (bindWords (t.setStream n (some nb)) (frameVa s t.ctx t.pool) n) else s1

/-- A message enters the binding that names its pair, or the receive queue; it stays at its sender where
there is no room (R46, R247). -/
def takeMessage (ctx : Ctx) (chan : BitVec 8) (quire core : Nat) (x : Word) (s : State) : Option State :=
  match boundTo s ctx chan quire core with
  | some (t, n) =>
    match t.stream n with
    | some b => if 16 ≤ b.buf.length then none else some (enterBinding t n b x s)
    | none => none
  | none =>
    if 256 ≤ (s.arrivals.filter (fun a => a.quire == quire && a.core == core)).length then none
    else some { s with arrivals := s.arrivals ++ [⟨quire, core, ctx, chan, x⟩] }

/-- A message that the fabric holds for the pair is not the next one (R250). -/
def outOfTurn (s : State) (ctx : Ctx) (chan : BitVec 8) (quire core : Nat) (payload : Word) : Bool :=
  (s.inbound.find? (fun x => x.quire == quire && x.core == core && x.ctx == ctx && x.chan == chan)).any (·.payload != payload)

/-- MESSAGE_ARRIVAL: of a message of this package, or of one from another package (R247). -/
def execMessageArrival (ctx : BitVec 6) (chan : BitVec 8) (quire core : Nat) (payload : Word) (s : State) :
    Host.Outcome State Fault Refusal :=
  match takeMessage ctx chan quire core payload (s.wake (meshIslands (dieOf quire))) with
  | none => .next s
  | some s1 =>
    match nextPacket s ctx chan quire core payload with
    | some p => .next { s1 with inject := s1.inject.erase p }
    | none => if outOfTurn s ctx chan quire core payload then .next s else .next { s1 with inbound := s1.inbound.erase ⟨quire, core, ctx, chan, payload⟩ }

/-! ## Serving a request (R135, R155, R251) -/

/-- The same thread issued `e` before `r`. -/
def earlier (r e : Request) : Bool :=
  !e.outside && e.launch == r.launch && e.tid == r.tid && decide (e.num < r.num)

/-- The two requests touch a common byte through the same form of address (R146, R155). -/
def sameBytes (s : State) (r e : Request) : Bool :=
  e.pkg == r.pkg && e.global == r.global &&
    (if r.pkg == s.pkgid then shareBytes s r.ctx e.addr e.size r.addr r.size else rangesMeet e.addr e.size r.addr r.size)

/-- A request may be performed: earlier ones of its bytes are, and a release waits for every earlier one, with its
acknowledgement unless the requester has given it up (R155). -/
def mayPerform (s : State) (r : Request) : Bool :=
  r.outside || s.requests.all (fun e => !earlier r e ||
    ((!sameBytes s r e || e.performed) && (!r.rel || (e.performed && (e.expired || !e.acknowledges)))))

/-- A request's kind stores. -/
def ReqKind.writes : ReqKind → Bool
  | .rld => false
  | _ => true

/-- The request performed at a physical address: the data of its reply, or the reason of its fault. -/
def performAt (r : Request) (pa : Nat) (s : State) : ReqStage × State :=
  match r.kind with
  | .rld =>
    if inMmio pa then (.served (BitVec.ofNat 64 (mmioLoad pa r.size s)), s)
    else if eccAt s pa r.size then (.failed 7, s)
    else (.served (BitVec.ofNat 64 (s.loadNat pa r.size)), s.drawn pa r.size)
  | .rst =>
    if inMmio pa then (.served 0, mmioStore pa r.size r.data.toNat s)
    else if eccPartial s pa r.size then (.failed 7, s)
    else (.served 0, s.storeNat r.ctx pa r.size r.data.toNat)
  | .ramo op =>
    if inHost pa || inMmio pa then (.failed 3, s)
    else if eccAt s pa r.size then (.failed 7, s)
    else
      let old := s.loadNat pa r.size
      (.served (BitVec.ofNat 64 old), (s.drawn pa r.size).storeNat r.ctx pa r.size (amoResult op r.size old r.data.toNat))

/-- The context that a request names exists at this package (R254, assumption 14). -/
def ctxExists (s : State) (c : Ctx) : Bool := (s.ctx c).enable || bitOf (s.ctx c).mode.toNat 0

/-- A request served by this package: nothing where its walk parks. -/
def serveRequest (r : Request) (s : State) : Option (ReqStage × State) :=
  if r.outside && !ctxExists s r.ctx then some (.failed 9, s)
  else
    let t := translate s r.quire r.ctx r.addr (if r.kind.writes then .store else .load)
    match t.1 with
    | .park => none
    | .fault v => some (.failed (bits v.toNat 59 56), t.2)
    | .bad => some (.failed 7, t.2)
    | .ok pa _ _ _ _ => some (performAt r pa t.2)

/-- The request with a number. -/
def State.request (s : State) (n : Nat) : Option Request := s.requests.find? (fun r => r.num == n)

/-- A request's stage set. -/
def setStage (n : Nat) (x : ReqStage) (s : State) : State :=
  { s with requests := s.requests.map (fun r => if r.num == n then { r with stage := x } else r) }

/-- A request is gone. -/
def dropRequest (n : Nat) (s : State) : State := { s with requests := s.requests.filter (fun r => r.num != n) }

/-- A request served: its reply travels, but for one that its requester has given up (R254). -/
def settleRequest (r : Request) (x : ReqStage) (s : State) : State := if r.expired then dropRequest r.num s else setStage r.num x s

/-- A request's miss waits for a walk (R136). -/
def missRequest (r : Request) (s : State) : State :=
  { s with requests := s.requests.map (fun q => if q.num == r.num then { q with missAt := some (q.missAt.getD s.cycle.toNat) } else q) }

/-- A walk of a request that parks: it is tried again, and fails with reason 4 after 10 ms (R138). -/
def parkRequest (r : Request) (s : State) : State :=
  let since := r.parkedAt.getD s.cycle.toNat
  if since + tenMs ≤ s.cycle.toNat then settleRequest r (.failed 4) s
  else { s with requests := s.requests.map (fun q => if q.num == r.num then { q with parkedAt := some since } else q) }

/-- REMOTE_REQUEST: the serving port performs a request and replies; for a request to another package, that
package has performed it (R155). An unreachable package gives a fault reply (R258). -/
def execRemoteRequest (n : Nat) (s : State) : Host.Outcome State Fault Refusal :=
  match s.request n with
  | none => .next s
  | some r =>
    if r.performed || !mayPerform s r then .next s
    else if r.outside || r.pkg == s.pkgid then
      if missWaits s r.quire r.ctx r.addr r.parkedAt.isSome r.missAt then .next (missRequest r s)
      else match serveRequest r s with
      | none => .next (parkRequest r s)
      | some (x, s1) => .next (settleRequest r x s1)
    else if noRoute s r.pkg then .next (setStage n (.failed 8) s)
    else .next (setStage n (.served 0) s)

/-! ## Replies (R252 to R254) -/

/-- The general register field of a reply, written into a saved frame (R319). -/
def replyWords (t : Thread) (fr : Nat) (r : RegField) (x : Word) : List (Nat × Nat) :=
  if r == 0 then []
  else [(fr + 16 * r.toNat, x.toNat), (fr + 16 * r.toNat + 8, 0), (fr + 896, tagWord t), (fr + 904, pendWord t)]

/-- The thread after a reply: the register written, untagged, and REPLIES lower by one (R252). -/
def Thread.replied (t : Thread) (reg : RegField) (x : Option Word) : Thread :=
  let t1 := match x with
    | some w => { t.setReg reg.toNat (Reg.ofData w) with pend := t.pend &&& ~~~ BitVec.ofNat 64 (2 ^ reg.toNat) }
    | none => t
  { t1 with replies := t1.replies - 1 }

/-- The slot whose serial a reply names holds its thread (R253). -/
def inItsSlot (s : State) (r : Request) : Bool :=
  s.slots.any (fun t => t.is r.launch r.tid && t.serial == r.serial && t.inSlot r.quire r.core r.slot)

/-- A reply reaches a thread: in its slot, or through a forwarding entry in its frame; any other is
discarded (R253). `x` is the data for a register, none for an acknowledgement. -/
def deliverReply (r : Request) (x : Option Word) (s : State) : State :=
  let s0 := { s with requests := s.requests.filter (fun q => q.num != r.num) }
  if inItsSlot s r then s0.onThread r.launch r.tid (·.replied r.reg x)
  else
    let key := fun (f : Forward) => f.quire == r.quire && f.core == r.core && f.slot == r.slot && f.serial == r.serial
    match s.forwards.find? key, s.find r.launch r.tid with
    | some _, some t =>
      if !s.isSaved r.launch r.tid then s0
      else
        let u := t.replied r.reg x
        -- the frame holds the register: no DIRTY bit (R319)
        let v := { u with dirty := t.dirty }
        let s1 := s0.onThread r.launch r.tid (fun _ => v)
        let s2 := s1.frameStore v (match x with | some w => replyWords v (frameVa s v.ctx v.pool) r.reg w | none => [])
        let s3 := saveRecord r.launch r.tid s2
        if v.replies = 0 then { s3 with forwards := s3.forwards.filter (fun f => !key f) } else s3
    | _, _ => s0

/-- What an ordinary reply carries: what this package read, else what came with the reply. -/
def replyData (s : State) (r : Request) (data : Word) : Option Word :=
  match r.stage with
  | .served w => some (if r.outside || r.pkg == s.pkgid then w else data)
  | _ => none

/-- The type of a request's packet, and of its reply (R256). -/
def ReqKind.type : ReqKind → Nat
  | .rld => 0
  | .rst => 2
  | .ramo _ => 4

/-- The bytes of a datum of `n` bytes in granules, zero-padded (R256). -/
def granules (n : Nat) (x : Nat) : List Byte := toBytesLE (max 4 n) (x % 2 ^ (8 * n))

/-- The reply packet to a request of another package (R254, R256). -/
def replyWire (r : Request) (s : State) : Wire :=
  let w := fun (type op addr : Nat) (data : List Byte) =>
    ({ type := type, dpkg := r.source.toNat, spkg := s.pkgid.toNat, ctx := r.ctx.toNat, quire := r.quire, core := r.core,
       slot := r.slot, reg := r.reg.toNat, serial := r.serial.toNat, size := Nat.log2 r.size, op := op, addr := addr, data := data } : Wire)
  match r.stage, r.kind with
  | .failed k, _ => w 8 k (if k = 11 then 0 else r.addr) (granules 4 r.pkg.toNat)
  | .served _, .rst => w 3 0 r.addr []
  | .served x, k => w (k.type + 1) 0 r.addr (granules r.size x.toNat)
  | .sent, k => w (k.type + 1) 0 r.addr []

/-- A request of another package that is over: its reply leaves for its requester. -/
def answerRequest (r : Request) (s : State) : State :=
  let s1 := { s with requests := s.requests.filter (fun q => q.num != r.num) }
  if r.source == s.pkgid then s1 else (sendWire (replyWire r s) s1).getD s1

/-- A reply of the kinds RLD, RST and RAMO: to a thread of this package, or on its way to another package. -/
def replyOf (n : Nat) (kind : ReqKind → Bool) (data : Word) (s : State) : State :=
  match s.request n with
  | none => s
  | some r =>
    if !kind r.kind then s
    else if r.expired then dropRequest n s
    else
      match replyData s r data with
      | none => s
      | some w =>
        if r.outside then answerRequest r s
        else deliverReply r (match r.kind with | .rst => none | _ => some (BitVec.ofNat 64 (w.toNat % 2 ^ (8 * r.size)))) s

/-- RLD_REPLY (R253). -/
def execRldReply (n : Nat) (data : Word) (s : State) : Host.Outcome State Fault Refusal :=
  .next (replyOf n (fun k => match k with | .rld => true | _ => false) data s)

/-- RST_ACKNOWLEDGEMENT (R252). -/
def execRstAcknowledgement (n : Nat) (s : State) : Host.Outcome State Fault Refusal :=
  .next (replyOf n (fun k => match k with | .rst => true | _ => false) 0 s)

/-- RAMO_REPLY (R253). -/
def execRamoReply (n : Nat) (data : Word) (s : State) : Host.Outcome State Fault Refusal :=
  .next (replyOf n (fun k => match k with | .ramo _ => true | _ => false) data s)

/-- The fault reply of a request (R254): zero to the register, and REMOTE_FAULT with that TVAL for the thread. -/
def faultWith (r : Request) (tval : Word) (s : State) : State :=
  let zero : Option Word := match r.kind with | .rst => none | _ => some 0
  (deliverReply r zero s).addRemoteFault r.launch r.tid tval

/-- The fault reply of a request that fails with a reason. -/
def faultThread (r : Request) (reason : Nat) (s : State) : State :=
  faultWith r (if reason = 11 then remoteTval 0 s.pkgid.toNat 11 else remoteTval r.addr r.pkg.toNat reason) s

/-- FAULT_REPLY (R254): of a request that failed here or, with the reason it carries, elsewhere. -/
def execFaultReply (n : Nat) (reason : BitVec 4) (s : State) : Host.Outcome State Fault Refusal :=
  match s.request n with
  | none => .next s
  | some r =>
    if r.expired then .next (if r.performed then dropRequest n s else s)
    else match r.stage with
    | .failed k =>
      if r.outside then .next (answerRequest r s)
      else .next (faultThread r k s)
    | .sent =>
      if r.outside || r.pkg == s.pkgid || 11 < reason.toNat then .next s else .next (faultThread r reason.toNat s)
    | .served _ => .next s

/-- What is left of a request that its requester has given up: one that this package has not served may still be served, in
its place in program order, and one that has left for another package waits for the reply that is to be discarded (R155,
R254). -/
def givenUp (r : Request) (s : State) : Option Request :=
  if r.pkg == s.pkgid then (if r.performed then none else some { r with expired := true })
  else if r.wired then some { r with expired := true, stage := .served 0 } else none

/-- REMOTE_TIMEOUT: after 10 ms without a reply; a reply that arrives later is discarded (R254). -/
def execRemoteTimeout (n : Nat) (s : State) : Host.Outcome State Fault Refusal :=
  match s.request n with
  | none => .next s
  | some r =>
    if r.outside || r.expired || s.cycle.toNat < r.sentAt + tenMs then .next s
    else .next { faultThread r 10 s with requests := s.requests.filterMap (fun q => if q.num == n then givenUp r s else some q) }

/-! ## Packets that arrive and leave (R255, R256) -/

/-- A request of another package arrives (R251): the serving port numbers it. -/
def acceptRequest (r : Request) (s : State) : State :=
  { s with requests := s.requests ++ [{ r with num := s.nextReq, outside := true, expired := false, stage := .sent, sentAt := s.cycle.toNat }]
           nextReq := s.nextReq + 1 }

/-- The request that a packet carries (R256). -/
def requestOf (kind : ReqKind) (w : Wire) (s : State) : Request :=
  { num := s.nextReq, kind := kind, outside := true, expired := false, source := BitVec.ofNat 12 w.spkg, quire := w.quire, core := w.core, slot := w.slot,
    launch := 0, tid := 0, reg := BitVec.ofNat 6 w.reg, serial := BitVec.ofNat 12 w.serial, ctx := BitVec.ofNat 6 w.ctx,
    addr := w.addr, pkg := s.pkgid, global := true, size := 2 ^ w.size, data := BitVec.ofNat 64 (ofBytesLE w.data),
    acq := false, rel := false, scope := 3, sentAt := s.cycle.toNat, parkedAt := none, missAt := none, wired := false, stage := .sent }

/-- A reply packet comes from the package that a request is for: a fault reply, which may come from a hop on the way, names
it in its granule, but for REASON 11 (R254, R256). -/
def fromTarget (w : Wire) (r : Request) : Bool :=
  if w.type == 8 then w.op == 11 || r.pkg.toNat == bits (ofBytesLE w.data) 11 0 else r.pkg.toNat == w.spkg

/-- The request that a reply packet answers: the oldest of its requester, register, target and size, which may be one that
the requester has given up (R253, R254). -/
def answered (type : Nat) (w : Wire) (s : State) : Option Request :=
  s.requests.find? (fun r => !r.outside && fromTarget w r && r.pkg != s.pkgid && r.quire == w.quire && r.core == w.core &&
    r.slot == w.slot && r.serial.toNat == w.serial && r.reg.toNat == w.reg && 2 ^ w.size == r.size &&
    (r.addr == w.addr || (type == 8 && w.op == 11)) && (type == 8 || r.kind.type + 1 == type))

/-- A reply packet reaches its requester; the TVAL of a fault reply is rebuilt from its header and granule (R254, R256). -/
def takeReply (w : Wire) (s : State) : State :=
  match answered w.type w s with
  | none => s
  | some r =>
    if r.expired then dropRequest r.num s
    else if w.type = 8 then faultWith r (remoteTval w.addr (bits (ofBytesLE w.data) 11 0) w.op) s
    else deliverReply r (if w.type = 3 then none else some (BitVec.ofNat 64 (ofBytesLE w.data % 2 ^ (8 * r.size)))) s

/-- A message of another package: into its binding or the receive queue, or held behind earlier ones and for room (R247,
R250). -/
def inMessage (w : Wire) (s : State) : State :=
  let a : Arrival := ⟨bits w.addr 8 0, bits w.addr 11 9, BitVec.ofNat 6 w.ctx, BitVec.ofNat 8 (bits w.addr 19 12), BitVec.ofNat 64 (ofBytesLE w.data)⟩
  let behind := s.inbound.any (fun x => x.quire == a.quire && x.core == a.core && x.ctx == a.ctx && x.chan == a.chan)
  match (if behind then none else takeMessage a.ctx a.chan a.quire a.core a.payload s) with
  | some s1 => s1
  | none => { s with inbound := s.inbound ++ [a] }

/-- A packet without a route: a request gets a fault reply with REASON 8, and any other packet is lost (R249, R258). -/
def bounceWire (w : Wire) (s : State) : State :=
  if w.type = 0 ∨ w.type = 2 ∨ w.type = 4 then
    (sendWire { w with type := 8, dpkg := w.spkg, spkg := s.pkgid.toNat, op := 8, data := granules 4 w.dpkg } s).getD s
  else s

/-- A packet for another package that has come through a port goes on: one that has moved aside in A by the port that its
place gives, any other by the route in use (R258, R259). -/
def forwardWire (port : Nat) (w : Wire) (s : State) : State :=
  let next := if movedAside s.pkgid.toNat w.dpkg port then (portFrom s w.dpkg true).bind (fun k => queueAt k w s) else sendWire w s
  next.getD (bounceWire w s)

/-- A packet that has arrived through a port (R256). Engine data and reserved types change nothing here (assumption 57). -/
def takeWire (port : Nat) (s : State) (w : Wire) : State :=
  if w.dpkg ≠ s.pkgid.toNat then forwardWire port w s
  else
    match w.type with
    | 0 => acceptRequest (requestOf .rld w s) s
    | 2 => acceptRequest (requestOf .rst w s) s
    | 4 => acceptRequest (requestOf (.ramo w.op) w s) s
    | 6 => inMessage w s
    | 1 => takeReply w s
    | 3 => takeReply w s
    | 5 => takeReply w s
    | 8 => takeReply w s
    | _ => s

/-- The packet of a request (R256). -/
def requestWire (r : Request) (s : State) : Wire :=
  { type := r.kind.type, dpkg := r.pkg.toNat, spkg := s.pkgid.toNat, ctx := r.ctx.toNat, quire := r.quire, core := r.core,
    slot := r.slot, reg := r.reg.toNat, serial := r.serial.toNat, size := Nat.log2 r.size,
    op := (match r.kind with | .ramo p => p | _ => 0), addr := r.addr,
    data := (match r.kind with | .rld => [] | _ => granules r.size r.data.toNat) }

/-- An earlier request of the thread to the same package has not left: packets of one pair keep the order of issue (R155,
R259). -/
def leavesAfter (s : State) (r : Request) : Bool := s.requests.any (fun e => earlier r e && e.pkg == r.pkg && !e.wired && !e.performed)

/-- The packet of a request leaves for the port of its route. -/
def departRequest (n : Nat) (s : State) : State :=
  match s.request n with
  | none => s
  | some r =>
    if r.outside || r.wired || r.pkg == s.pkgid || r.performed || !mayPerform s r || leavesAfter s r then s
    else
      match sendWire (requestWire r s) s with
      | none => s
      | some s1 => { s1 with requests := s1.requests.map (fun q => if q.num == n then { q with wired := true } else q) }

/-- The packet of a message to a core of another package (R256). -/
def messageWire (p : Packet) (e : Word) (s : State) : Wire :=
  { type := 6, dpkg := (rankPkg e).toNat, spkg := s.pkgid.toNat, ctx := p.ctx.toNat, quire := p.quire, core := p.core, slot := 0,
    reg := 0, serial := 0, size := 3, op := 0, addr := rankQuire e + rankCore e * 2 ^ 9 + p.chan.toNat * 2 ^ 12,
    data := toBytesLE 8 p.payload.toNat }

/-- The islands of the link ports wake, with the mesh (R334, assumption 58). -/
def State.wakeLinks (s : State) : State :=
  s.wake ((List.range 4).flatMap (fun d => [64 * d + 52, 64 * d + 53, 64 * d + 54, 64 * d + 55] ++ meshIslands d))

/-- What a port sends next: the request for a replay, a flit of the replay buffer that the other side has asked for, new
packets, which enter the buffer, or an idle flit (R255, assumption 57). -/
def nextFlit (channel : Wire → Nat) (l : Link) : Link :=
  if l.nak then { l.emit (l.nextSeq - 1) 2 0 [] with nak := false }
  else
    match (if l.resend = 0 then none else l.buffer[l.buffer.length - l.resend]?) with
    | some f => { l.emit f.seq 0 f.vc f.packets with resend := l.resend - 1 }
    | none =>
      let vc := ((l.out.head?).map channel).getD 0
      let x := takeFlit channel vc 236 l.out
      if x.1.isEmpty then { l.emit (l.nextSeq - 1) 1 0 [] with resend := 0 }
      else { l.emit l.nextSeq 0 vc x.1 with
        out := x.2, resend := 0, nextSeq := l.nextSeq + 1, buffer := l.buffer ++ [⟨l.nextSeq, vc, x.1⟩] }

/-- A port sends a flit (R255). -/
def flitSend (port : Nat) (s : State) : State :=
  match s.link port with
  | none => s
  | some l =>
    if l.failed || l.retraining || portDown s port then s
    else s.wakeLinks.setLink port (nextFlit (channelOf s.rings s.pkgid.toNat port) l)

/-! ## Links (R255) -/

/-- FLIT_RECEIVE: FEC, then the CRC; the link-layer field of a good flit acts, and the packets of one of KIND 0 that comes in
order arrive, and their credit is to be returned. For a flit that fails its CRC a replay is asked for, and where the last of
16 replays of one flit fails too the link retrains (R255, R336). -/
def execFlitReceive (port : Nat) (flit : List Byte) (s : State) : Host.Outcome State Fault Refusal :=
  match s.link port with
  | none => .next s
  | some l =>
    if l.failed || l.retraining then .next s
    else
      let bs := (Config.flitFec flit).toList
      if (Config.flitCrc (bs.take 242)).toList = (bs.drop 242).take 8 then
        let m := l.fields bs
        if flitField bs 25 24 = 0 && flitField bs 11 0 = l.expected.toNat then
          .next ((flitPackets (bs.take 236)).foldl (takeWire port)
            (s.wakeLinks.setLink port { m with
              expected := l.expected + 1, replays := 0, owed := addCredit (flitField bs 29 26) 1 m.owed }))
        else .next (s.wakeLinks.setLink port m)
      else
        if l.replays = 16 then .next (s.wakeLinks.setLink port { l with retraining := true })
        else .next ((countRas 6 1 s.wakeLinks).setLink port { l with replays := l.replays + 1, nak := true })

/-- A packet whose last route is gone: a request of this package fails with REASON 8 (R258). -/
def strandedWire (s : State) (w : Wire) : State :=
  if w.spkg = s.pkgid.toNat ∧ (w.type = 0 ∨ w.type = 2 ∨ w.type = 4) then
    { s with requests := s.requests.map (fun r =>
        if !r.outside && requestWire r s == w && r.stage == .sent then { r with stage := .failed 8 } else r) }
  else bounceWire w s

/-- A port after a change of what leads on: one that leads nowhere takes its flits back, and packets without any route are
answered or lost; the others wait for a new route (R258, R259). -/
def strandAt (s : State) (port : Nat) : State :=
  match s.link port with
  | none => s
  | some l =>
    let m := if portDown s port then l.reclaim else l
    (m.out.filter (fun w => (portTo s w.dpkg).isNone)).foldl strandedWire
      (s.setLink port { m with out := m.out.filter (fun w => (portTo s w.dpkg).isSome) })

/-- Every port after such a change. -/
def strand (s : State) : State := (List.range 8).foldl strandAt s

/-- A link is marked failed for routing (R258). -/
def failLink (port : Nat) (s : State) : State :=
  match s.link port with
  | none => s
  | some l => strand (s.setLink port { l with retraining := false, failed := true })

/-- LINK_RETRAIN: a link that fails to retrain is marked failed (R255, R258). -/
def execLinkRetrain (port : Nat) (ok : Bool) (s : State) : Host.Outcome State Fault Refusal :=
  match s.link port with
  | none => .next s
  | some l =>
    if !l.retraining then .next s
    else if ok then .next ((countRas 7 1 s).setLink port { l with retraining := false, replays := 0, nak := true })
    else .next (failLink port (countRas 8 1 (countRas 7 1 s)))

/-! ## Routes and failures (R258, R259) -/

/-- A packet is in flight to a package: a request that has left its port and has no reply, or a flit that has not been
acknowledged. -/
def inFlight (s : State) (pkg : BitVec 12) : Bool :=
  s.requests.any (fun r => !r.outside && r.pkg == pkg && r.wired && !r.performed &&
    !s.links.toList.any (fun l => l.out.contains (requestWire r s))) || s.links.toList.any (·.carries pkg.toNat)

/-- What waits at a port for a package moves to the port of its new route. -/
def reroute (pkg port : Nat) (s : State) (k : Nat) : State :=
  match s.link k with
  | none => s
  | some l =>
    if k = port then s
    else (l.out.filter (·.dpkg == pkg)).foldl (fun s w => (queueAt port w s).getD s)
      (s.setLink k { l with out := l.out.filter (·.dpkg != pkg) })

/-- ROUTE_CHANGE: to the route that R258 gives, only once every packet on the old one is acknowledged (R259). -/
def execRouteChange (pkg : BitVec 12) (route : Nat) (s : State) : Host.Outcome State Fault Refusal :=
  if inFlight s pkg || routePort s pkg.toNat ≠ some route then .next s
  else .next ((List.range 8).foldl (reroute pkg.toNat route)
    { s with routes := (pkg, route) :: s.routes.filter (fun x => x.1 != pkg) })

/-- A waiting message goes to a package: its entry is valid. One in transit waits (R261). -/
def headsFor (s : State) (pkg : BitVec 12) (p : Packet) : Bool :=
  let e := rankUsed s p.ctx p.rank
  !rankLost s p.ctx p.rank && !rankBad e && rankState e != 2 && rankPkg e == pkg

/-- PACKAGE_FAILURE: elements toward the package are lost, requests to it fail with REASON 8 (R249, R258). -/
def execPackageFailure (pkg : BitVec 12) (s : State) : Host.Outcome State Fault Refusal :=
  .next (strand { s with
    unreachable := if s.unreachable.contains pkg then s.unreachable else pkg :: s.unreachable
    routes := s.routes.filter (fun x => x.1 != pkg)
    inject := s.inject.filter (fun p => !headsFor s pkg p)
    requests := (s.requests.filter (fun r => !(r.expired && r.pkg == pkg && r.pkg != s.pkgid))).map (fun r =>
      if !r.outside && r.pkg == pkg && r.pkg != s.pkgid && !r.performed then { r with stage := .failed 8 } else r) })

/-! ## Rank tables (R260, R261) -/

/-- A waiting message whose entry gives no destination is discarded (R261). -/
def dropBad (c : Ctx) (s : State) : State :=
  { s with inject := s.inject.filter (fun p => p.ctx != c || rankLost s c p.rank || !(rankBad (rankFresh s c p.rank))) }

/-- A write of RANKCNT: cached entries of the context are gone, and waiting messages are looked at again. -/
def writeRankcnt (v : Word) (s : State) : Option State :=
  if bits v.toNat 63 24 != 0 then none
  else some (dropBad s.asidSel (s.setCtx s.asidSel (fun c => { c with rankcnt := v, ranks := [] })))

/-- RANKCNT_WRITE (R260). -/
def execRankcntWrite (value : Word) (s : State) : Host.Outcome State Fault Refusal := .next ((writeRankcnt value s).getD s)

/-! ## Pod time (R262, R336) -/

/-- TIME corrected toward a reference, by at most 100 ppm of the time since the last correction, and never
decreased (R262). -/
def slew (reference : Nat) (s : State) : State :=
  let room := (s.cycle.toNat - s.syncAt) * 5 / 10000
  let now := s.time.toNat * 6 + s.timeFrac
  let want := reference * 6
  if room = 0 then s
  else if now < want then
    let x := now + min room (want - now)
    { s with time := BitVec.ofNat 64 (x / 6), timeFrac := x % 6, syncAt := s.cycle.toNat }
  else
    let back := min (min room (now - want)) s.timeFrac
    { s with timeFrac := s.timeFrac - back, syncAt := s.cycle.toNat }

/-- TIME lies within 25 ns of the reference (R262). -/
def holdsTime (reference : Nat) (s : State) : Bool := decide (s.time.toNat ≤ reference + 25) && decide (reference ≤ s.time.toNat + 25)

/-- TIME_SYNC: a package that cannot hold the reference sets TSYNCLOST and counts the loss (R262, R336). The package of the
primary Referee is the reference, and corrects nothing. `held` is the exchange's own report, which the clock overrules. -/
def execTimeSync (reference : Nat) (held : Bool) (s : State) : Host.Outcome State Fault Refusal :=
  if s.referee.role == .primary then .next s
  else
  let s1 := slew reference s
  let x := s1.rasOf 10
  if held && holdsTime reference s1 then .next (s1.setRas 10 (x &&& ~~~ (1 : Word)))
  else .next ((if bitOf x.toNat 0 then s1 else countRas 10 1 s1).setRas 10 ((if bitOf x.toNat 0 then s1 else countRas 10 1 s1).rasOf 10 ||| 1))

end Sys2Proof.Machine
end

