-- ==== Sys2Proof/Machine/Csr.lean ====
section
/-!
DEFINITION. Control registers (R53 to R57, R141, R215, R260, R285, R288, R320, R321, R360, R361) and the steps
that their writes are.
-/
namespace Sys2Proof.Machine

/-! ## RESMAP (R141, R142) -/

/-- A RESMAP value with a reserved field set, or a field out of its range (assumption 20). -/
def resmapBad (v : Nat) : Bool :=
  let op := bits v 1 0
  bits v 61 35 != 0 || decide (384 ≤ bits v 16 8) ||
    (op == 3 && (bits v 25 17 != 0 || decide (320 < bits v 34 26))) ||
    ((op == 1 || op == 2) && bits v 34 26 == 0)

/-- Resident granules of a context on a quire. -/
def residentCount (s : State) (c : Ctx) (quire : Nat) : Nat := (s.residents.filter (fun r => r.ctx == c && r.quire == quire)).length

/-- The quota of a context on a quire. -/
def quotaOf (s : State) (c : Nat) (quire : Nat) : Nat :=
  ((s.quotas.find? (fun (x, q, _) => x == c && q == quire)).map (fun (_, _, n) => n)).getD 0

/-- The granules of a range that are not resident to the context. -/
def newGranules (s : State) (c : Ctx) (quire first count : Nat) : List Nat :=
  ((List.range count).map (· + first)).filter (fun g => !s.residents.contains ⟨c, quire, g⟩)

/-- The status of a mark (R141): where a granule of another context and the quota both forbid it, either
status, by a free choice. -/
def markStatus (s : State) (c : Ctx) (quire first count : Nat) : Nat :=
  if 320 < first + count then 2
  else
    let taken := (List.range count).any (fun k => s.residents.any (fun r => r.ctx != c && r.quire == quire && r.granule == first + k))
    let exceeds := decide (quotaOf s c.toNat quire < residentCount s c quire + (newGranules s c quire first count).length)
    if taken && exceeds then (if Config.freeBit s.free then 1 else 3) else if taken then 3 else if exceeds then 1 else 0

/-- The status of a set-quota. -/
def quotaStatus (s : State) (c : Ctx) (quire n : Nat) : Nat :=
  let others := ((s.quotas.filter (fun (x, q, _) => q == quire && x != c.toNat)).map (fun (_, _, n) => n)).sum
  if 320 < others + n || n < residentCount s c quire then 1 else 0

/-- A RESMAP write (R141). -/
def writeResmap (v : Word) (s : State) : Option State :=
  let x := v.toNat
  let c : Ctx := BitVec.ofNat 6 (bits x 7 2)
  let quire := bits x 16 8
  let first := bits x 25 17
  let count := bits x 34 26
  if resmapBad x then none
  else
    let keep := fun (st : Nat) (s : State) => { s with resmap := BitVec.ofNat 64 (x % 2 ^ 62 + st * 2 ^ 62), free := s.free + 1 }
    match bits x 1 0 with
    | 0 => some (keep 0 s)
    | 1 =>
      let st := markStatus s c quire first count
      if st ≠ 0 then some (keep st s)
      else some (keep 0 { s with residents := s.residents ++ (newGranules s c quire first count).map (fun g => ⟨c, quire, g⟩) })
    | 2 =>
      if 320 < first + count then some (keep 2 s)
      else if (List.range count).any (fun k => s.residents.any (fun r => r.ctx != c && r.quire == quire && r.granule == first + k)) then
        some (keep 3 s)
      else some (keep 0 { s with residents := s.residents.filter (fun r =>
        !(r.ctx == c && r.quire == quire && decide (first ≤ r.granule) && decide (r.granule < first + count))) })
    | _ =>
      let st := quotaStatus s c quire count
      if st ≠ 0 then some (keep st s)
      else
        let rest := s.quotas.filter (fun (x, q, _) => !(x == c.toNat && q == quire))
        some (keep 0 { s with quotas := if count = 0 then rest else (c.toNat, quire, count) :: rest })

/-! ## CNTWIN (R56, R57) -/

/-- The window of a CNTWIN value. -/
def winBase (v : Word) : Nat := bits v.toNat 7 0
def winCount (v : Word) : Nat := bits v.toNat 16 8

/-- Two windows share a counter. -/
def winsMeet (a b : Word) : Bool :=
  winCount a != 0 && winCount b != 0 && decide (winBase a < winBase b + winCount b) && decide (winBase b < winBase a + winCount a)

/-- A context has a continuation that has neither exited nor faulted, or a job that is not terminal. -/
def ctxBusy (s : State) (c : Ctx) : Bool := s.threads.any (fun t => t.live && t.ctx == c) || s.jobs.any (fun j => j.ctx == c && j.stage != .ended)

/-- A CNTWIN write: the counters of the new window become 0 on every quire. -/
def writeCntwin (v : Word) (s : State) : Option State :=
  let c := s.asidSel
  if bits v.toNat 63 17 != 0 || 256 < winBase v + winCount v || ctxBusy s c ||
      (List.range 64).any (fun n => n != c.toNat && winsMeet v (s.ctx (BitVec.ofNat 6 n)).cntwin) then none
  else
    some { s.setCtx c (fun x => { x with cntwin := v }) with
      counters := s.counters.filter (fun (k, _) => !(decide (winBase v ≤ k % 256) && decide (k % 256 < winBase v + winCount v))) }

/-! ## ASIDCTL (R56) -/

/-- An ASIDCTL write. -/
def writeAsidctl (v : Word) (s : State) : Option State :=
  if bits v.toNat 63 8 != 0 then none
  else
    let c : Ctx := v.setWidth 6
    let s1 := { s with asidSel := c }
    some (if bitOf v.toNat 7 then s1 else s1.setCtx c (fun x => { x with enable := bitOf v.toNat 6 }))

/-- What ASIDCTL reads as. -/
def readAsidctl (s : State) : Word := BitVec.ofNat 64 (s.asidSel.toNat + b2n (s.ctx s.asidSel).enable * 64)

/-! ## BDTAB (R285) -/

/-- An entry of the domain table in memory. -/
def readDomain (s : State) (pa : Nat) : Domain :=
  let w := s.loadNat pa 8
  let m := ofBytesLE (s.mem.readBytes (pa + 8) 384)
  { valid := bitOf w 0, ctx := BitVec.ofNat 6 (bits w 6 1), plen := bits w 31 16, mask := m,
    reserved := bits w 15 7 != 0 || bits w 63 32 != 0 || ofBytesLE (s.mem.readBytes (pa + 392) 120) != 0 }

/-- A phase is open on the package. -/
def phaseOpen (s : State) : Bool := s.openPhases.any (·.isOpen s.cycle.toNat)

/-- A thread whose WHISTLE arrival is withdrawn at a core cycle: the hold ends (R297). -/
def Thread.withdraw (reason now : Nat) (t : Thread) : Thread :=
  match t.stall with
  | some (.whistle d since) =>
    { shiftPreempt since now t with
      stall := none, pendTraps := t.pendTraps ++ [⟨.outOfSlot, false, slotTval reason d 0, none, false⟩] }
  | _ => t

/-- A BDTAB write once no phase is open: the 64 entries are loaded, and pending arrivals withdrawn. -/
def writeBdtab (v : Word) (s : State) : Option State :=
  if reservedSet v.toNat 0x0000FFFFFFFFF000 then none
  else
    some { s with
      bdtab := v
      domains := Vector.ofFn (fun i : Fin 64 => readDomain s (v.toNat + 512 * i.val))
      th := if s.th.code == .running then s.th.withdraw 9 s.cycle.toNat else s.th
      others := s.others.map (·.withdraw 9 s.cycle.toNat) }

/-! ## The registers of a thread -/

/-- CORERANK (R54): the lowest valid rank that names this core. -/
def coreRank (s : State) : Nat :=
  ((List.range (s.ctx s.th.ctx).rankcnt.toNat).find? (fun r =>
    let e := rankFresh s s.th.ctx r
    !rankBad e && rankState e == 1 && rankPkg e == s.pkgid && rankQuire e == s.th.quire && rankCore e == s.th.core)).getD 0xFFFFFFFF

/-- PHASECYC (R288). -/
def phaseCyc (s : State) : Nat :=
  match s.th.phase with
  | none => 0
  | some p => (s.cycle.toNat - p.start) % 2 ^ 16 + 2 ^ 16 + p.domain * 2 ^ 17

/-- FEATBASE (R333). -/
def featBase : Reg := boundedCap 0x020000060000 0x020000060000 4096 0x001

/-- How a control register is accessed (R361): none where it is not listed. -/
def csrAccess (s : State) (n : Nat) : Option Bool :=
  if n ≤ 4 || n == 0x10 || n == 0x11 || n == 0x50 then some false
  else if n == 0x45 then (if s.feature 4 then some false else none)
  else if n == 0x44 then (if s.feature 4 then some true else none)
  else if n == 0x20 || (0x30 ≤ n && n ≤ 0x33) || (0x40 ≤ n && n ≤ 0x43) || n == 0x60 || n == 0x61 ||
      (0x100 ≤ n && n ≤ 0x10C) then some true
  else none

/-- The value that a control register reads as (R54, R56, R361). -/
def csrRead (n : Nat) (s : State) : Reg :=
  let t := s.th
  let x := s.ctx s.asidSel
  let d := fun (w : Nat) => Reg.ofData (BitVec.ofNat 64 w)
  match n with
  | 0x000 => d (t.slot % 8 + t.core % 8 * 8)
  | 0x001 => d (coreRank s)
  | 0x002 => d (t.quire % 512)
  | 0x003 => d s.pkgid.toNat
  | 0x004 => d t.ctx.toNat
  | 0x010 => Reg.ofData s.cycle
  | 0x011 => Reg.ofData s.time
  | 0x020 => Reg.ofData t.fstat
  | 0x030 => Reg.ofData t.cause
  | 0x031 => Reg.ofData t.tval
  | 0x032 => t.epc
  | 0x033 => t.tbase
  | 0x040 => t.routbase
  | 0x041 => t.lrtbase
  | 0x042 => t.shapebase
  | 0x043 => t.cbbase
  | 0x044 => t.ttbase
  | 0x045 => d (phaseCyc s)
  | 0x050 => featBase
  | 0x060 => d t.prio
  | 0x061 => Reg.ofData t.deadline
  | 0x100 => Reg.ofData x.ptroot
  | 0x101 => Reg.ofData (readAsidctl s)
  | 0x102 => Reg.ofData s.resmap
  | 0x103 => Reg.ofData x.cntwin
  | 0x104 => Reg.ofData x.spillbase
  | 0x105 => Reg.ofData x.ranktab
  | 0x106 => Reg.ofData x.rankcnt
  | 0x107 => Reg.ofData s.bdtab
  | 0x108 => Reg.ofData x.mode
  | 0x109 => Reg.ofData x.savebase
  | 0x10A => Reg.ofData x.stat
  | 0x10B => Reg.ofData x.poolbase
  | _ => Reg.ofData x.poolcnt

/-- What a capability register takes: a tagged value whole, else a null capability with the address (R53). -/
def capValue (r : Reg) : Reg := if r.tagged then r else Reg.ofData r.data

/-- The state with a plain register of the selected context set, where no reserved bit is set. -/
def writeCtxReg (v : Word) (mask : Nat) (f : Context → Word → Context) (s : State) : Option State :=
  if reservedSet v.toNat mask then none else some (s.setCtx s.asidSel (fun x => f x v))

/-- A plain register of the thread set, where no reserved bit is set. -/
def writeThreadReg (v : Word) (mask : Nat) (f : Thread → Word → Thread) (s : State) : Option State :=
  if reservedSet v.toNat mask then none else some (s.up (fun t => f t v))

/-- PRIO (R54): above the queue's priority, the queue's priority. -/
def writePrio (v : Word) (s : State) : Option State :=
  if bits v.toNat 63 7 != 0 then none else some (s.up (fun t => { t with prio := min v.toNat t.queuePrio }))

/-- A write of a register that is not read-only, with its write rule; nothing where it is refused. -/
def csrWrite (n : Nat) (r : Reg) (s : State) : Option State :=
  let v := r.data
  match n with
  | 0x020 => writeThreadReg v 0x31F (fun t w => { t with fstat := w }) s
  | 0x030 => writeThreadReg v 0x1FF (fun t w => { t with cause := w }) s
  | 0x031 => some (s.up (fun t => { t with tval := v }))
  | 0x032 => some (s.up (fun t => { t with epc := capValue r }))
  | 0x033 => some (s.up (fun t => { t with tbase := capValue r }))
  | 0x040 => some (s.up (fun t => { t with routbase := capValue r }))
  | 0x041 => some (s.up (fun t => { t with lrtbase := capValue r }))
  | 0x042 => some (s.up (fun t => { t with shapebase := capValue r }))
  | 0x043 => some (s.up (fun t => { t with cbbase := capValue r }))
  | 0x044 => some (s.up (fun t => { t with ttbase := capValue r }))
  | 0x060 => writePrio v s
  | 0x061 => some (s.up (fun t => { t with deadline := v }))
  | 0x100 => writeCtxReg v 0x0000FFFFFFFFF000 (fun x w => { x with ptroot := w }) s
  | 0x101 => writeAsidctl v s
  | 0x102 => writeResmap v s
  | 0x103 => writeCntwin v s
  | 0x104 => writeCtxReg v 0x00FFFFFFFFF00001 (fun x w => { x with spillbase := w }) s
  | 0x105 => writeCtxReg v 0x0000FFFFFFFFFFF8 (fun x w => { x with ranktab := w }) s
  | 0x106 => writeRankcnt v s
  | 0x107 => writeBdtab v s
  | 0x108 => writeCtxReg v 0x1 (fun x w => { x with mode := w }) s
  | 0x109 => writeCtxReg v 0x00FFFFFFFFFFF000 (fun x w => { x with savebase := w }) s
  | 0x10A => writeCtxReg v 0xFF03FFFF (fun x w => { x with stat := w }) s
  | 0x10B => if !(s.ctx s.asidSel).used.isEmpty then none else writeCtxReg v 0x00FFFFFFFFFF0000 (fun x w => { x with poolbase := w }) s
  | 0x10C => if !(s.ctx s.asidSel).used.isEmpty then none else writeCtxReg v 0xFFFFFFFF (fun x w => { x with poolcnt := w }) s
  | _ => none

/-- The checks of the register number before the operands (R53, R90, R360): `writes` for CSRW and CSRX. -/
def csrCheck (i : Instr) (n : Nat) (writes : Bool) (s : State) : Ev Unit :=
  match csrAccess s n with
  | none => illegal i
  | some rw =>
    if !wellFormedInstr i then illegal i
    else if 0x100 ≤ n && !s.priv then .error (.trap .privilege (wordTval i))
    else if writes && !rw then illegal i
    else .ok ()

/-- An entry that CORERANK's search reads is in uncorrectable error (R326). -/
def coreRankClean (s : State) : Ev Unit :=
  match (List.range (min (coreRank s + 1) (s.ctx s.th.ctx).rankcnt.toNat)).find? (fun r =>
      eccAt s ((s.ctx s.th.ctx).ranktab.toNat + 8 * r) 8) with
  | some r => .error (rankEcc s s.th.ctx r)
  | none => .ok ()

/-- What an access waits for before it acts: FSTAT for the sequencer (R162), a BDTAB write for the close of the open phases
(R285). CORERANK reads the rank table. -/
def csrWaits (n : Nat) (writes : Bool) (s : State) : Ev Unit :=
  if n = 0x020 then drained s
  else if n = 0x001 then coreRankClean s
  else if writes && n == 0x107 && phaseOpen s then again .noPhase
  else .ok ()

/-- The domain table that a BDTAB write loads is in uncorrectable error at some word (R285, R326). -/
def tableClean (n : Nat) (v : Word) (s : State) : Ev Unit :=
  match (if n = 0x107 then (List.range 4096).find? (fun k => eccAt s (v.toNat + 8 * k) 8) else none) with
  | some k => .error (.trap .eccUncorrected (BitVec.ofNat 64 (v.toNat + 8 * k)))
  | none => .ok ()

/-- A control-register write, where it sets no reserved field. -/
def csrStore (i : Instr) (n : Nat) (r : Reg) (s : State) : Ev State :=
  match csrWrite n r s with
  | none => illegal i
  | some s1 => do
    csrWaits n true s
    tableClean n r.data s
    return s1

/-- CSRR (R360). -/
def execCsrr (d : RegField) (n : BitVec 12) (s : State) : Host.Outcome State Fault Refusal :=
  finish s (do
    let i : Instr := .csrr d n
    csrCheck i n.toNat false s
    let (_, s1) ← operands i [] (some d) s
    csrWaits n.toNat false s1
    return (writeDest d (csrRead n.toNat s1) s1).advance 4)

/-- CSRW (R360). -/
def execCsrw (a : RegField) (n : BitVec 12) (s : State) : Host.Outcome State Fault Refusal :=
  finish s (do
    let i : Instr := .csrw a n
    csrCheck i n.toNat true s
    let (xs, s1) ← operands i [a] none s
    return (← csrStore i n.toNat (nth xs 0) s1).advance 4)

/-- CSRX: the old value is read before the write (R360). -/
def execCsrx (d a : RegField) (n : BitVec 12) (s : State) : Host.Outcome State Fault Refusal :=
  finish s (do
    let i : Instr := .csrx d a n
    csrCheck i n.toNat true s
    let (xs, s1) ← operands i [a] (some d) s
    return (writeDest d (csrRead n.toNat s1) (← csrStore i n.toNat (nth xs 0) s1)).advance 4)

/-! ## The same writes as steps of their own -/

/-- RESMAP_MARK, RESMAP_UNMARK and RESMAP_SET_QUOTA: a RESMAP write of one operation. -/
def resmapStep (op : Nat) (value : Word) (s : State) : State :=
  if bits value.toNat 1 0 = op then (writeResmap value s).getD s else s

/-- RESMAP_MARK (R141). -/
def execResmapMark (value : Word) (s : State) : Host.Outcome State Fault Refusal := .next (resmapStep 1 value s)

/-- RESMAP_UNMARK (R141). -/
def execResmapUnmark (value : Word) (s : State) : Host.Outcome State Fault Refusal := .next (resmapStep 2 value s)

/-- RESMAP_SET_QUOTA (R141). -/
def execResmapSetQuota (value : Word) (s : State) : Host.Outcome State Fault Refusal := .next (resmapStep 3 value s)

/-- CNTWIN_WRITE (R57). -/
def execCntwinWrite (value : Word) (s : State) : Host.Outcome State Fault Refusal := .next ((writeCntwin value s).getD s)

/-- ASIDCTL_WRITE (R56). -/
def execAsidctlWrite (value : Word) (s : State) : Host.Outcome State Fault Refusal := .next ((writeAsidctl value s).getD s)

/-- BDTAB_WRITE (R285): it waits while a phase is open. -/
def execBdtabWrite (value : Word) (s : State) : Host.Outcome State Fault Refusal :=
  .next (if phaseOpen s then s else (writeBdtab value s).getD s)

/-- PRIO_WRITE (R54). -/
def execPrioWrite (value : Word) (s : State) : Host.Outcome State Fault Refusal := .next ((writePrio value s).getD s)

/-- A function of PCI Express reaches the MMIO region, whose islands wake (R334). -/
def State.reached (s : State) : State := s.wake ioIslands

/-- REGISTER_WRITE: a register of the MMIO region, as a function of PCI Express writes it (R53, R299, R328). -/
def execRegisterWrite (fn pa : Nat) (value : Word) (s : State) : Host.Outcome State Fault Refusal :=
  .next (if inMmio pa && pa % 8 == 0 then mmioWrite fn pa value s.reached else s)

/-- DOORBELL (R100). -/
def execDoorbell (fn queue : Nat) (value : Word) (s : State) : Host.Outcome State Fault Refusal :=
  .next (writeQueueReg fn queue 16 value s.reached)

/-- QCTL_ENABLE (R98, R101). -/
def execQctlEnable (fn queue : Nat) (value : Word) (s : State) : Host.Outcome State Fault Refusal :=
  .next (writeQueueReg fn queue 32 value s.reached)

/-- QSCHED_WRITE (R300). -/
def execQschedWrite (fn queue : Nat) (value : Word) (s : State) : Host.Outcome State Fault Refusal :=
  .next (writeQueueReg fn queue 48 value s.reached)

/-- TIERW_WRITE (R301): through the PF only (R328). -/
def execTierwWrite (fn : Nat) (value : Word) (s : State) : Host.Outcome State Fault Refusal :=
  .next (if fn = 0 then writeTierw value s.reached else s)

/-- COLLCAN_WRITE (R274): through the PF only. -/
def execCollcanWrite (fn : Nat) (value : Word) (s : State) : Host.Outcome State Fault Refusal :=
  .next (if fn = 0 then writeCollcan value s.reached else s)

/-- ATTESTATION_GO (R332). -/
def execAttestationGo (fn : Nat) (value : Word) (s : State) : Host.Outcome State Fault Refusal :=
  .next (if fn = 0 then writeAttst value s.reached else s)

/-- PWRCTL_STATE_WRITE (R334). -/
def execPwrctlStateWrite (fn island : Nat) (value : Word) (s : State) : Host.Outcome State Fault Refusal :=
  .next (if fn = 0 then writePwrctl island value s.reached else s)

/-- PWRCTL_FSTEP_WRITE (R334). -/
def execPwrctlFstepWrite (fn island : Nat) (value : Word) (s : State) : Host.Outcome State Fault Refusal :=
  .next (if fn = 0 then writePwrctl island value s.reached else s)

/-- RAS_COUNTER_CLEAR (R336): by the PF. -/
def execRasCounterClear (fn k : Nat) (s : State) : Host.Outcome State Fault Refusal :=
  .next (if fn = 0 then clearRas k s.reached else s)

end Sys2Proof.Machine
end

