-- ==== Sys2Proof/Machine/System.lean ====
section
/-!
DEFINITION. The system family (R139, R314, R364, R382, R432 to R434) and the ends of its waits (R138, R139).
-/
namespace Sys2Proof.Machine

/-- PRIVILEGE for an unprivileged thread, ILLEGAL for a privileged gang member (R90, R314). -/
def privileged (i : Instr) (s : State) : Ev Unit :=
  if !wellFormedInstr i then illegal i
  else if !s.priv then .error (.trap .privilege (wordTval i)) else if s.th.ganged then illegal i else .ok ()

/-- TRAP: it completes, and its trap has EPC at the next word (R434). -/
def execTrap (c : BitVec 12) (s : State) : Host.Outcome State Fault Refusal :=
  match (do let (_, s1) ← operands (.trap c) [] none s; drained s1; return s1 : Ev State) with
  | .ok s1 => .next (takeTrap .trap false (zext64 c) (s1.th.pc + 4) false s1)
  | .error h => finish s (.error h)

/-- ERET (R314, R364). -/
def execEret (s : State) : Host.Outcome State Fault Refusal :=
  finish s (do
    privileged .eret s
    let (_, s1) ← operands .eret [] none s
    return returnFromTrap s1)

/-- IDLE: it continues with a mailbox entry or a pre-emption request (R382). -/
def execIdle (s : State) : Host.Outcome State Fault Refusal :=
  finish s (do
    privileged .idle s
    let (_, s1) ← operands .idle [] none s
    if !s1.th.mbox.isEmpty || s1.th.preempt.isSome then return s1.advance 4 else again .idle)

/-- The copies of a 4 KiB range in the instruction cache of the focus core are gone; the thread keeps the range for a core
that it is picked up on later (R432). -/
def dropLines (va : Nat) (s : State) : State :=
  { s with
    th := { s.th with synced := (s.th.synced.filter (· != va / 4096)) ++ [va / 4096] }
    icache := s.icache.filter (fun l =>
      !(l.quire == s.th.quire && l.core == s.th.core && l.ctx == s.th.ctx && l.va / 4096 == va / 4096)) }

/-- SYNCI (R432). -/
def execSynci (a : RegField) (s : State) : Host.Outcome State Fault Refusal :=
  finish s (do
    let (xs, s1) ← operands (.synci a) [a] none s
    drained s1
    performedAll s1
    return (dropLines (nth xs 0).data.toNat s1).advance 4)

/-- A selector that breaks R139's layout. -/
def selectorBad (v : Nat) : Bool :=
  let kind := bits v 63 62
  bits v 11 0 != 0 || kind == 3 || (kind != 0 && bits v 55 12 != 0) || (kind == 2 && bits v 61 56 != 0)

/-- The translations that a selector names (R139). -/
def selected (v : Nat) (e : TlbEntry) : Bool :=
  match bits v 63 62 with
  | 0 => e.ctx.toNat == bits v 61 56 && bits v 55 12 * 4096 / 2 ^ e.size * 2 ^ e.size == e.va
  | 1 => e.ctx.toNat == bits v 61 56
  | _ => true

/-- TLBI: it orders like a FENCE of all sets on both sides, and holds its slot until the acknowledgement (R139,
R433). One that a forced save abandoned issues again with the selector that it took (R322). -/
def execTlbi (a : RegField) (s : State) : Host.Outcome State Fault Refusal :=
  finish s (do
    let i : Instr := .tlbi a
    privileged i s
    let (v, s1) ← match s.th.abandoned with
      | some (.tlbi v) => (.ok (v, s) : Ev (Word × State))
      | _ => (operands i [a] none s).map (fun x => ((nth x.1 0).data, x.2))
    if selectorBad v.toNat then illegal i else pure ()
    drained s1
    fenceMsg s1
    return s1.up (fun t => { t with stall := some (.tlbi v), abandoned := none }))

/-- The slot thread that a predicate on its stall names first. -/
def stalledThread (p : Stall → Bool) (s : State) : Option Thread := s.slots.find? (fun t => t.stall.any p)

/-- A virtual address of a context lies in what a selector names (R139). -/
def names (v : Nat) (c : Ctx) (va : Nat) : Bool :=
  match bits v 63 62 with
  | 0 => c.toNat == bits v 61 56 && va / 2 ^ 30 == bits v 55 12 * 4096 / 2 ^ 30
  | 1 => c.toNat == bits v 61 56
  | _ => true

/-- Some byte of `n` at a virtual address lies in what a selector names: `n` is less than 1 GiB. -/
def namesRange (v : Nat) (c : Ctx) (va n : Nat) : Bool := names v c va || (decide (0 < n) && names v c (va + n - 1))

/-- A posted send has elements to read at what a selector names. -/
def Sending.reads (v now : Nat) (x : Sending) : Bool :=
  (List.range x.window.len).any (fun j => x.unread now j && namesRange v x.ctx (x.window.va + 8 * j) 8)

/-- A receive window of a thread's phase has elements to store. -/
def Window.stores (now start : Nat) (w : Window) : Bool :=
  !w.send && (decide (now < start + w.offset + 32 + w.len) || !w.held.isEmpty)

/-- A VLD or VST that stands behind a replay is still to access what a selector names. -/
def SeqEntry.accesses (v : Nat) (c : Ctx) (e : SeqEntry) : Bool :=
  e.work.any (fun w => !w.elems.isEmpty) && e.bytes.any (fun x => namesRange v c x.1 x.2)

/-- Accesses of threads that were translated through what a selector names are still to be made (R139): elements of
scheduled transfers, and of a VLD or VST behind a replay, also a saved one (R167). A page may be as large as 1 GiB. -/
def accessPending (v : Nat) (s : State) : Bool :=
  let now := s.cycle.toNat
  s.sends.any (·.reads v now) ||
    s.slots.any (fun t => t.phase.any (fun p => p.windows.any (fun w => namesRange v t.ctx w.va (8 * w.len) && w.stores now p.start && t.transfers))) ||
    s.seqs.any (fun e => (s.find e.launch e.tid).any (fun t => e.accesses v t.ctx)) ||
    s.conts.any (fun t => t.vecBehind.any (·.accesses v t.ctx))

/-- TLBI_ACKNOWLEDGEMENT: once every access through a matching translation is made, the matching entries are gone, and the
TLBI completes (R139). -/
def execTlbiAcknowledgement (s : State) : Host.Outcome State Fault Refusal :=
  match stalledThread (fun x => match x with | .tlbi _ => true | _ => false) s with
  | none => .next s
  | some t =>
    match t.stall with
    | some (.tlbi v) =>
      if accessPending v.toNat s then .next s
      else .next ({ s with tlb := s.tlb.filter (fun e => !selected v.toNat e) }.onThread t.launch t.tid (·.next 4))
    | _ => .next s

/-- A parked walk of a slot's thread. -/
def isParked : Stall → Bool
  | .retry (.walk _ _ _ _) => true
  | .retry (.spillWalk _ _ _) => true
  | _ => false

/-- The walk that a parked thread waits for now. -/
def parkedWalk (s : State) : Stall → Walk
  | .retry (.walk c va w _) => walk s c va (if w then .store else .load)
  | .retry (.spillWalk c va _) => walk s c va .store
  | _ => .park

/-- Since when a parked thread's walk has met MIG = 1. -/
def parkedFrom : Stall → Option Nat
  | .retry (.walk _ _ _ since) => some since
  | .retry (.spillWalk _ _ since) => some since
  | _ => none

/-- The walk of a slot's thread has read MIG = 1 for 10 ms. -/
def walkTimedOut (s : State) (x : Stall) : Bool :=
  (parkedFrom x).any (fun since => decide (since + tenMs ≤ s.cycle.toNat)) && parkedWalk s x == .park

/-- PARKED_WALK_RETRY: a walk that no longer meets MIG = 1 goes on: its instruction issues again (R138). -/
def execParkedWalkRetry (s : State) : Host.Outcome State Fault Refusal :=
  match s.slots.find? (fun t => t.stall.any (fun x => isParked x && parkedWalk s x != .park)) with
  | none => .next (retryImages s)
  | some t => .next (s.onThread t.launch t.tid (fun x => { x with stall := none, turn := some 0 }))

/-- MIGRATION_TIMEOUT: a walk that has read MIG = 1 for 10 ms is PAGE_FAULT, reason 4, or SPILL_FAULT at a push (R138, R214);
a gang breaks by it (R29). -/
def execMigrationTimeout (s : State) : Host.Outcome State Fault Refusal :=
  match s.slots.find? (fun t => t.stall.any (walkTimedOut s)) with
  | none => .next (retryImages s)
  | some t =>
    match t.stall with
    | some (.retry (.walk c va _ _)) =>
      let s1 := (breakAtWait (va != t.pc.toNat) t s).focusOn t.launch t.tid
      .next (takeTrap .pageFault false (migrationTval s c va) s1.th.pc (va == s1.th.pc.toNat) s1)
    | some (.retry (.spillWalk c va _)) =>
      let s1 := (breakAtWait false t s).focusOn t.launch t.tid
      .next (takeTrap .spillFault false (migrationTval s c va) s1.th.pc false s1)
    | _ => .next s

end Sys2Proof.Machine
end

