-- ==== Sys2Proof/Machine/Bsp.lean ====
section
/-!
DEFINITION. Barrier domains and scheduled transfers (R284 to R298, R425, R448).
-/
namespace Sys2Proof.Machine

/-- 1 ms in core cycles (R287). -/
def oneMs : Nat := 1200000

/-- OUT_OF_SLOT. -/
def outOfSlot {α : Type} (reason domain index : Nat) : Ev α := .error (.trap .outOfSlot (slotTval reason domain index))

/-- The number of a core in the package (R285). -/
def packageCore (quire core : Nat) : Nat := 8 * quire + core

/-- A core is a member of a domain. -/
def Domain.has (d : Domain) (c : Nat) : Bool := d.mask.testBit c

/-! ## WHISTLE (R286, R287) -/

/-- The thread has arrived in a domain. -/
def Thread.whistled (t : Thread) (n : Nat) : Bool :=
  match t.stall with
  | some (.whistle d _) => d == n
  | _ => false

/-- What forbids an arrival (R287). -/
def whistleBad (n : Nat) (s : State) : Bool :=
  let d := s.domain n
  let t := s.th
  decide (64 ≤ n) || !d.valid || d.ctx != t.ctx || d.reserved || decide (d.plen < 128) ||
    !d.has (packageCore t.quire t.core) ||
    s.others.any (fun x => x.quire == t.quire && x.core == t.core && x.whistled n)

/-- WHISTLE: it waits for an open phase to close, arrives and holds its slot. -/
def execWhistle (a : RegField) (s : State) : Host.Outcome State Fault Refusal :=
  finish s (do
    let i : Instr := .whistle a
    if !s.feature 4 then illegal i
    else
      let (xs, s1) ← operands i [a] none s
      let n := (nth xs 0).data.toNat
      acquired s1
      drained s1
      if s1.th.phase.isSome then again .phase
      else if whistleBad n s1 then outOfSlot 9 n 0
      else
        performedAll s1
        return s1.up (fun t => { t with stall := some (.whistle n s1.cycle.toNat) }))

/-- A member begins phase cycle 0 (R286). -/
def Thread.beginPhase (t : Thread) (n plen now : Nat) : Thread :=
  match t.stall with
  | some (.whistle _ since) =>
    { (shiftPreempt since now t).next 4 with phase := some ⟨n, now, plen, [], false⟩ }
  | _ => t

/-- `f` applied to every thread in a slot. -/
def State.onSlots (s : State) (f : Thread → Thread) : State :=
  { s with th := if s.th.code == .running then f s.th else s.th, others := s.others.map f }

/-- A core that holds a phase of a domain open: it is a member of one whose phase has not closed (R286). -/
def coreInPhase (s : State) (c : Nat) : Bool :=
  s.openPhases.any (fun p => p.isOpen s.cycle.toNat && (s.domain p.domain).has c)

/-- A clock change of an island that holds a member core, or of a mesh segment, is in progress (R298). -/
def clockChanging (s : State) (d : Domain) : Bool :=
  s.changing.any (fun i => decide (58 ≤ i % 64) ||
    (islandQuires i).any (fun q => (List.range 8).any (fun c => d.has (packageCore q c))))

/-- An arrived thread of a core within 1 ms of its arrival (R287). -/
def arrivedAt (s : State) (n c : Nat) (t : Thread) : Bool :=
  packageCore t.quire t.core == c &&
    (match t.stall with
     | some (.whistle d since) => d == n && decide (s.cycle.toNat < since + oneMs)
     | _ => false)

/-- Every member core of a domain has an arrived thread, none is in an open phase, and no clock change is in progress
(R286, R298). A domain whose own phase has not closed does not release again (assumption 56). -/
def releasable (s : State) (n : Nat) : Bool :=
  let d := s.domain n
  d.mask != 0 && (List.range 3072).all (fun c => !d.has c || (s.slots.any (arrivedAt s n c) && !coreInPhase s c)) && !clockChanging s d

/-- DOMAIN_RELEASE (R286). -/
def execDomainRelease (domain : Nat) (s : State) : Host.Outcome State Fault Refusal :=
  if releasable s domain then
    let plen := (s.domain domain).plen
    let s1 := s.onSlots (fun t => if t.whistled domain then t.beginPhase domain plen s.cycle.toNat else t)
    .next { s1 with openPhases := s.openPhases ++ [⟨domain, s.cycle.toNat, plen⟩] }
  else .next s

/-- PHASE_CLOSE at phase cycle PLEN: the cycles that pass beyond it close the phase as well. -/
def execPhaseClose (_domain : Nat) (s : State) : Host.Outcome State Fault Refusal := .next s.closePhases

/-- RELEASE_TIMEOUT: 1 ms after an arrival without release, every arrived member takes reason 10 (R287). -/
def execReleaseTimeout (domain : Nat) (s : State) : Host.Outcome State Fault Refusal :=
  if s.slots.any (fun t => match t.stall with
      | some (.whistle d since) => d == domain && decide (since + oneMs ≤ s.cycle.toNat)
      | _ => false) then
    .next (s.onSlots (fun t => if t.whistled domain then t.withdraw 10 s.cycle.toNat else t))
  else .next s

/-! ## Ports (R18, R289) -/

/-- A quire's package column and row (R18). -/
def quireX (q : Nat) : Nat := 12 * (q / 96 % 2) + q % 96 % 12
def quireY (q : Nat) : Nat := 8 * (q / 96 / 2) + q % 96 / 12

/-- The quire at a package column and row. -/
def quireAt (x y : Nat) : Nat := 96 * (2 * (y / 8) + x / 12) + 12 * (y % 8) + x % 12

/-- The quire to the north, east, south or west, none at the mesh edge (R289). -/
def neighbour (q dir : Nat) : Option Nat :=
  let x := quireX q
  let y := quireY q
  match dir with
  | 0 => if y = 0 then none else some (quireAt x (y - 1))
  | 1 => if x = 23 then none else some (quireAt (x + 1) y)
  | 2 => if y = 15 then none else some (quireAt x (y + 1))
  | _ => if x = 0 then none else some (quireAt (x - 1) y)

/-- The core that a port names. -/
def portCore (quire core port : Nat) : Option Nat :=
  if port < 8 then some (packageCore quire port)
  else if port < 12 then (neighbour quire (port - 8)).map (fun q => packageCore q core)
  else none

/-- The port at which what a core sends on `port` arrives. -/
def arrivalPort (core port : Nat) : Nat := if port < 8 then core else 8 + (port - 8 + 2) % 4

/-! ## SSEND and SRECV (R289 to R293) -/

/-- A timetable entry's words checked: OFFSET, PORT, LEN. -/
def entryFields (w : Nat) : Option (Nat × Nat × Nat) :=
  if bits w 63 28 != 0 || bits w 27 20 = 0 then none else some (bits w 15 0, bits w 19 16, bits w 27 20)

/-- The cycles of a window: its first one and its length (R291). -/
def windowStart (send : Bool) (offset : Nat) : Nat := if send then offset else offset + 32

/-- The window overlaps an earlier one of the phase. -/
def windowMeets (send : Bool) (offset port len : Nat) (w : Window) : Bool :=
  w.send == send && (send || w.port == port) && decide (offset < w.offset + w.len) && decide (w.offset < offset + len)

/-- The physical addresses of a buffer's elements; each page is translated once (R137). -/
def bufferPas (va : Nat) (acc : Access) : Nat → State → Ev (List Nat × State)
  | 0, s => .ok ([], s)
  | n + 1, s => do
    let (pa, s1) ← xlatePiece va acc s
    let (r, s2) ← bufferPas (va + 8) acc n s1
    return (pa :: r, s2)

/-- The first element of a buffer with an uncorrectable error (R326). -/
def firstEcc (va : Nat) (s : State) (pas : List Nat) : Nat := va + 8 * ((pas.findIdx? (fun pa => eccAt s pa 8)).getD 0)

/-- The checks of SSEND and SRECV, in their order: the window that is posted. -/
def scheduledChecks (send : Bool) (i : Nat) (s : State) : Ev (Window × State) :=
  match s.th.phase with
  | none => outOfSlot 1 0 i
  | some p => do
    let t := s.th
    let entry := (t.ttbase.addr + 16 * i) % 2 ^ 64
    capCheck t.ttbase entry 16 permLoad
    accessWaits false false entry 16 s
    let (bs, s2) ← loadBytesAt entry 16 s
    let w := ofBytesLE (bs.take 8)
    let va := ofBytesLE (bs.drop 8)
    match entryFields w with
    | none => outOfSlot 11 p.domain i
    | some (offset, port, len) =>
      match portCore t.quire t.core port with
      | none => outOfSlot 8 p.domain i
      | some c =>
        if !(s.domain p.domain).has c then outOfSlot 8 p.domain i
        else do
          capCheck (t.reg 2) va (8 * len) (if send then permLoad else permStore)
          aligned va 8
          bytesFree va (8 * len) s2
          remoteFree va (8 * len) s2
          let (pas, s3) ← bufferPas va (if send then .load else .store) len s2
          if pas.any (fun pa => !inSlices pa || sliceQuire pa != t.quire) then outOfSlot 7 p.domain i
          else if p.plen < offset + len + 32 then outOfSlot 3 p.domain i
          else if p.windows.any (windowMeets send offset port len) then outOfSlot 4 p.domain i
          else if windowStart send offset < s.cycle.toNat - p.start then outOfSlot 2 p.domain i
          else if send && pas.any (fun pa => eccAt s3 pa 8) then
            .error (.trap .eccUncorrected (BitVec.ofNat 64 (firstEcc va s3 pas)))
          else return (⟨send, i, offset, port, len, va, pas, [], []⟩, s3.chunksDone)

/-- A window posted in the thread's phase; a send at its interface as well. -/
def postWindow (w : Window) (s : State) : State :=
  let s1 := s.up (fun t => { t with phase := t.phase.map (fun p => { p with windows := p.windows ++ [w] }) })
  match s.th.phase with
  | some p =>
    if w.send then { s1 with sends := s.sends ++ [⟨s.th.quire, s.th.core, s.th.launch, s.th.tid, s.th.ctx, p.domain, p.start, w⟩] } else s1
  | none => s1

/-- The window of the SSEND or SRECV in progress: the last one that the phase has. -/
def Phase.last (p : Phase) : Option Window := p.windows.getLast?

/-- The SSEND in progress completes in phase cycle OFFSET (R292). -/
def ssendDone (now : Nat) (p : Phase) : Bool := p.last.any (fun w => w.send && decide (p.start + w.offset ≤ now))

/-- SSEND (R291). -/
def execSsend (a : RegField) (s : State) : Host.Outcome State Fault Refusal :=
  finish s (do
    let i : Instr := .ssend a
    if !s.feature 4 then illegal i
    else
      let (xs, s1) ← operands i [a, 2] none s
      acquired s1
      let (w, s2) ← scheduledChecks true (nth xs 0).data.toNat s1
      let s3 := postWindow w s2
      if s3.th.phase.any (ssendDone s.cycle.toNat) then return s3.advance 4
      else return s3.up (fun t => { t with stall := some (.ssend w.index) }))

/-- SRECV (R291, R293). -/
def execSrecv (a : RegField) (s : State) : Host.Outcome State Fault Refusal :=
  finish s (do
    let i : Instr := .srecv a
    if !s.feature 4 then illegal i
    else
      let (xs, s1) ← operands i [a, 2] none s
      acquired s1
      let (w, s2) ← scheduledChecks false (nth xs 0).data.toNat s1
      return (postWindow w s2).up (fun t => { t with stall := some (.srecv w.index) }))

/-- The window of the SRECV in progress, where its last cycle has passed (R293). -/
def srecvWindow (now : Nat) (p : Phase) : Option Window :=
  p.last.filter (fun w => !w.send && decide (p.start + w.offset + 32 + w.len ≤ now))

/-- Every cycle of the window captured an element. -/
def Window.full (w : Window) : Bool := (List.range w.len).all (w.got.contains ·)

/-- The captured elements of a window whose store no earlier send holds back any more, stored (R292). -/
def storeHeld (w : Window) (s : State) : State :=
  w.held.foldl (fun s x =>
    match w.pas[x.1]? with
    | some pa => s.storeNat s.th.ctx pa 8 x.2.toNat
    | none => s) s

/-- A captured element still waits for an earlier send of its bytes. -/
def Window.waits (w : Window) (s : State) : Bool :=
  w.held.any (fun x => sendPending s s.th.launch s.th.tid (w.va + 8 * x.1) 8)

/-! ## The lanes (R290, R294) -/

/-- The element of a send whose cycle it is. -/
def Sending.now (cycle : Nat) (x : Sending) : Option Nat :=
  if x.start + x.window.offset ≤ cycle ∧ cycle < x.start + x.window.offset + x.window.len then some (cycle - x.start - x.window.offset)
  else none

/-- SCHEDULED_ELEMENT_SEND: in phase cycle OFFSET + j the interface of a core reads element j and sends it (R290, R292),
whether or not the thread is still in the phase. One with an uncorrectable error is not sent, and its thread takes
ECC_UNCORRECTED (R326, assumption 56). -/
def execScheduledElementSend (quire core : Nat) (s : State) : Host.Outcome State Fault Refusal :=
  let cycle := s.cycle.toNat
  match s.sends.find? (fun x => x.quire == quire && x.core == core && (x.now cycle).any (x.unread cycle)) with
  | none => .next s
  | some x =>
    match portCore quire core x.window.port, (x.now cycle).bind (fun j => x.window.pas[j]?) with
    | some c, some pa =>
      let e : LaneElem := ⟨x.domain, cycle + 32, c, arrivalPort core x.window.port, BitVec.ofNat 64 (s.loadNat pa 8)⟩
      let sent : Sending := { x with window := { x.window with got := ((x.now cycle).toList) ++ x.window.got } }
      let s1 := { s.drawn pa 8 with sends := s.sends.map (fun y => if y == x then sent else y) }
      if eccAt s pa 8 then .next (s1.addTrap x.launch x.tid .eccUncorrected false (BitVec.ofNat 64 (x.window.va + 8 * ((x.now cycle).getD 0))))
      else .next { s1 with lanes := s1.lanes ++ [e] }
    | _, _ => .next s

/-- The receive window of a phase that captures what arrives on a port in a cycle, and the element's number. -/
def captureNow (now port : Nat) (p : Phase) : Option (Window × Nat) :=
  (p.windows.find? (fun w => !w.send && w.port == port && decide (p.start + w.offset + 32 ≤ now) &&
    decide (now < p.start + w.offset + 32 + w.len))).map (fun w => (w, now - p.start - w.offset - 32))

/-- A window of the phase changed. -/
def Phase.onWindow (p : Phase) (w : Window) (f : Window → Window) : Phase :=
  { p with windows := p.windows.map (fun v => if v == w then f v else v) }

/-- An element captured by a window of a thread: stored, or held until an earlier send has read its bytes (R292, R293). -/
def capture (t : Thread) (w : Window) (j : Nat) (payload : Word) (s : State) : State :=
  let wait := sendPending s t.launch t.tid (w.va + 8 * j) 8
  let f := fun (v : Window) => { v with got := j :: v.got, held := if wait then v.held ++ [(j, payload)] else v.held }
  let s1 := match (if wait then none else w.pas[j]?) with
    | some pa => s.storeNat t.ctx pa 8 payload.toNat
    | none => s
  s1.onThread t.launch t.tid (fun u => { u with phase := u.phase.map (fun p => p.onWindow w f) })

/-- SCHEDULED_ELEMENT: captured by the window that is open on its port, else discarded, and the member that is still in
the phase takes reason 6 at the close (R290, R293, R294). -/
def execScheduledElement (quire core port : Nat) (payload : Word) (s : State) : Host.Outcome State Fault Refusal :=
  match s.lanes.find? (fun x => x.due == s.cycle.toNat && x.core == packageCore quire core && x.port == port && x.payload == payload) with
  | none => .next s
  | some x =>
    let s1 := { s with lanes := s.lanes.erase x }
    match s.slots.find? (fun t => t.quire == quire && t.core == core && t.phase.any (·.domain == x.domain)) with
    | none => .next s1
    | some t =>
      match t.phase.bind (captureNow s.cycle.toNat port) with
      | none => .next (s1.onThread t.launch t.tid (fun u => { u with phase := u.phase.map (fun p => { p with stray := true }) }))
      | some (w, j) => .next (capture t w j payload s1)

end Sys2Proof.Machine
end

