-- ==== Sys2Proof/Machine/Cap.lean ====
section
/-!
DEFINITION. The capability family (R345, R349 to R351, R359).
-/
namespace Sys2Proof.Machine

/-- A capability trap at an address. -/
def capTrap {α : Type} (c : Cause) (addr : Nat) : Ev α := .error (.trap c (BitVec.ofNat 64 addr))

/-- The capability `a` narrowed to exponent `e` over the units `lo` to `hi`, its address and permissions kept. -/
def narrowed (a : Reg) (e lo hi : Nat) : Reg := mkCap a.addr e lo hi a.perm

/-- CBND and CBND.x (R349): the bounds of `len` bytes at a's address, rounded outward, or refused where
`exact` allows no rounding. -/
def bounded (exact : Bool) (a : Reg) (len : Nat) : Ev Reg :=
  let base := a.addr
  let top := base + len
  if !a.tagged then capTrap .capTag base
  else if 2 ^ 64 < top then capTrap .capBounds base
  else if len = 0 then
    if base < capBase a || capTop a < base then capTrap .capBounds base
    else .ok (narrowed a 51 0 0)
  else
    let e := leastExp base top 50 0
    let nb := base / 2 ^ e * 2 ^ e
    let nt := ceilDiv top (2 ^ e) * 2 ^ e
    if exact && (nb != base || nt != top) then capTrap .capBounds base
    else if nb < capBase a then capTrap .capBounds nb
    else if capTop a < nt then capTrap .capBounds (max nb (capTop a))
    else .ok (narrowed a e (nb / 2 ^ e) (nt / 2 ^ e))

/-- CPRM (R359): the permissions ANDed with `mask`. -/
def restricted (a : Reg) (mask : Nat) : Ev Reg :=
  if !a.tagged then capTrap .capTag a.addr
  else .ok (mkCap a.addr a.exp a.baseField a.topField (Nat.land a.perm (mask % 2 ^ 16)))

/-- An instruction that computes one register value from its sources, or traps. -/
def computeReg (i : Instr) (srcs : List RegField) (d : RegField) (f : List Reg → Ev Reg) (s : State) :
    Host.Outcome State Fault Refusal :=
  finish s (do
    let (xs, s1) ← operands i srcs (some d) s
    let r ← f xs
    return (writeDest d r s1).advance 4)

/-- CBND (R349). -/
def execCbnd (d a b : RegField) (s : State) : Host.Outcome State Fault Refusal :=
  computeReg (.cbnd d a b) [a, b] d (fun xs => bounded false (nth xs 0) (nth xs 1).data.toNat) s

/-- CBND.x (R349). -/
def execCbndX (d a b : RegField) (s : State) : Host.Outcome State Fault Refusal :=
  computeReg (.cbndX d a b) [a, b] d (fun xs => bounded true (nth xs 0) (nth xs 1).data.toNat) s

/-- CPRM (R359). -/
def execCprm (d a b : RegField) (s : State) : Host.Outcome State Fault Refusal :=
  computeReg (.cprm d a b) [a, b] d (fun xs => restricted (nth xs 0) (nth xs 1).data.toNat) s

/-- A field of a tagged capability, 0 of an untagged value (R351). -/
def capField (a : Reg) (x : Nat) : Word := if a.tagged then BitVec.ofNat 64 x else 0

/-- CGET.base (R351). -/
def execCgetBase (d a : RegField) (s : State) : Host.Outcome State Fault Refusal :=
  compute (.cgetBase d a) [a] d (fun xs => capField (nth xs 0) (capBase (nth xs 0))) s

/-- CGET.len (R351). -/
def execCgetLen (d a : RegField) (s : State) : Host.Outcome State Fault Refusal :=
  compute (.cgetLen d a) [a] d (fun xs => capField (nth xs 0) (capTop (nth xs 0) - capBase (nth xs 0))) s

/-- CGET.perm (R351). -/
def execCgetPerm (d a : RegField) (s : State) : Host.Outcome State Fault Refusal :=
  compute (.cgetPerm d a) [a] d (fun xs => capField (nth xs 0) (nth xs 0).perm) s

/-- CGET.tag (R351). -/
def execCgetTag (d a : RegField) (s : State) : Host.Outcome State Fault Refusal :=
  compute (.cgetTag d a) [a] d (fun xs => capField (nth xs 0) 1) s

/-- CCLR: the address as data (R350). -/
def execCclr (d a : RegField) (s : State) : Host.Outcome State Fault Refusal :=
  compute (.cclr d a) [a] d (fun xs => (nth xs 0).data) s

/-- CADD (R345). -/
def execCadd (d a b : RegField) (s : State) : Host.Outcome State Fault Refusal :=
  computeReg (.cadd d a b) [a, b] d (fun xs => .ok ((nth xs 0).moveTo ((nth xs 0).addr + (nth xs 1).data.toNat))) s

/-- CADDI (R345). -/
def execCaddi (d a : RegField) (i : BitVec 14) (s : State) : Host.Outcome State Fault Refusal :=
  computeReg (.caddi d a i) [a] d (fun xs => .ok ((nth xs 0).moveTo ((nth xs 0).addr + (sext64 i).toNat))) s

end Sys2Proof.Machine
end

