-- ==== Sys2Proof/Machine/Int.lean ====
section
/-!
DEFINITION. The integer family (R337, R340, R343, R353, R363, R395, R397, R400, R402, R403, R419, R421,
R423, R429, R449).
-/
namespace Sys2Proof.Machine

/-! ## Results on 64-bit data -/

/-- The signed quotient (R363). -/
def divS (a b : Word) : Word := if b = 0 then BitVec.allOnes 64 else BitVec.ofInt 64 (a.toInt.tdiv b.toInt)

/-- The unsigned quotient (R363). -/
def divU (a b : Word) : Word := if b = 0 then BitVec.allOnes 64 else BitVec.ofNat 64 (a.toNat / b.toNat)

/-- The signed remainder, with the sign of the dividend (R363). -/
def remS (a b : Word) : Word := if b = 0 then a else BitVec.ofInt 64 (a.toInt.tmod b.toInt)

/-- The unsigned remainder (R363). -/
def remU (a b : Word) : Word := if b = 0 then a else BitVec.ofNat 64 (a.toNat % b.toNat)

/-- Bits [127:64] of the signed product (R400). -/
def mulHighS (a b : Word) : Word := BitVec.ofInt 64 (a.toInt * b.toInt / 2 ^ 64)

/-- Bits [127:64] of the unsigned product (R400). -/
def mulHighU (a b : Word) : Word := BitVec.ofNat 64 (a.toNat * b.toNat / 2 ^ 64)

/-- The shift kinds of SHI and the register forms (R423), by an amount below 64. -/
def shiftLeft (a : Word) (n : Nat) : Word := a <<< n
def shiftRight (a : Word) (n : Nat) : Word := a >>> n
def shiftArith (a : Word) (n : Nat) : Word := a.sshiftRight n
def rotateRight (a : Word) (n : Nat) : Word := a.rotateRight n

/-- b[5:0] (R423). -/
def amount (b : Word) : Nat := b.toNat % 64

/-- SHI's kinds (R423). -/
def shiftKind (k : BitVec 2) (a : Word) (n : Nat) : Word :=
  if k = 0 then shiftLeft a n else if k = 1 then shiftRight a n
  else if k = 2 then shiftArith a n else rotateRight a n

/-- The conditions of SET, SETI and B (R79, R421): 0 eq, 1 ne, 2 lt, 3 ge, 4 lt.u, 5 ge.u. -/
def condHolds (c : BitVec 3) (a b : Word) : Bool :=
  if c = 0 then a == b else if c = 1 then a != b
  else if c = 2 then a.slt b else if c = 3 then !a.slt b
  else if c = 4 then a.ult b else !a.ult b

/-- Zero bits above the highest set bit of an n-bit number. -/
def leadingZeros (n x : Nat) : Nat := if x = 0 then n else n - 1 - Nat.log2 x

/-- Zero bits below the lowest set bit, at most `n`. -/
def trailingZeros : Nat → Nat → Nat
  | 0, _ => 0
  | n + 1, x => if x % 2 = 1 then 0 else 1 + trailingZeros n (x / 2)

/-- Set bits among the lowest `n`. -/
def setBits : Nat → Nat → Nat
  | 0, _ => 0
  | n + 1, x => x % 2 + setBits n (x / 2)

/-! ## The meanings -/

/-- ADD: d ← a + b (R340). -/
def execAdd (d a b : RegField) (s : State) : Host.Outcome State Fault Refusal :=
  binary (.add d a b) d a b (fun x y => x + y) s

/-- SUB: d ← a − b (R429). -/
def execSub (d a b : RegField) (s : State) : Host.Outcome State Fault Refusal :=
  binary (.sub d a b) d a b (fun x y => x - y) s

/-- MUL: the low half of the product (R400). -/
def execMul (d a b : RegField) (s : State) : Host.Outcome State Fault Refusal :=
  binary (.mul d a b) d a b (fun x y => x * y) s

/-- MULH: the high half of the signed product (R400). -/
def execMulh (d a b : RegField) (s : State) : Host.Outcome State Fault Refusal :=
  binary (.mulh d a b) d a b (fun x y => mulHighS x y) s

/-- MULH.u: the high half of the unsigned product (R400). -/
def execMulhU (d a b : RegField) (s : State) : Host.Outcome State Fault Refusal :=
  binary (.mulhU d a b) d a b (fun x y => mulHighU x y) s

/-- DIV (R363). -/
def execDiv (d a b : RegField) (s : State) : Host.Outcome State Fault Refusal :=
  binary (.div d a b) d a b (fun x y => divS x y) s

/-- DIV.u (R363). -/
def execDivU (d a b : RegField) (s : State) : Host.Outcome State Fault Refusal :=
  binary (.divU d a b) d a b (fun x y => divU x y) s

/-- REM (R363). -/
def execRem (d a b : RegField) (s : State) : Host.Outcome State Fault Refusal :=
  binary (.rem d a b) d a b (fun x y => remS x y) s

/-- REM.u (R363). -/
def execRemU (d a b : RegField) (s : State) : Host.Outcome State Fault Refusal :=
  binary (.remU d a b) d a b (fun x y => remU x y) s

/-- AND (R343). -/
def execAnd (d a b : RegField) (s : State) : Host.Outcome State Fault Refusal :=
  binary (.and d a b) d a b (fun x y => x &&& y) s

/-- ANDN: d ← a and not b (R343). -/
def execAndn (d a b : RegField) (s : State) : Host.Outcome State Fault Refusal :=
  binary (.andn d a b) d a b (fun x y => x &&& ~~~y) s

/-- OR (R403). -/
def execOr (d a b : RegField) (s : State) : Host.Outcome State Fault Refusal :=
  binary (.or d a b) d a b (fun x y => x ||| y) s

/-- XOR (R449). -/
def execXor (d a b : RegField) (s : State) : Host.Outcome State Fault Refusal :=
  binary (.xor d a b) d a b (fun x y => x ^^^ y) s

/-- SHL (R423). -/
def execShl (d a b : RegField) (s : State) : Host.Outcome State Fault Refusal :=
  binary (.shl d a b) d a b (fun x y => shiftLeft x (amount y)) s

/-- SHR (R423). -/
def execShr (d a b : RegField) (s : State) : Host.Outcome State Fault Refusal :=
  binary (.shr d a b) d a b (fun x y => shiftRight x (amount y)) s

/-- SHR.a (R423). -/
def execShrA (d a b : RegField) (s : State) : Host.Outcome State Fault Refusal :=
  binary (.shrA d a b) d a b (fun x y => shiftArith x (amount y)) s

/-- ROT (R423). -/
def execRot (d a b : RegField) (s : State) : Host.Outcome State Fault Refusal :=
  binary (.rot d a b) d a b (fun x y => rotateRight x (amount y)) s

/-- MIN: the lesser, signed (R395). -/
def execMin (d a b : RegField) (s : State) : Host.Outcome State Fault Refusal :=
  binary (.min d a b) d a b (fun x y => if x.slt y then x else y) s

/-- MIN.u: the lesser, unsigned (R395). -/
def execMinU (d a b : RegField) (s : State) : Host.Outcome State Fault Refusal :=
  binary (.minU d a b) d a b (fun x y => if x.ult y then x else y) s

/-- MAX: the greater, signed (R395). -/
def execMax (d a b : RegField) (s : State) : Host.Outcome State Fault Refusal :=
  binary (.max d a b) d a b (fun x y => if x.slt y then y else x) s

/-- MAX.u: the greater, unsigned (R395). -/
def execMaxU (d a b : RegField) (s : State) : Host.Outcome State Fault Refusal :=
  binary (.maxU d a b) d a b (fun x y => if x.ult y then y else x) s

/-- SEL: d ← (d ≠ 0) ? a : b, with d read before it is written (R76, R419). -/
def execSel (d a b : RegField) (s : State) : Host.Outcome State Fault Refusal :=
  compute (.sel d a b) [a, b, d] d (fun xs => if (nth xs 2).data ≠ 0 then (nth xs 0).data else (nth xs 1).data) s

/-- CLZ (R353). -/
def execClz (d a : RegField) (s : State) : Host.Outcome State Fault Refusal :=
  unary (.clz d a) d a (fun x => BitVec.ofNat 64 (leadingZeros 64 x.toNat)) s

/-- CTZ (R353). -/
def execCtz (d a : RegField) (s : State) : Host.Outcome State Fault Refusal :=
  unary (.ctz d a) d a (fun x => BitVec.ofNat 64 (trailingZeros 64 x.toNat)) s

/-- POPC (R353). -/
def execPopc (d a : RegField) (s : State) : Host.Outcome State Fault Refusal :=
  unary (.popc d a) d a (fun x => BitVec.ofNat 64 (setBits 64 x.toNat)) s

/-- SET (R421). -/
def execSet (d a b : RegField) (c : BitVec 3) (s : State) : Host.Outcome State Fault Refusal :=
  binary (.set d a b c) d a b (fun x y => b2w (condHolds c x y)) s

/-- ADDSH: d ← (a << (s + 1)) + b, for the field s of 0 to 3 (R76, R340). -/
def execAddsh (d a b : RegField) (k : BitVec 2) (s : State) : Host.Outcome State Fault Refusal :=
  binary (.addsh d a b k) d a b (fun x y => (x <<< (k.toNat + 1)) + y) s

/-- ADDI (R340). -/
def execAddi (d a : RegField) (i : BitVec 14) (s : State) : Host.Outcome State Fault Refusal :=
  unary (.addi d a i) d a (fun x => x + sext64 i) s

/-- NOP has no effect and moves on (R402). -/
def execNop (s : State) : Host.Outcome State Fault Refusal := .next (s.advance 4)

/-- ANDI (R343). -/
def execAndi (d a : RegField) (i : BitVec 14) (s : State) : Host.Outcome State Fault Refusal :=
  unary (.andi d a i) d a (fun x => x &&& sext64 i) s

/-- ORI (R403). -/
def execOri (d a : RegField) (i : BitVec 14) (s : State) : Host.Outcome State Fault Refusal :=
  unary (.ori d a i) d a (fun x => x ||| sext64 i) s

/-- XORI (R449). -/
def execXori (d a : RegField) (i : BitVec 14) (s : State) : Host.Outcome State Fault Refusal :=
  unary (.xori d a i) d a (fun x => x ^^^ sext64 i) s

/-- SHI (R423). -/
def execShi (d a : RegField) (k : BitVec 2) (n : BitVec 6) (s : State) : Host.Outcome State Fault Refusal :=
  unary (.shi d a k n) d a (fun x => shiftKind k x n.toNat) s

/-- SETI (R421). -/
def execSeti (d a : RegField) (c : BitVec 3) (i : BitVec 11) (s : State) : Host.Outcome State Fault Refusal :=
  unary (.seti d a c i) d a (fun x => b2w (condHolds c x (sext64 i))) s

/-- MOVI (R397). -/
def execMovi (d : RegField) (i : BitVec 20) (s : State) : Host.Outcome State Fault Refusal :=
  compute (.movi d i) [] d (fun _ => sext64 i) s

/-- MOVHI: d ← (d << 20) or zext(imm20) (R397). -/
def execMovhi (d : RegField) (i : BitVec 20) (s : State) : Host.Outcome State Fault Refusal :=
  unary (.movhi d i) d d (fun x => (x <<< 20) ||| zext64 i) s

/-- MULI (R400). -/
def execMuli (d a : RegField) (i : BitVec 14) (s : State) : Host.Outcome State Fault Refusal :=
  unary (.muli d a i) d a (fun x => x * sext64 i) s

end Sys2Proof.Machine
end

