-- ==== Sys2Proof/Machine/Control.lean ====
section
/-!
DEFINITION. Branches and jumps (R344, R383 to R385).
-/
namespace Sys2Proof.Machine

/-- The address `n` words from the instruction at PC. -/
def Thread.wordsFrom (t : Thread) (n : Word) : Word := t.pc + 4 * n

/-- Control goes to `target`. -/
def State.jumpTo (s : State) (target : Word) : State := s.up (fun t => { t with pc := target, stall := none, turn := none })

/-- Whether B's condition holds (R79, R344): 6 is z. -/
def branchTaken (c : BitVec 3) (x y : Word) : Bool := if c = 6 then x == 0 else condHolds c x y

/-- The thread is a follower of a gang, whose leader's values decide where control goes (R26). -/
def State.follows (s : State) : Bool := s.th.ganged && s.th.gpos != 0

/-- B (R344). A gang's follower reads its operands only (R26). -/
def execB (a b : RegField) (c : BitVec 3) (o : BitVec 11) (s : State) : Host.Outcome State Fault Refusal :=
  finish s (do
    let (xs, s1) ← operands (.b a b c o) [a, b] none s
    if branchTaken c (nth xs 0).data (nth xs 1).data && !s.follows then return s1.jumpTo (s.th.wordsFrom (sext64 o))
    else return s1.advance 4)

/-- J (R383). -/
def execJ (o : BitVec 26) (s : State) : Host.Outcome State Fault Refusal :=
  finish s (do
    let (_, s1) ← operands (.j o) [] none s
    return s1.jumpTo (s.th.wordsFrom (sext64 o)))

/-- JAL: the link is data (R384). -/
def execJal (d : RegField) (i : BitVec 20) (s : State) : Host.Outcome State Fault Refusal :=
  finish s (do
    let (_, s1) ← operands (.jal d i) [] (some d) s
    return (writeData d (s.th.pc + 4) s1).jumpTo (s.th.wordsFrom (sext64 i)))

/-- JR: a tagged a replaces the fetch capability (R385). A gang's follower pops and links only: the leader's value
decides where the jump goes (R26). -/
def execJr (d a : RegField) (i : BitVec 14) (s : State) : Host.Outcome State Fault Refusal :=
  finish s (do
    let (xs, s1) ← operands (.jr d a i) [a] (some d) s
    let c := nth xs 0
    let t := c.data + 4 * sext64 i
    if s.follows then return (writeData d (s.th.pc + 4) s1).advance 4
    else if t.toNat % 4 ≠ 0 then .error (.trap .misalign t)
    else
      let s2 := writeData d (s.th.pc + 4) s1
      return (if c.tagged then s2.up (fun x => { x with fetchCap := c.atAddr t.toNat }) else s2).jumpTo t)

end Sys2Proof.Machine
end

