-- ==== Sys2Proof/Machine/Counter.lean ====
section
/-!
DEFINITION. Completion counters as threads use them (R52, R153, R354, R355).
-/
namespace Sys2Proof.Machine

/-- The counter number of a counter word: fn[7:6] joined to b (R84). -/
def counterNum (k : BitVec 6) (h : BitVec 2) : Nat := h.toNat * 64 + k.toNat

/-- The counter that a word names, ILLEGAL beyond the window (R52). -/
def counterFor (i : Instr) (k : BitVec 6) (h : BitVec 2) (s : State) : Ev Nat :=
  match counterOf s s.th.ctx (counterNum k h) with
  | some n => .ok n
  | none => illegal i

/-- CNTW: stalls in the slot until the counter is at or above a (R354). -/
def execCntw (a : RegField) (k : BitVec 6) (h : BitVec 2) (s : State) : Host.Outcome State Fault Refusal :=
  finish s (do
    let i : Instr := .cntw a k h
    let (xs, s1) ← operands i [a] none s
    let n ← counterFor i k h s1
    acquired s1
    if (nth xs 0).data.toNat ≤ (s1.counter s1.th.quire n).toNat then return s1.advance 4
    else again (.counter s1.th.quire n (nth xs 0).data))

/-- CNTR (R354). -/
def execCntr (d : RegField) (k : BitVec 6) (h : BitVec 2) (s : State) : Host.Outcome State Fault Refusal :=
  finish s (do
    let i : Instr := .cntr d k h
    let (_, s1) ← operands i [] (some d) s
    let n ← counterFor i k h s1
    acquired s1
    return (writeData d (s1.counter s1.th.quire n) s1).advance 4)

/-- CNTS (R354, R162). -/
def execCnts (a : RegField) (k : BitVec 6) (h : BitVec 2) (s : State) : Host.Outcome State Fault Refusal :=
  finish s (do
    let i : Instr := .cnts a k h
    let (xs, s1) ← operands i [a] none s
    let n ← counterFor i k h s1
    acquired s1
    drained s1
    return (s1.setCounter s1.th.quire n (nth xs 0).data).advance 4)

/-- CNTA (R354, R162). -/
def execCnta (a : RegField) (k : BitVec 6) (h : BitVec 2) (s : State) : Host.Outcome State Fault Refusal :=
  finish s (do
    let i : Instr := .cnta a k h
    let (xs, s1) ← operands i [a] none s
    let n ← counterFor i k h s1
    acquired s1
    drained s1
    return (s1.setCounter s1.th.quire n (s1.counter s1.th.quire n + (nth xs 0).data)).advance 4)

end Sys2Proof.Machine
end

