-- ==== Sys2Proof/Machine/Sha3.lean ====
section
/-!
DEFINITION. SHA3-256 (R330, R332), the function that the manual names: the sponge over Keccak-f[1600].
-/
namespace Sys2Proof.Machine

/-- A 64-bit lane turned left. -/
def rotl64 (x n : Nat) : Nat := x * 2 ^ (n % 64) % 2 ^ 64 + x / 2 ^ (64 - n % 64)

/-- The rotation of lane x + 5y. -/
def keccakTurns : List Nat :=
  [0, 1, 62, 28, 27, 36, 44, 6, 55, 20, 3, 10, 43, 25, 39, 41, 45, 15, 21, 8, 18, 2, 61, 56, 14]

/-- The round constants. -/
def keccakConstants : List Nat :=
  [0x0000000000000001, 0x0000000000008082, 0x800000000000808A, 0x8000000080008000, 0x000000000000808B, 0x0000000080000001,
   0x8000000080008081, 0x8000000000008009, 0x000000000000008A, 0x0000000000000088, 0x0000000080008009, 0x000000008000000A] ++
  [0x000000008000808B, 0x800000000000008B, 0x8000000000008089, 0x8000000000008003, 0x8000000000008002, 0x8000000000000080,
   0x000000000000800A, 0x800000008000000A, 0x8000000080008081, 0x8000000000008080, 0x0000000080000001, 0x8000000080008008]

/-- Lane (x, y) of a state of 25 lanes. -/
def laneAt (a : List Nat) (x y : Nat) : Nat := a.getD (x % 5 + 5 * (y % 5)) 0

/-- The exclusive or of a column. -/
def columnXor (a : List Nat) (x : Nat) : Nat := (List.range 5).foldl (fun z y => Nat.xor z (laneAt a x y)) 0

/-- Theta. -/
def keccakTheta (a : List Nat) : List Nat :=
  let c := (List.range 5).map (columnXor a)
  (List.range 25).map (fun i => Nat.xor (a.getD i 0) (Nat.xor (c.getD ((i + 4) % 5) 0) (rotl64 (c.getD ((i + 1) % 5) 0) 1)))

/-- Rho and pi: lane (x, y) comes from lane (x + 3y, x), turned. -/
def keccakRhoPi (a : List Nat) : List Nat :=
  (List.range 25).map (fun i =>
    let j := (i % 5 + 3 * (i / 5)) % 5 + 5 * (i % 5)
    rotl64 (a.getD j 0) (keccakTurns.getD j 0))

/-- Chi. -/
def keccakChi (a : List Nat) : List Nat :=
  (List.range 25).map (fun i =>
    Nat.xor (a.getD i 0) (Nat.land (2 ^ 64 - 1 - laneAt a (i + 1) (i / 5)) (laneAt a (i + 2) (i / 5))))

/-- One round, with iota. -/
def keccakRound (a : List Nat) (k : Nat) : List Nat :=
  match keccakChi (keccakRhoPi (keccakTheta a)) with
  | x :: r => Nat.xor x k :: r
  | [] => []

/-- Keccak-f[1600]. -/
def keccak (a : List Nat) : List Nat := keccakConstants.foldl keccakRound a

/-- The lanes of a block of 136 bytes. -/
def blockLanes (bs : List Byte) : List Nat := (List.range 25).map (fun i => ofBytesLE ((bs.drop (8 * i)).take 8))

/-- A block absorbed. -/
def absorb (a : List Nat) (block : List Byte) : List Nat := keccak (List.zipWith Nat.xor a (blockLanes block))

/-- The blocks absorbed in order. -/
def absorbAll : Nat → List Byte → List Nat → List Nat
  | 0, _, a => a
  | n + 1, bs, a => absorbAll n (bs.drop 136) (absorb a (bs.take 136))

/-- The padding of SHA3 for a message of `n` bytes. -/
def sha3Pad (n : Nat) : List Byte :=
  let k := 136 - n % 136
  if k = 1 then [0x86] else (0x06 : Byte) :: List.replicate (k - 2) 0 ++ [0x80]

/-- SHA3-256: 32 bytes. -/
def sha3_256 (bs : List Byte) : List Byte :=
  ((absorbAll (bs.length / 136 + 1) (bs ++ sha3Pad bs.length) (List.replicate 25 0)).take 4).flatMap (toBytesLE 8)

end Sys2Proof.Machine
end

