-- ==== Sys2Proof/Machine/Device.lean ====
section
/-!
DEFINITION. The boot processor, the power manager and the scrub (R298, R326, R330 to R334, R336).
-/
namespace Sys2Proof.Machine

/-! ## BOOT (R330, R331, R333) -/

/-- Fields of a firmware image's header. -/
def fwMagic (img : List Byte) : Nat := ofBytesLE (img.take 4)
def fwVersion (img : List Byte) : Nat := ofBytesLE ((img.drop 4).take 4)
def fwLength (img : List Byte) : Nat := ofBytesLE ((img.drop 8).take 8)
def fwDigest (img : List Byte) : List Byte := (img.drop 16).take 32
def fwSignature (img : List Byte) : List Byte := (img.drop 48).take 2420
def fwBody (img : List Byte) : List Byte := (img.drop 2468).take (fwLength img)

/-- Why the boot ROM refuses an image: 0 accepted, 1 magic, 2 signature, 3 digest, 4 rollback. -/
def fwFailure (img : List Byte) : Nat :=
  if fwMagic img ≠ 0x42465753 then 1
  else if !Config.verifies (img.take 48) (fwSignature img) then 2
  else if sha3_256 (fwBody img) ≠ fwDigest img then 3
  else if fwVersion img < Config.minVersion.toNat then 4
  else 0

/-- BOOTST. -/
def mkBootst (slot afail bfail version : Nat) : Word := BitVec.ofNat 64 (slot + afail * 4 + bfail * 64 + version * 2 ^ 10)

/-- The feature ids of the SL-9, in walk order. -/
def featureIds : List Nat := [1, 2, 3, 4, 5, 6, 7, 8]

/-- The package runs the image of a slot. -/
def bootWith (slot afail bfail : Nat) (img : List Byte) (b : Boot) : Boot :=
  { b with bootst := mkBootst slot afail bfail (fwVersion img)
           disabled := b.failing
           defsig := Config.defectSignature b.failing
           features := featureIds
           digest := fwDigest img
           recovery := false }

/-- The boot ROM's choice: the slot with the higher VERSION first. -/
def bootRom (b : Boot) : Boot :=
  let a := fwFailure b.flashA
  let c := fwFailure b.flashB
  if fwVersion b.flashA < fwVersion b.flashB then
    (if c = 0 then bootWith 2 0 0 b.flashB b
     else if a = 0 then bootWith 1 0 c b.flashA b
     else { b with bootst := mkBootst 0 a c 0 })
  else if a = 0 then bootWith 1 0 0 b.flashA b
  else if c = 0 then bootWith 2 a 0 b.flashB b
  else { b with bootst := mkBootst 0 a c 0 }

/-- BOOT: at reset, which is a package in recovery. -/
def execBoot (s : State) : Host.Outcome State Fault Refusal :=
  if s.boot.recovery then .next { s with boot := bootRom s.boot } else .next s

/-! ## ATTESTATION_REPORT (R332) -/

/-- The device's address of a host physical address: the host window covers those below 2^47. -/
def hostPlace (a n : Nat) : Option Nat := if a + n ≤ 2 ^ 47 then some (0x800000000000 + a) else none

/-- The bytes of the feature chain in walk order. -/
def chainBytes (fs : List Nat) : List Byte :=
  (List.range fs.length).flatMap (fun k => toBytesLE 8 (chainWord fs (16 * k)).toNat ++ toBytesLE 8 0)

/-- Bytes 0 to 127 of the report. -/
def reportBody (nonce : List Byte) (b : Boot) : List Byte :=
  nonce ++ (b.digest ++ List.replicate 32 0).take 32 ++ toBytesLE 8 (bits b.bootst.toNat 41 10) ++ toBytesLE 8 b.defsig.toNat ++
    sha3_256 (chainBytes b.features) ++ List.replicate 16 0

/-- ATTST.STATE. -/
def setAttst (n : Nat) (s : State) : State := { s with boot := { s.boot with attst := BitVec.ofNat 64 (2 * n) } }

/-- ATTESTATION_REPORT: the report, then STATE 2; a fault in reading the nonce or writing the report is STATE 3. -/
def execAttestationReport (s : State) : Host.Outcome State Fault Refusal :=
  let a := s.boot.attaddr.toNat
  if bits s.boot.attst.toNat 2 1 ≠ 1 then .next s
  else
    match hostPlace a 2612 with
    | none => .next (setAttst 3 s)
    | some pa =>
      if eccAt s pa 32 || eccPartial s (pa + 64) 2548 then .next (setAttst 3 s)
      else
        let body := reportBody (s.mem.readBytes pa 32) s.boot
        .next (setAttst 2 (s.store 0 (pa + 64) (body ++ (Config.signature body).toList)))

/-! ## Clocks (R298, R334, R336) -/

/-- An open phase holds an island: the quires of its member cores, and the mesh segments between them (R298). -/
def islandHeld (s : State) (i : Nat) : Bool :=
  s.openPhases.any (fun p => p.isOpen s.cycle.toNat && (decide (58 ≤ i % 64) ||
    (islandQuires i).any (fun q => (List.range 8).any (fun c => (s.domain p.domain).mask.testBit (8 * q + c)))))

/-- CURSTEP of an island set. -/
def setCurstep (i step : Nat) (s : State) : State :=
  let x := (s.pwrctl i).toNat
  s.setPwr i (BitVec.ofNat 64 (x % 2 ^ 8 + step * 2 ^ 8 + x / 2 ^ 12 * 2 ^ 12))

/-- DVFS_CHANGE: the step in force becomes the step requested, once no open phase holds the island. -/
def execDvfsChange (island : Nat) (s : State) : Host.Outcome State Fault Refusal :=
  if 256 ≤ island || !hasFstep island || islandHeld s island then .next s
  else .next { setCurstep island (bits (s.pwrctl island).toNat 5 2) s with changing := s.changing.filter (· != island) }

/-- THROTTLE: the power manager lowers the step in force. -/
def execThrottle (island : Nat) (step : BitVec 4) (s : State) : Host.Outcome State Fault Refusal :=
  if 256 ≤ island || !hasFstep island || islandHeld s island || step = 0 || bits (s.pwrctl island).toNat 11 8 ≤ step.toNat then .next s
  else .next (countRas 11 1 (setCurstep island step.toNat s))

/-! ## SCRUB (R326, R336) -/

/-- The correctable error lies in the 64-byte line of `pa`. -/
def inScrubLine (pa : Nat) : EccSite → Bool
  | .correctable w => w / 8 == pa / 64
  | _ => false

/-- SCRUB: the line is read, and its correctable errors are corrected and counted. -/
def execScrub (pa : Nat) (s : State) : Host.Outcome State Fault Refusal :=
  let n := (s.ecc.filter (inScrubLine pa)).length
  if n = 0 || !(inSlices pa || inHbm pa) then .next s
  else .next (countRas (if inSlices pa then 0 else 2) n { s with ecc := s.ecc.filter (fun x => !inScrubLine pa x) })

end Sys2Proof.Machine
end

