-- ==== Sys2Proof/Machine/Fp.lean ====
section
/-!
DEFINITION. The scalar floating-point family (R362, R366 to R371, R373, R374, R376).
-/
namespace Sys2Proof.Machine

/-- The format of a type field: 0 FP32, 1 FP16, 2 BF16 (R77). -/
def typeFmt (t : BitVec 2) : Nat := 3 + t.toNat

/-- An operand of a format: the low bits of the data view (R362). -/
def fpArg (f : Nat) (r : Reg) : Nat := r.data.toNat % 2 ^ fmtWidth f

/-- An instruction that computes a pattern with flags, which FSTAT takes (R55). -/
def computeFlags (i : Instr) (srcs : List RegField) (d : RegField) (f : List Reg → Nat × Nat) (s : State) :
    Host.Outcome State Fault Refusal :=
  finish s (do
    let (xs, s1) ← operands i srcs (some d) s
    return ((writeData d (BitVec.ofNat 64 (f xs).1) s1).orFlags (BitVec.ofNat 64 (f xs).2)).advance 4)

/-- Two operands of a format in a rounding mode. -/
def fpBinary (i : Instr) (d a b : RegField) (f : Nat) (op : Nat → Nat → Nat × Nat) (s : State) :
    Host.Outcome State Fault Refusal :=
  computeFlags i [a, b] d (fun xs => op (fpArg f (nth xs 0)) (fpArg f (nth xs 1))) s

/-- One operand of a format. -/
def fpUnary (i : Instr) (d a : RegField) (f : Nat) (op : Nat → Nat × Nat) (s : State) :
    Host.Outcome State Fault Refusal :=
  computeFlags i [a] d (fun xs => op (fpArg f (nth xs 0))) s

/-- A comparison's result and its NV (R376). -/
def fpCompare (f : Nat) (test : Num → Num → Bool) (quiet : Bool) (x y : Nat) : Nat × Nat :=
  let a := decodeFloat f x
  let b := decodeFloat f y
  (b2n (test a b), nvIf (if quiet then a.isSignalling || b.isSignalling else a.isNaN || b.isNaN))

/-- a < b or a = b. -/
def leNum (a b : Num) : Bool := ltNum a b || eqNum a b

/-- An operand is NaN. -/
def unNum (a b : Num) : Bool := a.isNaN || b.isNaN

/-- FADD (R367). -/
def execFadd (d a b : RegField) (t r : BitVec 2) (s : State) : Host.Outcome State Fault Refusal :=
  fpBinary (.fadd d a b t r) d a b (typeFmt t) (fpAdd (typeFmt t) r.toNat) s

/-- FSUB (R367). -/
def execFsub (d a b : RegField) (t r : BitVec 2) (s : State) : Host.Outcome State Fault Refusal :=
  fpBinary (.fsub d a b t r) d a b (typeFmt t) (fpSub (typeFmt t) r.toNat) s

/-- FMUL (R367). -/
def execFmul (d a b : RegField) (t r : BitVec 2) (s : State) : Host.Outcome State Fault Refusal :=
  fpBinary (.fmul d a b t r) d a b (typeFmt t) (fpMul (typeFmt t) r.toNat) s

/-- FDIV (R367). -/
def execFdiv (d a b : RegField) (t r : BitVec 2) (s : State) : Host.Outcome State Fault Refusal :=
  fpBinary (.fdiv d a b t r) d a b (typeFmt t) (fpDiv (typeFmt t) r.toNat) s

/-- FSQRT (R367). -/
def execFsqrt (d a : RegField) (t r : BitVec 2) (s : State) : Host.Outcome State Fault Refusal :=
  fpUnary (.fsqrt d a t r) d a (typeFmt t) (fpSqrt (typeFmt t) r.toNat) s

/-- FMIN (R374). -/
def execFmin (d a b : RegField) (t : BitVec 2) (s : State) : Host.Outcome State Fault Refusal :=
  fpBinary (.fmin d a b t) d a b (typeFmt t) (minMaxFloat (typeFmt t) false) s

/-- FMAX (R374). -/
def execFmax (d a b : RegField) (t : BitVec 2) (s : State) : Host.Outcome State Fault Refusal :=
  fpBinary (.fmax d a b t) d a b (typeFmt t) (minMaxFloat (typeFmt t) true) s

/-- FSET.eq (R376). -/
def execFsetEq (d a b : RegField) (t : BitVec 2) (s : State) : Host.Outcome State Fault Refusal :=
  fpBinary (.fsetEq d a b t) d a b (typeFmt t) (fpCompare (typeFmt t) eqNum true) s

/-- FSET.lt (R376). -/
def execFsetLt (d a b : RegField) (t : BitVec 2) (s : State) : Host.Outcome State Fault Refusal :=
  fpBinary (.fsetLt d a b t) d a b (typeFmt t) (fpCompare (typeFmt t) ltNum false) s

/-- FSET.le (R376). -/
def execFsetLe (d a b : RegField) (t : BitVec 2) (s : State) : Host.Outcome State Fault Refusal :=
  fpBinary (.fsetLe d a b t) d a b (typeFmt t) (fpCompare (typeFmt t) leNum false) s

/-- FSET.un (R376). -/
def execFsetUn (d a b : RegField) (t : BitVec 2) (s : State) : Host.Outcome State Fault Refusal :=
  fpBinary (.fsetUn d a b t) d a b (typeFmt t) (fpCompare (typeFmt t) unNum true) s

/-- FCLASS (R369). -/
def execFclass (d a : RegField) (t : BitVec 2) (s : State) : Host.Outcome State Fault Refusal :=
  fpUnary (.fclass d a t) d a (typeFmt t) (fun x => (2 ^ fpClass (typeFmt t) x, 0)) s

/-- FNEG (R366). -/
def execFneg (d a : RegField) (t : BitVec 2) (s : State) : Host.Outcome State Fault Refusal :=
  fpUnary (.fneg d a t) d a (typeFmt t) (fun x => (fpNeg (typeFmt t) x, 0)) s

/-- FABS (R366). -/
def execFabs (d a : RegField) (t : BitVec 2) (s : State) : Host.Outcome State Fault Refusal :=
  fpUnary (.fabs d a t) d a (typeFmt t) (fun x => (fpAbs (typeFmt t) x, 0)) s

/-- FMA in FP32 (R373). -/
def execFmaFp32 (d a b c : RegField) (r : BitVec 2) (s : State) : Host.Outcome State Fault Refusal :=
  computeFlags (.fmaFp32 d a b c r) [a, b, c] d
    (fun xs => fpFma 3 r.toNat (fpArg 3 (nth xs 0)) (fpArg 3 (nth xs 1)) (fpArg 3 (nth xs 2))) s

/-- FMA in FP16 (R373). -/
def execFmaFp16 (d a b c : RegField) (r : BitVec 2) (s : State) : Host.Outcome State Fault Refusal :=
  computeFlags (.fmaFp16 d a b c r) [a, b, c] d
    (fun xs => fpFma 4 r.toNat (fpArg 4 (nth xs 0)) (fpArg 4 (nth xs 1)) (fpArg 4 (nth xs 2))) s

/-- Where FCVT places a pattern: a signed integer is sign-extended, all else zero-extended (R371). -/
def cvtPlace (f x : Nat) : Nat :=
  if isFloatFmt f || f == 1 then x else ofSigned 64 (toSigned (fmtWidth f) x)

/-- FCVT to code `e` from code `c` (R370, R371). -/
def execFcvt (d a : RegField) (c e : BitVec 4) (r : BitVec 2) (s : State) : Host.Outcome State Fault Refusal :=
  fpUnary (.fcvt d a c e r) d a c.toNat
    (fun x => (cvtPlace e.toNat (convert e.toNat c.toNat r.toNat x).1, (convert e.toNat c.toNat r.toNat x).2)) s

end Sys2Proof.Machine
end

