-- ==== Sys2Proof/Machine/Rings.lean ====
section
/-!
DEFINITION. Circular buffers (R49, R50) and CBADV's advance and wait (R347, R348).
-/
namespace Sys2Proof.Machine

/-- Slots filled and free (R49). -/
def Ring.fill (r : Ring) : Nat := (r.pidx + 2 ^ 32 - r.cidx) % 2 ^ 32
def Ring.free (r : Ring) : Nat := r.slots - r.fill

/-- The address of position `i` (R49). -/
def Ring.posAddr (r : Ring) (i : Nat) : Nat := r.base.addr + i % r.slots * r.slotb

/-- BASE holds all slots. DEDUCED (assumption 15): an untagged BASE holds none, so it raises CAP_BOUNDS like one too small
(R50). -/
def Ring.holds (r : Ring) : Bool :=
  r.base.tagged && decide (capBase r.base ≤ r.base.addr) && decide (r.base.addr + r.slots * r.slotb ≤ capTop r.base)

/-- The checks of R50. -/
def Ring.ok (r : Ring) : Bool :=
  decide (r.fill ≤ r.slots) && decide (1 ≤ r.slots) && decide (r.slots ≤ 65535) && r.slotb % 64 == 0 &&
    decide (64 ≤ r.slotb) && decide (r.slotb ≤ 2 ^ 24) && r.holds

/-- A descriptor from its words. -/
def mkRing (base : Reg) (w2 w3 : Nat) : Ring :=
  { base := base, slotb := bits w2 31 0, slots := bits w2 63 32, pidx := bits w3 31 0, cidx := bits w3 63 32 }

/-- A descriptor as a thread reads it. -/
def readRing (va : Nat) (s : State) : Ev (Ring × State) := do
  let (base, s1) ← loadCapAt va s
  let (w2, s2) ← loadAt (va + 16) 8 s1
  let (w3, s3) ← loadAt (va + 24) 8 s2
  return (mkRing base w2 w3, s3)

/-- CAP_BOUNDS with the descriptor's address (R50). -/
def ringBad {α : Type} (va : Nat) : Ev α := .error (.trap .capBounds (BitVec.ofNat 64 va))

/-- The slots that CBADV waits for. -/
def Ring.side (r : Ring) (producer : Bool) : Nat := if producer then r.free else r.fill

/-- The advance of a position, one indivisible add (R50). -/
def advanceRing (producer : Bool) (va k : Nat) (r : Ring) (s : State) : Ev State :=
  if k = 0 then .ok s
  else if producer then storeAt (va + 24) 4 (r.pidx + k) s
  else storeAt (va + 28) 4 (r.cidx + k) s

/-- CBADV's checks, its advance by `k`, and whether its wait for `w` is over; the state after it (R347). -/
def cbadv (producer : Bool) (k w n : Nat) (s : State) : Ev (State × Bool) := do
  acquired s
  drained s
  if k = 0 then pure () else performedAll s
  let va := ringAddr s.th.cbbase n
  capCheck s.th.cbbase va 32 permLoad
  capCheck s.th.cbbase va 32 permStore
  aligned va 16
  let (r, s1) ← readRing va s
  if !r.ok || decide (r.slots < w) then ringBad va
  else if r.side producer < k then ringBad va
  else
    let s2 ← advanceRing producer va k r s1
    let (r2, s3) ← readRing va s2
    return (s3, decide (w ≤ r2.side producer))

/-- The wait of CBADV is over (R347): the descriptor is read again. -/
def cbadvDone (producer : Bool) (n : BitVec 4) (w : Nat) (s : State) : Bool :=
  match readRing (ringAddr s.th.cbbase n.toNat) s with
  | .ok (r, _) => decide (w ≤ r.side producer)
  | .error _ => false

/-- CBADV that issues with an advance of `k` and a wait for `w`: it completes, or holds its slot after the advance; `done` is
the advance that has been made by then (R347). -/
def cbadvWith (producer : Bool) (k w done : Nat) (n : BitVec 4) (s : State) : Ev State := do
  let (s2, ended) ← cbadv producer k w n.toNat s
  if ended && !s2.th.ganged then return s2.advance 4
  else return s2.up (fun t => { t with stall := some (.cbadv producer n w done), abandoned := none })

/-- CBADV. One that a forced save abandoned issues again with no advance and the same wait (R347). -/
def cbadvInstr (i : Instr) (producer : Bool) (a : RegField) (n : BitVec 4) (s : State) :
    Host.Outcome State Fault Refusal :=
  finish s (match s.th.abandoned with
    | some (.cbadv _ _ w k) => cbadvWith producer 0 w k n s
    | _ => do
      let (xs, s1) ← operands i [a] none s
      let x := (nth xs 0).data.toNat
      cbadvWith producer (bits x 31 0) (bits x 63 32) (bits x 31 0) n s1)

/-- CBADV.p (R347). -/
def execCbadvP (a : RegField) (n : BitVec 4) (s : State) : Host.Outcome State Fault Refusal :=
  cbadvInstr (.cbadvP a n) true a n s

/-- CBADV.c (R347). -/
def execCbadvC (a : RegField) (n : BitVec 4) (s : State) : Host.Outcome State Fault Refusal :=
  cbadvInstr (.cbadvC a n) false a n s

end Sys2Proof.Machine
end

