-- ==== Sys2Proof/Machine/Shape.lean ====
section
/-!
DEFINITION. Shape records and a thread's slice of one (R37, R38).
-/
namespace Sys2Proof.Machine

/-- The dimension entry `d` of a record, from its 128 bytes as a number. -/
def shapeDim (x d : Nat) : Nat × Int :=
  let lo := 8 * (8 + 12 * d)
  (bits x (lo + 31) lo, toSigned 64 (bits x (lo + 95) (lo + 32)))

/-- A record's PART codes, those of all ten dimensions. -/
def shapeParts (x : Nat) : List Nat := (List.range 10).map (fun d => bits x (13 + 2 * d) (12 + 2 * d))

/-- The rules that a record must obey (R37). -/
def shapeOk (x : Nat) : Bool :=
  let ndim := bits x 3 0
  let parts := shapeParts x
  let cut := (parts.filter (· != 0)).length
  let p1 := bits x 47 32
  let p2 := bits x 63 48
  decide (1 ≤ ndim) && decide (ndim ≤ 10) && decide (bits x 7 4 ≤ 12) && bits x 11 8 == 0 &&
    parts.all (· != 3) && (parts.drop ndim).all (· == 0) && decide (cut ≤ 2) && p1 != 0 && p2 != 0 &&
    (cut != 1 || p2 == 1)

/-- A record read; nothing where it violates R37. -/
def readShape (x : Nat) : Option Shape :=
  if shapeOk x then
    let n := bits x 3 0
    some { etype := bits x 7 4, parts := (shapeParts x).take n, p1 := bits x 47 32, p2 := bits x 63 48,
           dims := (List.range n).map (shapeDim x) }
  else none

/-- One dimension's part `p` of `P`: the offset it adds, the count and the stride (R38). -/
def partDim (mode p P : Nat) (n : Nat) (st : Int) : Int × Nat × Int :=
  if mode = 1 then
    let size := (n + P - 1) / P
    let start := p * size
    (st * start, if n ≤ start then 0 else min size (n - start), st)
  else if mode = 2 then
    (st * p, if n ≤ p then 0 else (n - p + P - 1) / P, st * P)
  else (0, n, st)

/-- The dimensions from the lowest up; `ps` are the part and the number of parts of the partitioned
dimensions still to come, and `out` says that the thread has no part. -/
def sliceDims (out : Bool) : List Nat → List (Nat × Int) → List (Nat × Nat) → Int × List (Nat × Int)
  | m :: ms, (n, st) :: ds, ps =>
    if m = 0 then
      let r := sliceDims out ms ds ps
      (r.1, (n, st) :: r.2)
    else
      let (p, P) := ps.headD (0, 1)
      let (o, k, st2) := partDim m p P n st
      let r := sliceDims out ms ds ps.tail
      (o + r.1, (if out then 0 else k, st2) :: r.2)
  | _, _, _ => (0, [])

/-- The slice of the thread with index `t` (R38). -/
def Shape.slice (sh : Shape) (t : Nat) : Slice :=
  let r := sliceDims (decide (sh.p1 * sh.p2 ≤ t)) sh.parts sh.dims [(t % sh.p1, sh.p1), (t / sh.p1 % sh.p2, sh.p2)]
  { offset := r.1, dims := r.2 }

/-- The elements of a slice. -/
def Slice.total (sl : Slice) : Nat := sl.dims.foldl (fun k d => k * d.1) 1

/-- The offset of an element number within dimensions, dimension 0 fastest. -/
def offsetIn : List (Nat × Int) → Nat → Int
  | [], _ => 0
  | (n, st) :: r, i => st * ((i % n : Nat) : Int) + offsetIn r (i / n)

/-- The byte offset of element `i` of a slice, in shape order. -/
def Slice.at (sl : Slice) (i : Nat) : Int := sl.offset + offsetIn sl.dims i

/-- A slice without its dimension 0 (for rows of packed elements). -/
def Slice.rows (sl : Slice) : Slice := { sl with dims := sl.dims.tail }

/-- The count of dimension `d`. -/
def Slice.count (sl : Slice) (d : Nat) : Nat := (sl.dims[d]?.map (·.1)).getD 1

end Sys2Proof.Machine
end

