-- ==== Sys2Proof/Machine/Engine.lean ====
section
/-!
DEFINITION. The accesses of engines (R44, R126, R135, R137, R210, R254, R326): checks, chunks, memory here and on
other packages, rings, shapes, and items that a job works through in order.
-/
namespace Sys2Proof.Machine

/-! ## Faults -/

/-- A fault with its FVAL. -/
def jobFault {α : Type} (c : Cause) (v : Nat) : Je α := .error (.fault c v 0)

/-- A thread's fault as a job's. -/
def asJob {α : Type} : Ev α → Je α
  | .ok x => .ok x
  | .error (.trap c v) => .error (.fault c v.toNat 0)
  | .error (.stall _) => .error .wait

/-- The faulting address that a fault's FVAL gives (R130, R254, R310). -/
def faultVa (c : Cause) (v : Nat) : Nat :=
  match c with
  | .pageFault => v % 2 ^ 56
  | .remoteFault => v % 2 ^ 48
  | _ => v

/-- Where a fault stands among those of several accesses: the causes in the order of R44, then the lowest faulting
address. A parked chunk comes last. DESIGN CHOICE (assumption 18): R44 and R174 give FORMAT_FAULT no place; it comes after
the memory faults, whose cause numbers are lower. -/
def faultKey : JobHalt → Nat × Nat
  | .fault c v _ => (c.num, faultVa c v)
  | .park va => (256, va)
  | .miss => (256, 0)
  | .wait => (256, 0)

/-- The first fault of several accesses (R44). -/
def worstFault : List JobHalt → Option JobHalt
  | [] => none
  | x :: r =>
    match worstFault r with
    | none => some x
    | some y =>
      let a := faultKey x
      let b := faultKey y
      if a.1 < b.1 || (a.1 == b.1 && a.2 ≤ b.2) then some x else some y

/-! ## Places -/

/-- cap_check of an engine's access, with REMOTE for a global address (R44). -/
def jobCheck (r : Reg) (va n perm : Nat) : Je Unit := do
  asJob (capCheck r va n perm)
  if isGlobal va && !r.has permRemote then jobFault .capPerm va else return ()

/-- REMOTE_FAULT of a job (R135, R254). -/
def remoteFault {α : Type} (va reason : Nat) : Je α :=
  jobFault .remoteFault (remoteTval (va % 2 ^ 48) (bits va 59 48) reason).toNat

/-- An access of a job to memory of this package that fails, as its address form reports it (R135): a page fault
with its TVAL, or an uncorrectable error. -/
def pageFailed {α : Type} (va : Nat) (tval : Word) : Je α :=
  if isGlobal va then remoteFault va (bits tval.toNat 59 56) else jobFault .pageFault tval.toNat
def eccFailed {α : Type} (va : Nat) : Je α :=
  if isGlobal va then remoteFault va 7 else jobFault .eccUncorrected va

/-- The address within a context's tables (R135). -/
def localVa (va : Nat) : Nat := if isGlobal va then va % 2 ^ 48 else va

/-- The chunk that is parked has read MIG = 1 for 10 ms (R138). -/
def Job.parkOver (j : Job) (s : State) : Option Nat :=
  match j.parkedAt with
  | some p => if p.2 + tenMs ≤ s.cycle.toNat then some p.1 else none
  | none => none

/-- The chunk of an address has read MIG = 1 for 10 ms (R138). -/
def parkedOver (j : Job) (va : Nat) (s : State) : Bool :=
  j.parkOver s == some (localVa va / 4096) || j.timedOut.contains (localVa va / 4096)

/-- A chunk that parks: reason 4, once it has parked for 10 ms (R138). -/
def parked {α : Type} (j : Job) (va : Nat) (s : State) : Je α :=
  if parkedOver j va s then pageFailed va (migrationTval s j.ctx (localVa va)) else .error (.park (localVa va))

/-- The physical address of a byte of a job's access to this package; its chunk is translated once (R137). A job whose
chunk has parked holds its walk; another waits in the order in which misses came (R136, R138). -/
def jobXlate (j : Job) (va : Nat) (acc : Access) (s : State) : Je (Option Nat × State) :=
  if missWaits s j.quire j.ctx (localVa va) j.parkedAt.isSome j.missAt then .error .miss
  else
    match chunkXlate s j.quire j.ctx (localVa va) acc with
    | (.ok pa _ _ _ _, s1) => .ok (some pa, s1)
    | (.fault v, _) => pageFailed va v
    | (.park, _) => parked j va s
    | (.bad, _) => eccFailed va

/-- The physical address of a byte of a job's access; none for memory of another package, which answers or
faults as it will (R135, assumption 17). -/
def jobPlace (j : Job) (va : Nat) (acc : Access) (s : State) : Je (Option Nat × State) :=
  if isGlobal va then
    if bits va 59 48 = s.pkgid.toNat then jobXlate j va acc s
    else if noRoute s (BitVec.ofNat 12 (bits va 59 48)) then remoteFault va 8
    else if Config.freeBit s.free then remoteFault va (Config.freeNat s.free % 11)
    else .ok (none, { s with free := s.free + 1 })
  else jobXlate j va acc s

/-- `n` bytes at `va` as pieces that lie in one 4 KiB chunk each (R137). -/
def chunkPieces : Nat → Nat → Nat → List (Nat × Nat)
  | 0, _, _ => []
  | f + 1, va, n =>
    if n = 0 then [] else (va, min n (4096 - va % 4096)) :: chunkPieces f (va + min n (4096 - va % 4096)) (n - min n (4096 - va % 4096))

/-- The chunks of an access. -/
def pieces (va n : Nat) : List (Nat × Nat) := chunkPieces (n / 4096 + 2) va n

/-! ## Reads -/

/-- Bytes of another package: free values (assumption 17). -/
def freeBytes (n : Nat) (s : State) : List Byte × State :=
  ((List.range n).map (fun i => Config.freeByte (s.free + i)), { s with free := s.free + n })

/-- The address of the first byte of an access that lies in an 8-byte word in error; `bad` says which words of the
physical addresses from `pa` count (R310, R326). -/
def errorVa (va pa n : Nat) (bad : Nat → Bool) : Nat :=
  match (List.range (n / 8 + 2)).find? (fun k => decide (8 * (pa / 8 + k) < pa + n) && bad (8 * (pa / 8 + k))) with
  | some k => va + (8 * (pa / 8 + k) - pa)
  | none => va

/-- The places of the chunks of one access, each translated before any is read or written (R44, R137). -/
def placesFor (j : Job) (acc : Access) : List (Nat × Nat) → State → Je (List (Option Nat × Nat) × State)
  | [], s => .ok ([], s)
  | (va, n) :: r, s => do
    let (p, s1) ← jobPlace j va acc s
    let (ps, s2) ← placesFor j acc r s1
    return ((p, n) :: ps, s2)

/-- The first place of an access from `va` with a word in error that counts (R326). -/
def placesGood (s : State) (counts : Nat → Nat → Nat → Bool) : Nat → List (Option Nat × Nat) → Je Unit
  | _, [] => .ok ()
  | va, (p, n) :: r =>
    match p with
    | some pa =>
      if !inMmio pa && (List.range (n / 8 + 2)).any (fun k => decide (8 * (pa / 8 + k) < pa + n) && counts pa n (8 * (pa / 8 + k)))
      then eccFailed (errorVa va pa n (counts pa n)) else placesGood s counts (va + n) r
    | none => placesGood s counts (va + n) r

/-- The bytes at places. -/
def readAt : List (Option Nat × Nat) → State → List Byte × State
  | [], s => ([], s)
  | (p, n) :: r, s =>
    let (bs, s1) := match p with
      | none => freeBytes n s
      | some pa => ((List.range n).map (fun i => if inMmio pa then BitVec.ofNat 8 (mmioLoad (pa + i) 1 s) else s.loadByte (pa + i)), s.drawn pa n)
    let (cs, s2) := readAt r s1
    (bs ++ cs, s2)

/-- The bytes of the chunks of one access, in order: its translations come before its errors (R44). -/
def readPieces (j : Job) (va : Nat) (l : List (Nat × Nat)) (s : State) : Je (List Byte × State) := do
  let (ps, s1) ← placesFor j .load l s
  placesGood s1 (fun _ _ w => eccAt s1 w 8) va ps
  return readAt ps s1

/-- An address that is no multiple of `al`. -/
def jobAligned (va al : Nat) : Je Unit := if va % al ≠ 0 then jobFault .misalign va else .ok ()

/-- `n` bytes at `va` through a capability. -/
def jobRead (j : Job) (r : Reg) (va n al : Nat) (s : State) : Je (List Byte × State) := do
  jobCheck r va n permLoad
  jobAligned va al
  readPieces j va (pieces va n) s

/-- A granule with its tag; another package gives no tag, and a value that a race gave has none but that of the capability
stored there (R4, R157). -/
def jobReadCap (j : Job) (r : Reg) (va : Nat) (s : State) : Je (Reg × State) := do
  let (bs, s1) ← jobRead j r va 16 1 s
  let (p, s2) ← jobPlace j va .load s1
  match p with
  | some pa =>
    return (⟨BitVec.ofNat 128 (ofBytesLE bs), pa % 16 == 0 && !inMmio pa && s2.mem.tag pa && s2.mem.readNat pa 16 == ofBytesLE bs⟩, s2)
  | none => return (⟨BitVec.ofNat 128 (ofBytesLE bs), false⟩, s2)

/-! ## Writes -/

/-- The word at `w` is in error and a store of `n` bytes at `pa` does not fill it (R326). -/
def partialWord (s : State) (pa n w : Nat) : Bool := eccAt s w 8 && !(decide (pa ≤ w) && decide (w + 8 ≤ pa + n))

/-- The places of the chunks of one write, each translated before any is written (R137). -/
def writePlaces (j : Job) (va : Nat) (l : List (Nat × Nat)) (s : State) : Je (List (Option Nat × Nat) × State) := do
  let (ps, s1) ← placesFor j .store l s
  placesGood s1 (partialWord s1) va ps
  return (ps, s1)

/-- Bytes stored at their places. -/
def writeAt (c : Ctx) : List (Option Nat × Nat) → List Byte → State → State
  | [], _, s => s
  | (p, n) :: r, bs, s =>
    let s1 := match p with
      | none => s
      | some pa => if inMmio pa then mmioStore pa n (ofBytesLE (bs.take n)) s else s.store c pa (bs.take n)
    writeAt c r (bs.drop n) s1

/-- The checks of a write of `n` bytes, and its places. -/
def checkWrite (j : Job) (r : Reg) (va n al : Nat) (s : State) : Je (List (Option Nat × Nat) × State) := do
  jobCheck r va n permStore
  jobAligned va al
  writePlaces j va (pieces va n) s

/-- Bytes written at `va` through a capability. -/
def jobWrite (j : Job) (r : Reg) (va : Nat) (bs : List Byte) (al : Nat) (s : State) : Je State := do
  let (ps, s1) ← checkWrite j r va bs.length al s
  return writeAt j.ctx ps bs s1

/-! ## Spots: memory or ring positions (R210) -/

/-- Where byte offset `o` of an operand lies: the capability and the address. DESIGN CHOICE (assumption 15): the position
of a later slot of a job is not reduced modulo 2^32 before it is taken modulo SLOTS (R49). -/
def spotAddr (p : Spot) (o : Int) : Je (Reg × Nat) :=
  match p with
  | .mem r => .ok (r, (((r.addr : Int) + o) % (2 ^ 64 : Int)).toNat)
  | .ring g pos k =>
    if o < 0 || ((k * g.slotb : Nat) : Int) ≤ o then jobFault .capBounds ((g.base.addr + o.toNat) % 2 ^ 64)
    else .ok (g.base, g.posAddr (pos + o.toNat / g.slotb) + o.toNat % g.slotb)

/-- `n` bytes from offset `o` as runs within one slot. -/
def spotRuns (p : Spot) : Nat → Int → Nat → List (Int × Nat)
  | 0, _, _ => []
  | f + 1, o, n =>
    if n = 0 then []
    else
      match p with
      | .mem _ => [(o, n)]
      | .ring g _ _ =>
        let k := min n (max 1 (g.slotb - o.toNat % max 1 g.slotb))
        (o, k) :: spotRuns p f (o + k) (n - k)

/-- The runs read in order. -/
def readRuns (j : Job) (p : Spot) (al : Nat) : List (Int × Nat) → State → Je (List Byte × State)
  | [], s => .ok ([], s)
  | (o, n) :: r, s => do
    let (c, va) ← spotAddr p o
    let (bs, s1) ← jobRead j c va n al s
    let (cs, s2) ← readRuns j p al r s1
    return (bs ++ cs, s2)

/-- `n` bytes at offset `o` of an operand. -/
def spotRead (j : Job) (p : Spot) (o : Int) (n al : Nat) (s : State) : Je (List Byte × State) :=
  readRuns j p al (spotRuns p (n / 64 + 2) o n) s

/-- The places of a write of `n` bytes at offset `o`. -/
def checkRuns (j : Job) (p : Spot) (al : Nat) : List (Int × Nat) → State → Je (List (Option Nat × Nat) × State)
  | [], s => .ok ([], s)
  | (o, n) :: r, s => do
    let (c, va) ← spotAddr p o
    let (ps, s1) ← checkWrite j c va n al s
    let (qs, s2) ← checkRuns j p al r s1
    return (ps ++ qs, s2)

/-- The checks of a write to an operand, and its places. -/
def spotCheck (j : Job) (p : Spot) (o : Int) (n al : Nat) (s : State) : Je (List (Option Nat × Nat) × State) :=
  checkRuns j p al (spotRuns p (n / 64 + 2) o n) s

/-- Bytes written at offset `o` of an operand. -/
def spotWrite (j : Job) (p : Spot) (o : Int) (bs : List Byte) (al : Nat) (s : State) : Je State := do
  let (ps, s1) ← spotCheck j p o bs.length al s
  return writeAt j.ctx ps bs s1

/-- The address of offset `o`, for FVAL. -/
def spotVa (p : Spot) (o : Int) : Nat :=
  match spotAddr p o with
  | .ok (_, va) => va
  | .error (.fault _ v _) => v
  | .error _ => 0

/-! ## A job's members and operands (R96) -/

/-- A flag of word 0. -/
def Job.flag (j : Job) (n : Nat) : Bool := bitOf j.tile.flags.toNat n

/-- Member `m` of a job. -/
def Job.member (j : Job) (m : Nat) : JobMember :=
  (j.members[m]?).getD ⟨0, 0, 0, 0, [], Reg.null, Reg.null, [], [], false⟩

/-- The registers of a snapshot, in the order of R96. -/
def JobMember.x (m : JobMember) : Reg := m.regs.getD 0 Reg.null
def JobMember.y (m : JobMember) : Reg := m.regs.getD 1 Reg.null
def JobMember.z (m : JobMember) : Reg := m.regs.getD 2 Reg.null
def JobMember.w (m : JobMember) : Reg := m.regs.getD 3 Reg.null
def JobMember.k2 (m : JobMember) : Reg := m.regs.getD 4 Reg.null
def JobMember.i (m : JobMember) : Reg := m.regs.getD 5 Reg.null
def JobMember.p (m : JobMember) : Reg := m.regs.getD 6 Reg.null

/-- The descriptor of cb`n`, as an engine reads it. -/
def jobRing (j : Job) (cbbase : Reg) (n : Nat) (s : State) : Je (Ring × State) := do
  let va := ringAddr cbbase n
  jobCheck cbbase va 32 permLoad
  jobCheck cbbase va 32 permStore
  let (base, s1) ← jobReadCap j cbbase va s
  let (bs, s2) ← jobRead j cbbase (va + 16) 16 1 s1
  let r := mkRing base (ofBytesLE (bs.take 8)) (ofBytesLE (bs.drop 8))
  if r.ok then return (r, s2) else jobFault .capBounds va

/-- The source of a member: Y, or the input ring (R210). -/
def sourceSpot (j : Job) (m : Nat) (direct : Reg) (s : State) : Je (Spot × State) := do
  if j.tile.inCount == 0 then return (.mem direct, s)
  else
    let (r, s1) ← jobRing j (j.member m).cbbase j.tile.inRing.toNat s
    return (.ring r r.cidx j.tile.inCount.toNat, s1)

/-- The destination of a member: X, or the output ring. -/
def destSpot (j : Job) (m : Nat) (direct : Reg) (s : State) : Je (Spot × State) := do
  if j.tile.outCount == 0 then return (.mem direct, s)
  else
    let (r, s1) ← jobRing j (j.member m).cbbase j.tile.outRing.toNat s
    return (.ring r r.pidx j.tile.outCount.toNat, s1)

/-- The rings of a job hold, or have room for, the slots it takes and gives (R50). -/
def ringsReady (j : Job) (s : State) : Bool :=
  (List.range j.members.length).all (fun m =>
    (j.tile.inCount == 0 || (match jobRing j (j.member m).cbbase j.tile.inRing.toNat s with
      | .ok (r, _) => decide (j.tile.inCount.toNat ≤ r.fill) | .error _ => true)) &&
    (j.tile.outCount == 0 || (match jobRing j (j.member m).cbbase j.tile.outRing.toNat s with
      | .ok (r, _) => decide (j.tile.outCount.toNat ≤ r.free) | .error _ => true)))

/-- A part of a job without effect where it faults; one that waits still waits. -/
def orElseKeep (s : State) : Je State → Je State
  | .error (.fault _ _ _) => .ok s
  | r => r

/-- A position of a member's ring advanced by `k`, one indivisible add (R50), which waits while its chunk is parked (R138,
R140). DESIGN CHOICE (assumption 15): where the descriptor has become bad or does not translate any more, the position is
not advanced and no fault is reported. -/
def advanceSpot (j : Job) (m : Nat) (producer : Bool) (n k : Nat) (s : State) : Je State :=
  orElseKeep s (do
    let (r, s1) ← jobRing j (j.member m).cbbase n s
    let va := ringAddr (j.member m).cbbase n
    if producer then jobWrite j (j.member m).cbbase (va + 24) (toBytesLE 4 (r.pidx + k)) 1 s1
    else jobWrite j (j.member m).cbbase (va + 28) (toBytesLE 4 (r.cidx + k)) 1 s1)

/-! ## Shapes (R37, R38) -/

/-- Shape record `n` of a member, read through its SHAPEBASE. -/
def jobShape (j : Job) (m n : Nat) (s : State) : Je (Shape × State) := do
  let r := (j.member m).shapebase
  let va := (r.addr + 128 * n) % 2 ^ 64
  let (bs, s1) ← jobRead j r va 128 1 s
  match readShape (ofBytesLE bs) with
  | some sh => return (sh, s1)
  | none => jobFault .formatFault va

/-- Where element `i` of a slice lies for a format of `w` bits: byte offset, bit within it, and whether it is
the last of its row (R209). -/
def elemPos (w : Nat) (sl : Slice) (i : Nat) : Int × Nat × Bool :=
  if 8 ≤ w then (sl.at i, 0, false)
  else
    let n := max 1 (sl.count 0)
    let k := i % n
    (sl.rows.at (i / n) + ((w * k / 8 : Nat) : Int), w * k % 8, k + 1 == n)

/-- Bytes that hold `w` bits from bit `b`. -/
def spanBytes (w b : Nat) : Nat := (b + w + 7) / 8

/-- Element `i` of a slice as a pattern; `al` says that it must be aligned to its size. -/
def readElem (j : Job) (p : Spot) (et : Nat) (al : Bool) (sl : Slice) (i : Nat) (s : State) : Je (Nat × State) := do
  let w := fmtWidth et
  let (o, b, _) := elemPos w sl i
  let (bs, s1) ← spotRead j p o (spanBytes w b) (if al && decide (8 ≤ w) then w / 8 else 1) s
  return (ofBytesLE bs / 2 ^ b % 2 ^ w, s1)

/-- The bytes there before a write, which needs no LOAD; those of another package count as 0. -/
def oldBytes (ps : List (Option Nat × Nat)) (s : State) : List Byte :=
  ps.flatMap (fun x => match x.1 with
    | some pa => if inMmio pa then List.replicate x.2 0 else s.mem.readBytes pa x.2
    | none => List.replicate x.2 0)

/-- Element `i` of a slice written; the rest of a byte past the last element of a row becomes zero (R209). -/
def writeElem (j : Job) (p : Spot) (et : Nat) (sl : Slice) (i x : Nat) (s : State) : Je State := do
  let w := fmtWidth et
  let (o, b, last) := elemPos w sl i
  if 8 ≤ w then spotWrite j p o (toBytesLE (w / 8) x) (w / 8) s
  else
    let (ps, s1) ← spotCheck j p o (spanBytes w b) 1 s
    let old := ofBytesLE (oldBytes ps s1)
    let high := if last then 0 else old / 2 ^ (b + w) * 2 ^ (b + w)
    return writeAt j.ctx ps (toBytesLE (spanBytes w b) (old % 2 ^ b + x % 2 ^ w * 2 ^ b + high)) s1

/-- A format of less than 8 bits needs a dimension 0 of stride 0 (R209). -/
def packable (et : Nat) (sl : Slice) : Bool := decide (8 ≤ fmtWidth et) || (sl.dims[0]?.map (·.2)).getD 0 == 0

/-! ## Items -/

/-- `n` items from number `i` on, while each succeeds: the first not done, what stopped it, and the state. -/
def runItems (f : Nat → State → Je State) : Nat → Nat → State → Nat × Option JobHalt × State
  | 0, i, s => (i, none, s)
  | n + 1, i, s =>
    match f i s with
    | .ok s1 => runItems f n (i + 1) s1
    | .error h => (i, some h, s)

/-- Item number `i` over members with these counts: the member and the item within it. -/
def locate : List Nat → Nat → Nat × Nat
  | [], i => (0, i)
  | n :: r, i => if i < n then (0, i) else ((locate r (i - n)).1 + 1, (locate r (i - n)).2)

/-- `f` for each member, in GPOS order. -/
def forMembers {α : Type} (f : Nat → State → Je (α × State)) : Nat → Nat → State → Je (List α × State)
  | 0, _, s => .ok ([], s)
  | n + 1, m, s => do
    let (x, s1) ← f m s
    let (xs, s2) ← forMembers f n (m + 1) s1
    return (x :: xs, s2)

/-- The member, from `m` on, at which `forMembers` stops: the first whose part fails. -/
def firstBadFrom {α : Type} (f : Nat → State → Je (α × State)) : Nat → Nat → State → Nat
  | 0, _, _ => 0
  | n + 1, m, s =>
    match f m s with
    | .ok (_, s1) => firstBadFrom f n (m + 1) s1
    | .error _ => m

/-- The member at which `forMembers` stops. -/
def firstBad {α : Type} (f : Nat → State → Je (α × State)) (n : Nat) (s : State) : Nat := firstBadFrom f n 0 s

/-- The shape records numbered `n` that the members name, each with its issuer's slice (R38): for the counts in the
record of a job that stops before its first element. None where one of them cannot be read (assumption 18). -/
def memberShapes (j : Job) (n : Nat) (s : State) : List (Shape × Slice) :=
  match forMembers (fun m s => (jobShape j m n s).map (fun x => ((x.1, x.1.slice (j.member m).index), x.2))) j.members.length 0 s with
  | .ok (l, _) => l
  | .error _ => []

/-! ## A job that waits (R136, R138) -/

/-- A chunk of a job parks: the job is tried again. A chunk other than the one that parked before parks from now. -/
def parkJob (j : Job) (va : Nat) (s : State) : State :=
  s.onJob j.id (fun k => { k with
    timedOut := (k.parkOver s).toList ++ k.timedOut
    parkedAt := match k.parkedAt with
      | some p => if p.1 = va / 4096 then some p else some (va / 4096, s.cycle.toNat)
      | none => some (va / 4096, s.cycle.toNat)
    missAt := none })

/-- A job that did not get on: its chunk parks, its miss waits for a walk since a core cycle, or it waits for another
reason. -/
def haltJob (j : Job) (h : JobHalt) (s : State) : State :=
  match h with
  | .park va => parkJob j va s
  | .miss => s.onJob j.id (fun k => { k with missAt := some (k.missAt.getD s.cycle.toNat) })
  | _ => s

/-- No chunk of a job is parked any more, and no miss waits. -/
def Job.walked (j : Job) : Job := { j with parkedAt := none, missAt := none, timedOut := [] }

/-! ## Records -/

/-- A record of eight words from a number of 512 bits. -/
def jobWords (x : Nat) : List Word := (List.range 8).map (fun i => BitVec.ofNat 64 (x / 2 ^ (64 * i)))

/-- A status word with its cause (R184). -/
def statusWord (st cause : Nat) : Nat := st + cause * 2 ^ 16

/-- FVAL where no address is at fault: zero for FORMAT_FAULT (assumption 18). -/
def fvalOf (c : Cause) (v : Nat) : Nat := if c = .formatFault then 0 else v % 2 ^ 64

/-- The status of a job that stopped after `done` items: FAULT where none is done (R216). -/
def stopStatus (done : Nat) : Nat := if done = 0 then 2 else 1

/-- What a job has done already that stops before its first element: what the record says from which it resumes, where that
can be read; nothing where the job ends FAULT for its form (R203, R216, R223, assumption 18). -/
def resumedAt (h : JobHalt) (first : Je (Nat × State)) : Nat :=
  match h, first with
  | .fault .formatFault _ _, _ => 0
  | _, .ok (d, _) => d
  | _, .error _ => 0

/-- A progress record that .resume reads: its 512 bits as a number. -/
def readRecord (j : Job) (s : State) : Je (Nat × State) := do
  let r := (j.member 0).p
  let (bs, s1) ← jobRead j r r.addr 64 1 s
  return (ofBytesLE bs, s1)

/-- The engine's first word of a record (R203, R216, R223). -/
def recordHead (j : Job) (op st cause m : Nat) : Nat :=
  j.id % 2 ^ 32 + st * 2 ^ 32 + cause * 2 ^ 40 + m * 2 ^ 48 + j.cls * 2 ^ 51 + op * 2 ^ 56

/-- A record's fields. -/
def recOp (x : Nat) : Nat := bits x 63 56
def recClass (x : Nat) : Nat := bits x 52 51
def recStatus (x : Nat) : Nat := bits x 39 32

end Sys2Proof.Machine
end

