-- ==== Sys2Proof/Machine/Routine.lean ====
section
/-!
DEFINITION. Routines (R191 to R197, R202, R412 to R414): the slots, an invocation, and the reductions.
-/
namespace Sys2Proof.Machine

/-! ## The operations (R194, R413, R414) -/

/-- Register `n` of the routine unit. -/
def RoutineUnit.reg (u : RoutineUnit) (n : BitVec 3) : Nat := u.t[n.toNat].toNat % 2 ^ fmtWidth u.fmt

/-- An integer result of `w` bits with no flag. -/
def plain (w x : Nat) : Nat × Nat := (x % 2 ^ w, 0)

/-- An operation with an integer form and a floating form, on the working format. -/
def byFmt (f : Nat) (i : Nat → Nat × Nat) (g : Nat → Nat × Nat) : Nat × Nat :=
  if isFloatFmt f then g f else i (fmtWidth f)

/-- 1 or 0 in the working format. -/
def truthIn (f : Nat) (b : Bool) : Nat := if b then (if isFloatFmt f then (roundFloat f 0 false 1 0).1 else 1) else 0

/-- RCMPLT: a floating comparison with a NaN raises NV. -/
def slotLess (f a b : Nat) : Nat × Nat :=
  if isFloatFmt f then
    (truthIn f (ltNum (decodeFloat f a) (decodeFloat f b)), nvIf ((decodeFloat f a).isNaN || (decodeFloat f b).isNaN))
  else (truthIn f (decide (toSigned (fmtWidth f) a < toSigned (fmtWidth f) b)), 0)

/-- RCMPEQ. -/
def slotEqual (f a b : Nat) : Nat × Nat :=
  if isFloatFmt f then
    (truthIn f (eqNum (decodeFloat f a) (decodeFloat f b)),
     nvIf ((decodeFloat f a).isSignalling || (decodeFloat f b).isSignalling))
  else (truthIn f (a == b), 0)

/-- A value that RSEL takes as nonzero. -/
def nonzeroIn (f x : Nat) : Bool := if isFloatFmt f then !(decodeFloat f x).isZero else x != 0

/-- The lesser or greater of two signed integers. -/
def intMinMax (w : Nat) (greater : Bool) (a b : Nat) : Nat × Nat :=
  (if decide (toSigned w a < toSigned w b) != greater then a else b, 0)

/-- RCVT to an integral value. -/
def integralIn (f x : Nat) : Nat × Nat :=
  match decodeFloat f x with
  | .fin neg m e =>
    let r := roundToNat 0 neg m e
    ((roundFloat f 0 neg r.1 0).1, if r.2 then flagNX else 0)
  | y => encodeFloat f 0 y

/-- The format that RCVT's b field names. -/
def rcvtFmt (g : Nat) : Nat := [5, 4, 6, 7, 8, 9].getD g 5

/-- RCVT. -/
def slotConvert (f g x : Nat) : Nat × Nat :=
  if g = 6 then integralIn f x
  else
    let y := convert (rcvtFmt g) f 0 x
    let z := convert f (rcvtFmt g) 0 y.1
    (z.1, joinFlags y.2 z.2)

/-- RCONST's literal in the working format. -/
def literalIn (f l : Nat) : Nat :=
  if f = 3 then (convert 3 5 0 l).1 else if isFloatFmt f then l else ofSigned (fmtWidth f) (toSigned 16 l)

/-! ## Steps -/

/-- A step that writes t, with the flags it raises; the unit moves on by `n` slots. With traps enabled NV, DZ or
OF end the invocation (R202). -/
def RoutineUnit.write (u : RoutineUnit) (t : BitVec 3) (n : Nat) (r : Nat × Nat) : RoutineUnit :=
  if u.trap && r.2 % 8 != 0 then { u with flags := BitVec.ofNat 8 r.2, active := false, fault := true }
  else { u with t := u.t.set t.toNat (BitVec.ofNat 64 (r.1 % 2 ^ fmtWidth u.fmt)), step := u.step + n, flags := BitVec.ofNat 8 r.2 }

/-- RRET: the invocation ends. -/
def RoutineUnit.stop (u : RoutineUnit) : RoutineUnit := { u with active := false, flags := 0 }

/-- One slot (R194, R413). Other instructions do nothing here. -/
def runSlot (i : Instr) (u : RoutineUnit) : RoutineUnit :=
  match i with
  | .rmov t a => u.write t 1 (u.reg a, 0)
  | .radd t a b => u.write t 1 (byFmt u.fmt (fun w => plain w (u.reg a + u.reg b)) (fun f => fpAdd f 0 (u.reg a) (u.reg b)))
  | .rsub t a b => u.write t 1 (byFmt u.fmt (fun w => plain w (u.reg a + 2 ^ w - u.reg b)) (fun f => fpSub f 0 (u.reg a) (u.reg b)))
  | .rmul t a b => u.write t 1 (byFmt u.fmt (fun w => plain w (u.reg a * u.reg b)) (fun f => fpMul f 0 (u.reg a) (u.reg b)))
  | .rfma t a b => u.write t 1 (byFmt u.fmt (fun w => plain w (u.reg a * u.reg b + u.reg t))
      (fun f => fpFma f 0 (u.reg a) (u.reg b) (u.reg t)))
  | .rmin t a b => u.write t 1 (byFmt u.fmt (fun w => intMinMax w false (u.reg a) (u.reg b))
      (fun f => minMaxFloat f false (u.reg a) (u.reg b)))
  | .rmax t a b => u.write t 1 (byFmt u.fmt (fun w => intMinMax w true (u.reg a) (u.reg b))
      (fun f => minMaxFloat f true (u.reg a) (u.reg b)))
  | .rneg t a => u.write t 1 (byFmt u.fmt (fun w => plain w (2 ^ w - u.reg a)) (fun f => (fpNeg f (u.reg a), 0)))
  | .rabs t a => u.write t 1 (byFmt u.fmt (fun w => plain w (toSigned w (u.reg a)).natAbs) (fun f => (fpAbs f (u.reg a), 0)))
  | .rcmplt t a b => u.write t 1 (slotLess u.fmt (u.reg a) (u.reg b))
  | .rcmpeq t a b => u.write t 1 (slotEqual u.fmt (u.reg a) (u.reg b))
  | .rsel t a b => u.write t 1 (if nonzeroIn u.fmt (u.reg t) then u.reg a else u.reg b, 0)
  | .rand t a b => u.write t 1 (Nat.land (u.reg a) (u.reg b), 0)
  | .ror t a b => u.write t 1 (Nat.lor (u.reg a) (u.reg b), 0)
  | .rxor t a b => u.write t 1 (Nat.xor (u.reg a) (u.reg b), 0)
  | .rshl t a b => u.write t 1 (plain (fmtWidth u.fmt) (u.reg a * 2 ^ (u.reg b % fmtWidth u.fmt)))
  | .rshr t a b m => u.write t 1 (if m == 1
      then (ofSigned (fmtWidth u.fmt) (toSigned (fmtWidth u.fmt) (u.reg a) / ((2 ^ (u.reg b % fmtWidth u.fmt) : Nat) : Int)), 0)
      else (u.reg a / 2 ^ (u.reg b % fmtWidth u.fmt), 0))
  | .rcvt t a g => u.write t 1 (slotConvert u.fmt g.toNat (u.reg a))
  | .rexp t a => u.write t 1 (fpExp u.fmt (u.reg a))
  | .rconst l t => u.write t 2 (literalIn u.fmt l.toNat, 0)
  | .rret => u.stop
  | _ => u

/-- The slot at the unit's step, its literal above it. -/
def RoutineUnit.word (u : RoutineUnit) : Nat := u.slots.getD u.step 0 + 2 ^ 16 * u.slots.getD (u.step + 1) 0

/-- The unit runs until RRET, a trap, or the end of `k` slots. -/
def runSlots : Nat → RoutineUnit → RoutineUnit
  | 0, u => u
  | k + 1, u =>
    if !u.active then u
    else
      match decodeSlot u.word with
      | .ok i => runSlots k (runSlot i u)
      | .error _ => { u with active := false, fault := true }

/-- What a step of an invocation raised: its flags and its index (R203). -/
abbrev Raised := Nat × Nat

/-- The inputs in t0, t1, …, and +0 in the other registers (R196). -/
def loadInputs (xs : List Nat) : Vector (BitVec 64) 8 := Vector.ofFn (fun i : Fin 8 => BitVec.ofNat 64 (xs.getD i.val 0))

/-- One invocation of a routine (R196): its result, or what ended it. -/
def invoke (r : Routine) (xs : List Nat) : Except Raised Nat :=
  let u := runSlots 33 { t := loadInputs xs, fmt := r.fmt, step := 0, flags := 0, trap := r.trap, slots := r.slots,
                         active := true, fault := false }
  if u.fault then .error (u.flags.toNat % 8, u.step) else .ok (u.reg 0)

/-! ## Reductions (R197) -/

/-- The fault of a combine: what was raised, and the combine's number. -/
abbrev CombineFault := Raised × Nat

/-- One combine. -/
def combine (r : Routine) (c a b : Nat) : Except CombineFault Nat :=
  match invoke r [a, b] with
  | .ok x => .ok x
  | .error e => .error (e, c)

/-- A level of the pairwise loop; `c` is the next combine's number. -/
def pairLevel (r : Routine) : Nat → List Nat → Except CombineFault (List Nat × Nat)
  | c, a :: b :: l => do
    let x ← combine r c a b
    let (xs, c2) ← pairLevel r (c + 1) l
    return (x :: xs, c2)
  | c, l => .ok (l, c)

/-- The pairwise loop of R124, in at most `k` levels. -/
def pairTree (r : Routine) : Nat → Nat → List Nat → Except CombineFault (Nat × Nat)
  | 0, c, l => .ok (l.headD 0, c)
  | k + 1, c, l =>
    if l.length ≤ 1 then .ok (l.headD 0, c)
    else do
      let (xs, c2) ← pairLevel r c l
      pairTree r k c2 xs

/-- The trees of the groups of 16, in order. -/
def groupTrees (r : Routine) : Nat → Nat → List Nat → Except CombineFault (List Nat × Nat)
  | 0, c, _ => .ok ([], c)
  | k + 1, c, l =>
    if l.isEmpty then .ok ([], c)
    else do
      let (x, c2) ← pairTree r 5 c (l.take 16)
      let (xs, c3) ← groupTrees r k c2 (l.drop 16)
      return (x :: xs, c3)

/-- From the left. -/
def foldLeft (r : Routine) : Nat → Nat → List Nat → Except CombineFault Nat
  | _, acc, [] => .ok acc
  | c, acc, x :: l => do
    let y ← combine r c acc x
    foldLeft r (c + 1) y l

/-- reduce(h, x) for a list that is not empty (R197). -/
def reduce (r : Routine) (xs : List Nat) : Except CombineFault Nat :=
  if !r.assoc then foldLeft r 0 (xs.headD 0) xs.tail
  else do
    let (parts, c) ← groupTrees r xs.length 0 xs
    let (x, _) ← pairTree r parts.length c parts
    return x

/-! ## The built-in routines (R191) -/

/-- The format of a built-in handle before its job settles it. -/
def unsettled : Nat := 255

/-- The identity of a built-in handle in a format. -/
def builtinIdent (h f : Nat) : Nat :=
  let w := fmtWidth f
  match h with
  | 0 => 0
  | 1 => truthIn f true
  | 2 => if isFloatFmt f then infPattern f true else 2 ^ (w - 1)
  | _ => if isFloatFmt f then infPattern f false else 2 ^ (w - 1) - 1

/-- The routine of a built-in handle. -/
def builtin (h : Nat) : Routine :=
  { handle := h, arity := 2, fmt := unsettled, assoc := true, ident := none, trap := false,
    slots := [[0x0804, 0x1804, 0x3004, 0x2804].getD h 0x0804, 0xA000] }

/-- A routine in the format its job works in. -/
def Routine.settle (r : Routine) (f : Nat) : Routine :=
  if r.fmt = unsettled then { r with fmt := f, ident := some (builtinIdent r.handle f) } else r

/-! ## The slots as instructions of the routine unit -/

/-- A slot executed by the routine unit. -/
def slotExec (i : Instr) (s : State) : Host.Outcome State Fault Refusal := .next { s with rt := runSlot i s.rt }

/-- RMOV (R413). -/
def execRmov (t a : BitVec 3) (s : State) : Host.Outcome State Fault Refusal := slotExec (.rmov t a) s

/-- RADD (R413). -/
def execRadd (t a b : BitVec 3) (s : State) : Host.Outcome State Fault Refusal := slotExec (.radd t a b) s

/-- RSUB (R413). -/
def execRsub (t a b : BitVec 3) (s : State) : Host.Outcome State Fault Refusal := slotExec (.rsub t a b) s

/-- RMUL (R413). -/
def execRmul (t a b : BitVec 3) (s : State) : Host.Outcome State Fault Refusal := slotExec (.rmul t a b) s

/-- RFMA (R413). -/
def execRfma (t a b : BitVec 3) (s : State) : Host.Outcome State Fault Refusal := slotExec (.rfma t a b) s

/-- RMIN (R413). -/
def execRmin (t a b : BitVec 3) (s : State) : Host.Outcome State Fault Refusal := slotExec (.rmin t a b) s

/-- RMAX (R413). -/
def execRmax (t a b : BitVec 3) (s : State) : Host.Outcome State Fault Refusal := slotExec (.rmax t a b) s

/-- RNEG (R413). -/
def execRneg (t a : BitVec 3) (s : State) : Host.Outcome State Fault Refusal := slotExec (.rneg t a) s

/-- RABS (R413). -/
def execRabs (t a : BitVec 3) (s : State) : Host.Outcome State Fault Refusal := slotExec (.rabs t a) s

/-- RCMPLT (R413). -/
def execRcmplt (t a b : BitVec 3) (s : State) : Host.Outcome State Fault Refusal := slotExec (.rcmplt t a b) s

/-- RCMPEQ (R413). -/
def execRcmpeq (t a b : BitVec 3) (s : State) : Host.Outcome State Fault Refusal := slotExec (.rcmpeq t a b) s

/-- RSEL (R413). -/
def execRsel (t a b : BitVec 3) (s : State) : Host.Outcome State Fault Refusal := slotExec (.rsel t a b) s

/-- RAND (R413). -/
def execRand (t a b : BitVec 3) (s : State) : Host.Outcome State Fault Refusal := slotExec (.rand t a b) s

/-- ROR (R413). -/
def execRor (t a b : BitVec 3) (s : State) : Host.Outcome State Fault Refusal := slotExec (.ror t a b) s

/-- RXOR (R413). -/
def execRxor (t a b : BitVec 3) (s : State) : Host.Outcome State Fault Refusal := slotExec (.rxor t a b) s

/-- RSHL (R413). -/
def execRshl (t a b : BitVec 3) (s : State) : Host.Outcome State Fault Refusal := slotExec (.rshl t a b) s

/-- RSHR (R413). -/
def execRshr (t a b : BitVec 3) (m : BitVec 1) (s : State) : Host.Outcome State Fault Refusal := slotExec (.rshr t a b m) s

/-- RCVT (R413). -/
def execRcvt (t a g : BitVec 3) (s : State) : Host.Outcome State Fault Refusal := slotExec (.rcvt t a g) s

/-- REXP (R413). -/
def execRexp (t a : BitVec 3) (s : State) : Host.Outcome State Fault Refusal := slotExec (.rexp t a) s

/-- RCONST (R413). -/
def execRconst (l : BitVec 16) (t : BitVec 3) (s : State) : Host.Outcome State Fault Refusal := slotExec (.rconst l t) s

/-- RRET (R413). -/
def execRret (s : State) : Host.Outcome State Fault Refusal := slotExec (.rret) s

end Sys2Proof.Machine
end

