-- ==== Sys2Proof/Machine/Coll.lean ====
section
/-!
DEFINITION. COLL (R263 to R268, R276 to R283, R356): the checks before registration, what a member shows its peers,
the data phase, flags, chunk states and the abort record.
-/
namespace Sys2Proof.Machine

/-! ## The command's fields (R263) -/

def collOp (j : Job) : Nat := bits j.tile.w4.toNat 3 0
def collFmt (j : Job) : Nat := bits j.tile.w4.toNat 7 4
def collSlot (j : Job) : Nat := if bits j.tile.w4.toNat 31 16 = 0 then 200 else bits j.tile.w4.toNat 31 16
def collKey (j : Job) : Nat := j.tile.w5.toNat
def collRoot (j : Job) : Nat := bits j.tile.w6.toNat 15 0

/-- The start time T of a COLL with .at (R283). -/
def collAt (j : Job) : Option Nat := if j.flag 1 then some (j.member 0).z.data.toNat else none

/-- X and Y are one buffer. -/
def collInPlace (j : Job) : Bool := (j.member 0).x.addr == (j.member 0).y.addr

/-- The communicator of a registered job. -/
def Job.group (j : Job) : Comm := j.comm.getD ⟨0, 0, [], 0, 0, 0⟩

/-- Blocks of the source and of the destination (R266). -/
def sourceBlocks (op p : Nat) : Nat := if op = 1 ∨ op = 4 then p else 1
def destBlocks (op p : Nat) : Nat := if op = 2 ∨ op = 4 then p else 1

/-- The bytes of a block of COUNT elements. -/
def blockSize (j : Job) (count : Nat) : Nat := ceilDiv (count * fmtWidth (collFmt j)) 8

/-- The chunks of a block, and of the destination (R277). -/
def blockChunks (count : Nat) : Nat := ceilDiv count 1024
def collChunks (j : Job) (g : Comm) : Nat := blockChunks g.count * destBlocks (collOp j) g.members.length

/-! ## The checks before registration (R265, R266, R280) -/

/-- The members of a table. -/
def memberTable (p : Nat) (bs : List Byte) : List Member :=
  (elemsOf 32 (ofBytesLE bs) p).map (fun e => ⟨BitVec.ofNat 12 e, BitVec.ofNat 2 (e / 2 ^ 12)⟩)

/-- No two entries are equal. -/
def distinctMembers : List Member → Bool
  | [] => true
  | m :: r => !r.contains m && distinctMembers r

/-- Two ranges of bytes overlap. -/
def overlap (a n b m : Nat) : Bool := n != 0 && m != 0 && decide (a < b + m) && decide (b < a + n)

/-- The overlaps that R266 allows. -/
def overlapOk (j : Job) (g : Comm) : Bool :=
  let p := g.members.length
  let b := blockSize j g.count
  let x := (j.member 0).x.addr
  let y := (j.member 0).y.addr
  !overlap y (b * sourceBlocks (collOp j) p) x (b * destBlocks (collOp j) p) ||
    ((collOp j == 0 || collOp j == 3) && x == y)

/-- The member that a job is (R265). -/
def collSelf (j : Job) (s : State) : Member := ⟨s.pkgid, BitVec.ofNat 2 (dieOf j.quire)⟩

/-- The communicator as it is read: its fields, and whether it keeps R265. -/
def collComm (j : Job) (s : State) : Je (Comm × Bool × State) := do
  let w := (j.member 0).w
  let (bs, s1) ← jobRead j w w.addr 64 1 s
  let x := ofBytesLE bs
  let p := bits x 43 32 + 1
  let (ts, s2) ← jobRead j w ((w.addr + 64) % 2 ^ 64) (4 * p) 1 s1
  let table := memberTable p ts
  let (sh, s3) ← jobShape j 0 j.tile.shape.toNat s2
  let g : Comm := { commid := bits x 31 0, rank := bits x 55 44, members := table, flagoff := bits x 95 64,
                    stateoff := bits x 127 96, count := sh.dims.foldl (fun k d => k * d.1) 1 }
  let ok := bits x 63 56 == 0 && x / 2 ^ 128 == 0 && (elemsOf 32 (ofBytesLE ts) p).all (fun e => decide (e < 2 ^ 14)) &&
    decide (g.rank < p) && table[g.rank]? == some (collSelf j s) && distinctMembers table &&
    !(collOp j == 3 && decide (p ≤ collRoot j)) && g.flagoff % 8 == 0 && g.stateoff % 8 == 0 &&
    sh.parts.all (· == 0) && overlapOk j g &&
    !(decide (2 ≤ collOp j) && decide (fmtWidth (collFmt j) < 8) && g.count % 8 != 0)
  return (g, ok, s3)

/-- The record that .resume reads is that of the same collective (R280). -/
def collResume (j : Job) (g : Comm) (s : State) : Je State := do
  if !j.flag 0 then return s
  else
    let (x, s1) ← readRecord j s
    let ok := recOp x == 1 && recClass x == 3 && decide (1 ≤ recStatus x) && decide (recStatus x ≤ 4) &&
      bits x 147 144 == collOp j && bits x 151 148 == collFmt j && bits x 127 96 == collChunks j g &&
      (!bitOf x 152 || (bits x 191 160 == 0 && bits x 223 192 == 0))
    if ok then return s1 else jobFault .formatFault 0

/-! ## The abort record (R279) -/

/-- The record of a job that ends other than DONE. -/
def collRecord (j : Job) (st cause culprit final partialn step comb flags elem fval : Nat) : List Word :=
  jobWords (j.id % 2 ^ 32 + st * 2 ^ 32 + cause * 2 ^ 40 + 3 * 2 ^ 51 + 1 * 2 ^ 56 + j.number.getD 0 * 2 ^ 64 +
    (match j.comm with | some g => collChunks j g | none => 0) % 2 ^ 32 * 2 ^ 96 + culprit % 2 ^ 16 * 2 ^ 128 +
    collOp j * 2 ^ 144 + collFmt j * 2 ^ 148 + b2n (collInPlace j) * 2 ^ 152 + b2n j.number.isSome * 2 ^ 153 +
    final % 2 ^ 32 * 2 ^ 160 + partialn % 2 ^ 32 * 2 ^ 192 + j.tile.ha.toNat * 2 ^ 224 + step * 2 ^ 232 +
    elem % 2 ^ 64 * 2 ^ 256 + comb % 2 ^ 32 * 2 ^ 320 + flags * 2 ^ 352 + fval % 2 ^ 64 * 2 ^ 384)

/-- STEP of a fault outside a routine: 0xFE for an access. -/
def accessStep (c : Cause) : Nat := if c = .formatFault then 0 else 0xFE

/-- A job that ends before it registers. -/
def collEarly (j : Job) : JobHalt → Je JobEnd
  | .fault c v _ => .ok ⟨statusWord 2 c.num, collRecord j 2 c.num 0xFFFF 0 0 (accessStep c) 0 0 0 (fvalOf c v)⟩
  | h => .error h

/-- The checks of R265 and R280: the communicator, or the job's end. Where COUNT and SIZE have been read, the record has the
chunks of the destination (R279). -/
def runColl (j : Job) (s : State) : Je (Except JobEnd Comm × State) :=
  match collComm j s with
  | .error h => do
    let e ← collEarly j h
    return (.error e, s)
  | .ok (g, ok, s1) =>
    match (if ok then collResume j g s1 else jobFault .formatFault 0 : Je State) with
    | .error h => do
      let e ← collEarly { j with comm := some g } h
      return (.error e, s1)
    | .ok s2 => .ok (.ok g, s2)

/-! ## What a member shows its peers (R276, R277) -/

/-- Source elements from number `i`, `n` of them: their bytes, and those that cannot be read. -/
def collSource (j : Job) (ub : Nat) : Nat → Nat → State → Je (List Byte × List (Nat × Cause × Nat) × State)
  | 0, _, s => .ok ([], [], s)
  | n + 1, i, s =>
    match jobRead j (j.member 0).y (((j.member 0).y.addr + i * ub) % 2 ^ 64) ub 1 s with
    | .ok (bs, s1) => do
      let (r, l, s2) ← collSource j ub n (i + 1) s1
      return (bs ++ r, l, s2)
    | .error (.fault c v _) => do
      let (r, l, s2) ← collSource j ub n (i + 1) s
      return (List.replicate ub 0 ++ r, (i * ub * 8 / fmtWidth (collFmt j), c, fvalOf c v) :: l, s2)
    | .error h => .error h

/-- The first destination element that cannot be written. -/
def collDest (j : Job) (ub : Nat) : Nat → Nat → State → Je (Option (Nat × Cause × Nat) × State)
  | 0, _, s => .ok (none, s)
  | n + 1, i, s =>
    match checkWrite j (j.member 0).x (((j.member 0).x.addr + i * ub) % 2 ^ 64) ub 1 s with
    | .ok (_, s1) => collDest j ub n (i + 1) s1
    | .error (.fault c v _) => .ok (some (i * ub * 8 / fmtWidth (collFmt j), c, fvalOf c v), s)
    | .error h => .error h

/-- What the members compare at start (R276). -/
def collParams (j : Job) (g : Comm) : List Nat := [collOp j, collFmt j, g.count, j.tile.ha.toNat, collRoot j]

/-- A member's contribution, as it starts (R266, R283). -/
def collContribute (j : Job) (g : Comm) (num : Nat) (s : State) : Je (Contribution × State) := do
  let ub := max 1 (fmtWidth (collFmt j) / 8)
  let b := blockSize j g.count
  let p := g.members.length
  let reads := if collOp j = 3 ∧ g.rank ≠ collRoot j then 0 else b * sourceBlocks (collOp j) p / ub
  let (bs, bad, s1) ← collSource j ub reads 0 s
  let (d, s2) ← collDest j ub (b * destBlocks (collOp j) p / ub) 0 s1
  return ({ num := num, rank := g.rank, params := collParams j g, members := g.members, stamp := s.now,
            lost := bitOf (s.rasOf 10).toNat 0, bytes := bs, bad := bad, dest := d }, s2)

/-! ## Faults of the data phase (R277) -/

/-- The order of faults: chunk, element, check, rank. -/
def CollFault.before (a b : CollFault) : Bool :=
  if a.chunk ≠ b.chunk then decide (a.chunk < b.chunk)
  else if a.elem ≠ b.elem then decide (a.elem < b.elem)
  else if a.check ≠ b.check then decide (a.check < b.check)
  else decide (a.rank < b.rank)

/-- The first fault of a list. -/
def firstCollFault : List CollFault → Option CollFault
  | [] => none
  | a :: r =>
    match firstCollFault r with
    | none => some a
    | some b => if b.before a then some b else some a

/-- Chunk and element, in destination order, of element `i` of rank `s`'s source (R266). -/
def destOrder (op count s i : Nat) : Nat × Nat :=
  let e := if op = 1 ∨ op = 4 then i % max 1 count else i
  if op = 2 ∨ op = 4 then (s * blockChunks count + e / 1024, s * count + e) else (e / 1024, e)

/-- Chunk and element of destination element `d`. -/
def destPlace (op count d : Nat) : Nat × Nat :=
  if op = 2 ∨ op = 4 then (d / max 1 count * blockChunks count + d % max 1 count / 1024, d) else (d / 1024, d)

/-- The memory faults that a contribution tells of. -/
def memoryFaults (op count : Nat) (c : Contribution) : List CollFault :=
  c.bad.map (fun x =>
    let (k, e) := destOrder op count c.rank x.1
    { chunk := k, elem := e, check := 0, rank := c.rank, cause := x.2.1, fval := x.2.2, step := 0xFE, comb := 0, flags := 0,
      source := x.1 }) ++
  (match c.dest with
   | none => []
   | some x =>
     let (k, e) := destPlace op count x.1
     [{ chunk := k, elem := e, check := 3, rank := c.rank, cause := x.2.1, fval := x.2.2, step := 0xFE, comb := 0, flags := 0,
        source := x.1 }])

/-- A level of the pairwise loop over values with the lowest rank each covers; a step that faults gives what it raised,
the combine's number and the culprit (R267, R277). -/
def collLevel (r : Routine) : Nat → List (Nat × Nat) → Except (CombineFault × Nat) (List (Nat × Nat) × Nat)
  | c, a :: b :: l =>
    match combine r c a.1 b.1 with
    | .error e => .error (e, a.2)
    | .ok x => do
      let (xs, c2) ← collLevel r (c + 1) l
      return ((x, a.2) :: xs, c2)
  | c, l => .ok (l, c)

/-- The pairwise loop of R124 in rank order. -/
def collTree (r : Routine) : Nat → Nat → List (Nat × Nat) → Except (CombineFault × Nat) Nat
  | 0, _, l => .ok (l.headD (0, 0)).1
  | k + 1, c, l =>
    if l.length ≤ 1 then .ok (l.headD (0, 0)).1
    else do
      let (xs, c2) ← collLevel r c l
      collTree r k c2 xs

/-- The format of intermediate values (R267). -/
def wideFmt (f : Nat) : Nat := if isFloatFmt f then 3 else 0

/-- Element `i` of a contribution. -/
def Contribution.elem (c : Contribution) (f i : Nat) : Nat :=
  ofBytesLE ((c.bytes.drop (i * (fmtWidth f / 8))).take (fmtWidth f / 8))

/-- Element `e` of the destination of rank `r`: its value, or the fault at it (R267, R277). -/
def reduceElem (j : Job) (cs : List Contribution) (r count e : Nat) : Except CollFault Nat :=
  let f := collFmt j
  let w := wideFmt f
  let i := if collOp j = 1 then r * count + e else e
  let xs := cs.map (fun c => (c.elem f i, c.rank))
  let fault : CollFault := { chunk := e / 1024, elem := e, check := 1, rank := 0, cause := .nonfinite, fval := 0, step := 0,
                             comb := 0, flags := 0, source := i }
  match xs.find? (fun x => isFloatFmt f && ((decodeFloat f x.1).isNaN || (decodeFloat f x.1).isInf)) with
  | some x => .error { fault with rank := x.2 }
  | none =>
    match collTree (((j.routines[0]?).getD (builtin 0)).settle w) 13 0 (xs.map (fun x => ((convert w f 0 x.1).1, x.2))) with
    | .ok y => .ok (convert f w 0 y).1
    | .error ((e2, c), k) =>
      .error { fault with check := 2, rank := k, cause := .routineFault, step := e2.2, flags := e2.1, comb := c }

/-- The faults at the elements of a reduction's destinations. -/
def reduceFaults (j : Job) (cs : List Contribution) (p count : Nat) : List CollFault :=
  if 2 ≤ collOp j then []
  else
    (List.range (if collOp j = 1 then p else 1)).flatMap (fun r =>
      (List.range count).filterMap (fun e =>
        if cs.any (fun c => c.bad.any (fun x => x.1 == (if collOp j = 1 then r * count + e else e))) then none
        else match reduceElem j cs r count e with | .ok _ => none | .error x => some x))

/-- The fault that halts a collective (R277). -/
def collHalt (j : Job) (g : Comm) (cs : List Contribution) : Option CollFault :=
  firstCollFault (cs.flatMap (memoryFaults (collOp j) g.count) ++ reduceFaults j cs g.members.length g.count)

/-! ## The members' meeting (R276, R277) -/

/-- The member that a contribution is of: its rank in its own table (R265). -/
def Contribution.self (c : Contribution) : Option Member := c.members[c.rank]?

/-- A contribution takes the place of an earlier one of the same member. -/
def showContribution (c : Contribution) (s : State) : State :=
  { s with contributions := s.contributions.filter (fun x => !(x.num == c.num && x.rank == c.rank && x.self == c.self)) ++ [c] }

/-- What a rank has shown of a collective. -/
def State.shown (s : State) (num r : Nat) : Option Contribution := s.contributions.find? (fun c => c.num == num && c.rank == r)

/-- The job has a number, at a die. -/
def hasNumber (die num : Nat) (j : Job) : Bool := j.cls == 3 && j.unit == die && j.number == some num

/-- The members that some member tables give a rank. -/
def rankMembers (tables : List (List Member)) (r : Nat) : List Member := (tables.filterMap (·[r]?)).eraseDups

/-- Why a member that has shown nothing will not: REASON 8 where its package is unreachable, 10 where it is another package
that has not answered for 10 ms since the start of the member with `g` (R254, R277). -/
def missing (num : Nat) (g : Comm) (s : State) (m : Member) : Option Nat :=
  if noRoute s m.pkg then some 8
  else if m.pkg != s.pkgid && (s.shown num g.rank).any (fun c => decide (c.stamp + 10000000 ≤ s.now)) then some 10
  else none

/-- The member takes no part in a number: it is of this package, and its engine has no job of it. Then the table that names
it is not the one with which the number was assigned (R269, R276). -/
def outside (num : Nat) (s : State) (m : Member) : Bool := m.pkg == s.pkgid && !s.jobs.any (hasNumber m.die.toNat num)

/-- The contributions of a rank among some tables, none while one is waited for; a member that is missing is a culprit with
REMOTE_FAULT, at its first source element (R277), and differs in no parameter. -/
def contributionsOf (num : Nat) (g : Comm) (params : List Nat) (tables : List (List Member)) (s : State) (r : Nat) :
    Option (List Contribution) :=
  match s.contributions.filter (fun c => c.num == num && c.rank == r) with
  | [] =>
    ((rankMembers tables r).filter (fun m => !outside num s m)).mapM (fun m => (missing num g s m).map (fun k =>
      { num := num, rank := r, params := ((s.shown num 0).map (·.params)).getD params,
        members := ((s.shown num 0).map (·.members)).getD g.members, stamp := s.now, lost := false, bytes := [],
        bad := [(0, .remoteFault, (remoteTval 0 m.pkg.toNat k).toNat)], dest := none }))
  | l => some l

/-- The member tables that say who meets: rank 0's, once it has shown it, and the member's own (R276). -/
def meetingTables (num : Nat) (g : Comm) (s : State) : List (List Member) :=
  ((s.shown num 0).map (·.members)).toList ++ [g.members]

/-- The ranks that meet: those of the tables, and any that a member has shown. -/
def meetingSize (num : Nat) (g : Comm) (s : State) : Nat :=
  let shown := s.contributions.filter (fun (c : Contribution) => c.num == num)
  ((meetingTables num g s).map List.length ++ shown.map (fun (c : Contribution) => c.rank + 1)).foldl max 0

/-- A member of this package has the number and has not started yet. -/
def unstarted (num : Nat) (s : State) : Bool := s.jobs.any (fun k => k.cls == 3 && k.number == some num && k.stage == .registered)

/-- Every member's contribution, in rank order, once all are there: those of the tables, and those of members beside them
that have the number too (R269, R276). -/
def allContributions (num : Nat) (g : Comm) (params : List Nat) (s : State) : Option (List Contribution) :=
  if unstarted num s then none
  else ((List.range (meetingSize num g s)).mapM (contributionsOf num g params (meetingTables num g s) s)).map (·.flatten)

/-- The lowest rank whose parameters differ from rank 0's (R276). -/
def paramCulprit (cs : List Contribution) : Option Nat :=
  match cs.head? with
  | none => none
  | some c0 => (cs.find? (fun c => c.params != c0.params || c.members != c0.members)).map (·.rank)

/-- SKEW of a member (R283). -/
def collSkew (j : Job) (cs : List Contribution) (lost : Bool) : Bool :=
  (collAt j).isSome && (lost ||
    decide (collSlot j < cs.foldl (fun a c => max a c.stamp) 0 - cs.foldl (fun a c => min a c.stamp) ((cs.headD default).stamp)))

/-! ## Blocks, flags and chunk states (R278, R281) -/

/-- The block of the destination that source `r` fills (R266). -/
def blockBytesOf (j : Job) (g : Comm) (c : Contribution) : List Byte :=
  let b := blockSize j g.count
  if collOp j = 4 then (c.bytes.drop (g.rank * b)).take b else c.bytes.take b

/-- The chunks that its own array marks final, for a resumed job (R280). -/
def ownFinals (j : Job) (g : Comm) (s : State) : Je (List Nat × State) :=
  let n := collChunks j g
  if !j.flag 0 || g.stateoff = 0 || n = 0 then .ok ([], s)
  else do
    let (bs, s1) ← jobRead j (j.member 0).w (((j.member 0).w.addr + g.stateoff) % 2 ^ 64) (ceilDiv n 4) 1 s
    return ((List.range n).filter (fun c => elemOf 2 (ofBytesLE bs) c == 2), s1)

/-- The bytes of chunk `c` of a block's bytes: offset and length. -/
def chunkSpan (j : Job) (g : Comm) (c : Nat) : Nat × Nat :=
  let w := fmtWidth (collFmt j)
  (c * 1024 * w / 8, min g.count ((c + 1) * 1024) * w / 8 - c * 1024 * w / 8)

/-- Chunk `c` of block `b` written, unless it is final already. -/
def writeChunk (j : Job) (g : Comm) (b c : Nat) (bs : List Byte) (s : State) : Je State :=
  let (o, n) := chunkSpan j g c
  if j.finals.contains (b * blockChunks g.count + c) then .ok s
  else jobWrite j (j.member 0).x (((j.member 0).x.addr + b * blockSize j g.count + o) % 2 ^ 64) ((bs.drop o).take n) 1 s

/-- The chunks `cs` of a block written. -/
def writeChunks (j : Job) (g : Comm) (b : Nat) (bs : List Byte) : List Nat → State → Je State
  | [], s => .ok s
  | c :: r, s => do
    let s1 ← writeChunk j g b c bs s
    writeChunks j g b bs r s1

/-- The flag of source `r`'s block, a release of the block (R281). -/
def writeFlag (j : Job) (g : Comm) (r : Nat) (s : State) : Je State :=
  if g.flagoff = 0 || decide (collOp j < 2) then .ok s
  else
    jobWrite j (j.member 0).w (((j.member 0).w.addr + g.flagoff + (if collOp j = 3 then 0 else 8 * r)) % 2 ^ 64)
      (toBytesLE 8 (2 ^ 32 + collKey j)) 1 s

/-- The chunk-state array: the final and the partial chunks (R278). -/
def writeStates (j : Job) (g : Comm) (final part : List Nat) (s : State) : Je State :=
  let n := collChunks j g
  if g.stateoff = 0 || n = 0 then .ok s
  else
    let codes := (List.range n).map (fun c => if final.contains c then 2 else if part.contains c then 1 else 0)
    jobWrite j (j.member 0).w (((j.member 0).w.addr + g.stateoff) % 2 ^ 64) (toBytesLE (ceilDiv n 4) (ofElems 2 codes)) 1 s

/-! ## The data phase -/

/-- The status bits LATE and SKEW (R184). -/
def collMarks (late skew : Bool) : Nat := b2n late * 2 ^ 8 + b2n skew * 2 ^ 9

/-- A collective decided: its status and record; SRC_FREE, VISIBLE and COLL_DONE follow. -/
def decideColl (j : Job) (st : Nat) (record : List Word) (finals : List Nat) (s : State) : State :=
  s.onJob j.id (fun k => { k.walked with stage := .running, status := st, record := record, finals := finals })

/-- An access to the flags or chunk states that fails: the job ends with its cause (assumption 34). One that waits does not. -/
def collBroken (j : Job) (marks : Nat) (finals : List Nat) (h : JobHalt) (s : State) : Je State :=
  match h with
  | .fault c v _ =>
    let st := if finals.isEmpty then 2 else 1
    return decideColl j (statusWord st c.num + marks)
      (collRecord j st c.num j.group.rank finals.length 0 (accessStep c) 0 0 0 (fvalOf c v)) finals s
  | h => .error h

/-- The values of a reduction's destination as bytes. -/
def reducedBytes (j : Job) (g : Comm) (cs : List Contribution) : List Byte :=
  (List.range g.count).flatMap (fun e => match reduceElem j cs g.rank g.count e with
    | .ok x => toBytesLE (fmtWidth (collFmt j) / 8) x
    | .error _ => List.replicate (fmtWidth (collFmt j) / 8) 0)

/-- The bytes of the whole destination, block after block. -/
def destBlockBytes (j : Job) (g : Comm) (cs : List Contribution) : List (List Byte) :=
  if collOp j < 2 then [reducedBytes j g cs]
  else if collOp j = 3 then [((cs[collRoot j]?).map (blockBytesOf j g)).getD []]
  else cs.map (blockBytesOf j g)

/-- Which chunks a halt leaves final, and which partial: timing decides (R278), so the choices are free. -/
def haltedChunks (j : Job) (g : Comm) (halt : Nat) (own : List Nat) (s : State) : List Nat × List Nat :=
  let n := collChunks j g
  let final := (List.range n).filter (fun c => own.contains c || (decide (c < halt) && Config.freeBit (s.free + 2 * c)))
  let part := (List.range n).filter (fun c => !final.contains c && collInPlace j && collOp j == 0 && Config.freeBit (s.free + 2 * c + 1))
  (final, part)

/-- The chunks of block `b` among chunk numbers. -/
def chunksIn (g : Comm) (b : Nat) (l : List Nat) : List Nat :=
  (List.range (blockChunks g.count)).filter (fun c => l.contains (b * blockChunks g.count + c))

/-- A block after a halt: its final chunks, free bytes in its partial ones, and its flag where all of it is final. -/
def haltBlock (j : Job) (g : Comm) (final part : List Nat) (b : Nat) (bs : List Byte) (s : State) : Je State := do
  let s1 ← writeChunks j g b bs (chunksIn g b final) s
  let (fs, s2) := freeBytes bs.length s1
  let s3 ← writeChunks j g b fs (chunksIn g b part) (if part.isEmpty then s1 else s2)
  if (chunksIn g b final).length = blockChunks g.count && collOp j ≠ 3 then writeFlag j g b s3
  else if (chunksIn g b final).length = blockChunks g.count then writeFlag j g (collRoot j) s3
  else return s3

/-- The blocks after a halt. -/
def haltBlocks (j : Job) (g : Comm) (final part : List Nat) : List (Nat × List Byte) → State → Je State
  | [], s => .ok s
  | (b, bs) :: r, s => do
    let s1 ← haltBlock j g final part b bs s
    haltBlocks j g final part r s1

/-- The end of a member that a fault halts, with its final and its partial chunks (R278, R279). -/
def haltedColl (j : Job) (g : Comm) (marks : Nat) (final part : List Nat) (h : CollFault) (s : State) : State :=
  let st := if h.rank ≠ g.rank then 3 else if final.isEmpty then 2 else 1
  decideColl j ((if st = 3 then 3 else statusWord st h.cause.num) + marks)
    (collRecord j st h.cause.num h.rank final.length part.length h.step h.comb h.flags h.source h.fval) final s

/-- A collective that a fault halts (R278). -/
def collHalted (j : Job) (g : Comm) (marks : Nat) (own : List Nat) (cs : List Contribution) (h : CollFault) (s : State) : Je State :=
  let (final, part) := haltedChunks j g h.chunk own s
  let s0 := { s with free := s.free + 2 * collChunks j g }
  match (do
    let s1 ← haltBlocks { j with finals := own } g final part ((destBlockBytes j g cs).mapIdx (fun b x => (b, x))) s0
    writeStates j g final part s1 : Je State) with
  | .error e => collBroken j marks own e s
  | .ok s2 => return haltedColl j g marks final part h s2

/-- A collective without a fault: a reduction writes its destination; a moving one leaves that to BLOCK_FINAL. -/
def collWhole (j : Job) (g : Comm) (marks : Nat) (own : List Nat) (cs : List Contribution) (s : State) : Je State :=
  let all := List.range (collChunks j g)
  if 2 ≤ collOp j then return decideColl j marks [] own s
  else
    match (do
      let s1 ← writeChunks { j with finals := own } g 0 (reducedBytes j g cs) (List.range (blockChunks g.count)) s
      writeStates j g all [] s1 : Je State) with
    | .error e => collBroken j marks own e s
    | .ok s2 => return decideColl j marks [] all s2

/-- The started members of a number of this package. -/
def startedJobs (num : Nat) (s : State) : List Job := s.jobs.filter (fun k => k.cls == 3 && k.number == some num && k.stage == .started)

/-- A part of a collective for each of some members, or the member that waits and why. -/
def eachMember (f : Job → State → Je State) : List Job → State → Except (Job × JobHalt) State
  | [], s => .ok s
  | k :: r, s =>
    match f k s with
    | .ok s1 => eachMember f r s1
    | .error h => .error (k, h)

/-- The destination of a started member checked again before any member writes: a fault that was not there at its start is
charged like one that was (R277, R278). -/
def recheckDest (num : Nat) (k : Job) (s : State) : Je State := do
  let g := k.group
  let ub := max 1 (fmtWidth (collFmt k) / 8)
  let (d, s1) ← collDest k ub (blockSize k g.count * destBlocks (collOp k) g.members.length / ub) 0 s
  let mark := fun (c : Contribution) =>
    if c.num == num && c.rank == g.rank && c.self == some (collSelf k s) then { c with dest := if c.dest.isSome then c.dest else d } else c
  return { s1 with contributions := s1.contributions.map mark }

/-- The data phase of one started member, once every member's contribution is there (R276 to R278). -/
def settleMember (num : Nat) (j : Job) (s : State) : Je State :=
  let g := j.group
  match allContributions num g (collParams j g) s with
  | none => .ok s
  | some cs =>
    let marks := collMarks (bitOf j.status 8) (collSkew j cs ((cs.find? (fun c => c.rank == g.rank)).any (·.lost)))
    match paramCulprit cs with
    | some r => .ok (decideColl j (3 + marks) (collRecord j 3 Cause.formatFault.num r 0 0 0 0 0 0 0) [] s)
    | none =>
      match ownFinals j g s with
      | .error h => collBroken j marks [] h s
      | .ok (own, s1) =>
        match collHalt j g cs with
        | some h => collHalted j g marks own cs h s1
        | none => collWhole j g marks own cs s1

/-- The data phase of a started job: its members of this package are settled together, and while one of them waits for a walk
none is (R138, R278). -/
def settleColl (id : Nat) (s : State) : State :=
  match s.jobOf id with
  | none => s
  | some j =>
    let num := j.number.getD 0
    if j.stage != .started || (allContributions num j.group (collParams j j.group) s).isNone then s
    else
      match (do
        let s1 ← eachMember (recheckDest num) (startedJobs num s) s
        eachMember (settleMember num) (startedJobs num s) s1) with
      | .ok s2 => s2
      | .error (k, h) => haltJob k h s

/-! ## BLOCK_FINAL (R281) -/

/-- The block number that source `r` fills. -/
def blockOf (j : Job) (r : Nat) : Nat := if collOp j = 3 then 0 else r

/-- The blocks of a moving collective that are not final yet. -/
def openBlocks (j : Job) : Bool :=
  j.comm.any (fun g => decide (2 ≤ collOp j) && j.status % 256 == 0 &&
    !(List.range (destBlocks (collOp j) g.members.length)).all (fun b => j.entered.contains b))

/-- The blocks and chunks of a block, and the bytes that go there. -/
def blockChunkNumbers (j : Job) (g : Comm) (r : Nat) : List Nat :=
  (List.range (blockChunks g.count)).map (fun c => blockOf j r * blockChunks g.count + c)

/-- The fault of a destination write of a member after its start, at the element that lies at the faulting address (R277). -/
def lateFault (j : Job) (g : Comm) (c : Cause) (v : Nat) : CollFault :=
  let x := (j.member 0).x.addr
  let i := (faultVa c v + 2 ^ 64 - x % (if c = .remoteFault then 2 ^ 48 else 2 ^ 56)) % (if c = .remoteFault then 2 ^ 48 else 2 ^ 56)
  let e := i * 8 / fmtWidth (collFmt j)
  let (k, d) := destPlace (collOp j) g.count e
  { chunk := k, elem := d, check := 3, rank := g.rank, cause := c, fval := fvalOf c v, step := 0xFE, comb := 0, flags := 0, source := e }

/-- A member of a running collective that a late fault halts: its chunks stay as they are, and its states are written. -/
def haltRunning (h : CollFault) (k : Job) (s : State) : Je State :=
  let marks := k.status / 256 % 4 * 256
  match writeStates k k.group k.finals [] s with
  | .error e => collBroken k marks k.finals e s
  | .ok s1 => .ok (haltedColl k k.group marks k.finals [] h s1)

/-- The members of a number of this package that are still whole and not over. -/
def runningJobs (num : Nat) (s : State) : List Job :=
  s.jobs.filter (fun k => k.cls == 3 && k.number == some num && k.stage == .running && k.status % 256 == 0)

/-- A part of a collective done, or the member that waits. -/
def orHalt (s : State) : Except (Job × JobHalt) State → State
  | .ok s1 => s1
  | .error (k, h) => haltJob k h s

/-- Block `r` of a running collective becomes final: its chunks, then its flag; the last one writes the states. A write of the
destination that faults now halts every member of this package (R278, assumption 34). -/
def finishBlock (j : Job) (r : Nat) (s : State) : State :=
  let g := j.group
  let b := blockOf j r
  match allContributions (j.number.getD 0) g (collParams j g) s with
  | none => s
  | some cs =>
    let finals := j.finals ++ (blockChunkNumbers j g r).filter (fun c => !j.finals.contains c)
    let last := (List.range (destBlocks (collOp j) g.members.length)).all (fun x => x == b || j.entered.contains x)
    match writeChunks j g b (((destBlockBytes j g cs)[b]?).getD []) (List.range (blockChunks g.count)) s with
    | .error (.fault c v _) => orHalt s (eachMember (haltRunning (lateFault j g c v)) (runningJobs (j.number.getD 0) s) s)
    | .error h => haltJob j h s
    | .ok s1 =>
      match (do
        let s2 ← writeFlag j g r s1
        if last then writeStates j g finals [] s2 else return s2 : Je State) with
      | .ok s3 => s3.onJob j.id (fun k => { k.walked with finals := finals, entered := k.entered ++ [b] })
      | .error e =>
        match collBroken j (j.status / 256 % 4 * 256) j.finals e s1 with
        | .ok s3 => s3
        | .error h => haltJob j h s

/-- Another member of this package of a collective still has to write its destination: none ends before (R278). -/
def peersOpen (j : Job) (s : State) : Bool :=
  j.number.isSome && s.jobs.any (fun k => k.cls == 3 && k.id != j.id && k.number == j.number &&
    (k.stage == .started || (k.stage == .running && openBlocks k)))

end Sys2Proof.Machine
end

