-- ==== Sys2Proof/Machine/Copy.lean ====
section
/-!
DEFINITION. The copy unit's COPY (R207 to R217) as its job runs.
-/
namespace Sys2Proof.Machine

/-- Word 4's fields of COPY (R207). -/
def copyDest (j : Job) : Nat := bits j.tile.w4.toNat 7 0
def copyMode (j : Job) : Nat := bits j.tile.w4.toNat 11 10
def copyStream (j : Job) : Bool := bitOf j.tile.w4.toNat 8

/-- One member's slices, formats and places (R208, R209): a count that differs, or packed elements with a stride,
is FORMAT_FAULT. -/
def copyPart (j : Job) (m : Nat) (s : State) : Je (CopyPart × State) := do
  let mb := j.member m
  let (a, s1) ← jobShape j m j.tile.shape.toNat s
  let (b, s2) ← jobShape j m (copyDest j) s1
  let src := a.slice mb.index
  let dst := b.slice mb.index
  if src.total ≠ dst.total then jobFault .formatFault 0 else pure ()
  if !packable a.etype src || (!copyStream j && !packable b.etype dst) then jobFault .formatFault 0 else pure ()
  let (x, s3) ← sourceSpot j m mb.y s2
  let (y, s4) ← if copyStream j then (.ok (.mem Reg.null, s3) : Je (Spot × State)) else destSpot j m mb.x s3
  return ({ src := src, srcFmt := a.etype, dst := dst, dstFmt := b.etype, source := x, dest := y }, s4)

/-- A pattern of a source element converted (R208). -/
def copyValue (j : Job) (p : CopyPart) (x : Nat) : Nat := if p.srcFmt = p.dstFmt then x else (convert p.dstFmt p.srcFmt (copyMode j) x).1

/-- Element `i` of a member converted (R208). -/
def copyElem (j : Job) (p : CopyPart) (i : Nat) (s : State) : Je (Nat × State) := do
  let (x, s1) ← readElem j p.source p.srcFmt true p.src i s
  return (copyValue j p x, s1)

/-- The physical bytes of element `i` of an operand, where they are memory of this package. -/
def elemRange (j : Job) (p : Spot) (et : Nat) (sl : Slice) (i : Nat) (s : State) : Option (Nat × Nat) :=
  let (o, b, _) := elemPos (fmtWidth et) sl i
  match spotAddr p o with
  | .ok (_, va) =>
    if isGlobal va && bits va 59 48 != s.pkgid.toNat then none
    else (physOf s j.ctx (localVa va) .load).map (fun pa => (pa, spanBytes (fmtWidth et) b))
  | .error _ => none

/-- The range meets one of some ranges. -/
def meetsAny (l : List (Nat × Nat)) (a n : Nat) : Bool := l.any (fun r => rangesMeet r.1 r.2 a n)

/-- The hull of several ranges. -/
def hull (l : List (Nat × Nat)) : Nat × Nat :=
  let lo := (l.map (·.1)).min?.getD 0
  (lo, (l.map (fun x => x.1 + x.2)).max?.getD 0 - lo)

/-- The bytes that a copy reads and writes from element `first` on: those of its sources, and those of its destinations;
none where the two cannot meet (R211). -/
def copyRaces (j : Job) (ps : List CopyPart) (first : Nat) (s : State) : List (Nat × Nat) × List (Nat × Nat) :=
  let ns := ps.map (·.src.total)
  let elems := (List.range (ns.sum - first)).map (fun k => locate ns (first + k))
  let srcs := elems.filterMap (fun x => (ps[x.1]?).bind (fun p => elemRange j p.source p.srcFmt p.src x.2 s))
  let dsts := elems.filterMap (fun x => (ps[x.1]?).bind (fun p => elemRange j p.dest p.dstFmt p.dst x.2 s))
  if rangesMeet (hull srcs).1 (hull srcs).2 (hull dsts).1 (hull dsts).2 then (srcs, dsts) else ([], [])

/-- Bit `i` of a pattern at bit `b` of a byte lies in a byte of some ranges. -/
def bitRaces (l : List (Nat × Nat)) (pa b i : Nat) : Bool := meetsAny l (pa + (b + i) / 8) 1

/-- An element's pattern with the bits in bytes that race replaced by those of a free value. -/
def raceMix (l : List (Nat × Nat)) (r : Option (Nat × Nat)) (b w x free : Nat) : Nat :=
  match r with
  | none => x
  | some (pa, n) =>
    if meetsAny l pa n then ((List.range w).map (fun i => (if bitRaces l pa b i then free else x) / 2 ^ i % 2 * 2 ^ i)).sum else x

/-- Element number `k` over the members, copied to memory. A read that races with the job's own writes gives any value, and
a write that races leaves any bytes (R157, R211). -/
def copyItem (j : Job) (ps : List CopyPart) (races : List (Nat × Nat) × List (Nat × Nat)) (k : Nat) (s : State) : Je State := do
  let (m, i) := locate (ps.map (·.src.total)) k
  match ps[m]? with
  | none => return s
  | some p =>
    let (x, s1) ← readElem j p.source p.srcFmt true p.src i s
    let off := fun (et : Nat) (sl : Slice) => (elemPos (fmtWidth et) sl i).2.1
    let y := raceMix races.2 (elemRange j p.source p.srcFmt p.src i s) (off p.srcFmt p.src) (fmtWidth p.srcFmt) x (Config.freeNat s1.free)
    let z := raceMix races.1 (elemRange j p.dest p.dstFmt p.dst i s) (off p.dstFmt p.dst) (fmtWidth p.dstFmt) (copyValue j p y)
      (Config.freeNat (s1.free + 1))
    writeElem j p.dest p.dstFmt p.dst i z (if races.1.isEmpty then s1 else { s1 with free := s1.free + 2 })

/-- The record of a copy that stopped at element `k`. -/
def copyEnd (j : Job) (m k total : Nat) : JobHalt → Je JobEnd
  | .fault c v _ => .ok ⟨statusWord (stopStatus k) c.num,
      copyRecord 1 j.id (stopStatus k) c.num m k total j.tile.shape.toNat (copyDest j) (fvalOf c v)⟩
  | h => .error h

/-- Where a copy starts: at 0, or at the record's DONE (R217). -/
def copyFirst (j : Job) (total : Nat) (s : State) : Je (Nat × State) := do
  if !j.flag 0 then return (0, s)
  else
    let (x, s1) ← readRecord j s
    let ok := recOp x == 1 && recClass x == 1 && decide (1 ≤ recStatus x) && decide (recStatus x ≤ 3) &&
      bits x 191 128 == total && bits x 199 192 == j.tile.shape.toNat && bits x 207 200 == copyDest j &&
      decide (bits x 127 64 < total)
    if ok then return (bits x 127 64, s1) else jobFault .formatFault 0

/-! ## Delivery to a stream (R212) -/

/-- The patterns of elements from number `i`, `n` of them, and what stopped them. -/
def streamElems (j : Job) (p : CopyPart) : Nat → Nat → State → List Nat × Option JobHalt × State
  | 0, _, s => ([], none, s)
  | n + 1, i, s =>
    match copyElem j p i s with
    | .error h => ([], some h, s)
    | .ok (x, s1) => (x :: (streamElems j p n (i + 1) s1).1, (streamElems j p n (i + 1) s1).2)

/-- A dense byte stream as 8-byte elements: the last zero-padded where the stream is whole. -/
def streamWords (w : Nat) (xs : List Nat) (whole : Bool) : List Word :=
  let x := ofElems w xs
  (List.range (if whole then ceilDiv (w * xs.length) 64 else w * xs.length / 64)).map (fun i => BitVec.ofNat 64 (x / 2 ^ (64 * i)))

/-- The streams of the members from the first element on: each member's elements, until one stops. -/
def streamParts (j : Job) : Nat → List CopyPart → State → List (List Nat) × Option (Nat × JobHalt) × State
  | _, [], s => ([], none, s)
  | skip, p :: r, s =>
    let n := p.src.total
    let (xs, h, s1) := streamElems j p (n - skip) (min skip n) s
    match h with
    | some x => (xs :: r.map (fun _ => []), some (0, x), s1)
    | none =>
      let (ys, g, s2) := streamParts j (skip - n) r s1
      (xs :: ys, g.map (fun (m, x) => (m + 1, x)), s2)

/-- The elements of each member that remain from element `skip` on. -/
def remaining : Nat → List Nat → List Nat
  | _, [] => []
  | skip, n :: r => (n - min skip n) :: remaining (skip - n) r

/-- The stream was ended before the copy started (R212). -/
def Job.aborted (j : Job) : Bool := j.status == 3

/-- A streaming copy: its elements are formed, each member's in its own ETYPE(M), and COPY_STREAM_ELEMENT delivers them. One
that was ended before it started forms none. -/
def runStream (j : Job) (ps : List CopyPart) (first total : Nat) (s : State) : Je (JobEnd × State) := do
  let counts := remaining first (ps.map (·.src.total))
  let widths := ps.map (fun p => fmtWidth p.dstFmt)
  let begun := fun (ws : List (List Word)) (k : Job) =>
    { k with stream := ws, counts := counts, widths := widths, done := first, entered := ps.map (fun _ => 0) }
  if j.aborted then return (⟨0, []⟩, s.onJob j.id (begun []))
  else
    let (xs, h, s1) := streamParts j first ps s
    let ws := (xs.zip (widths.zip counts)).map (fun (x, w, n) => streamWords w x (decide (x.length = n)))
    let s2 := s1.onJob j.id (begun ws)
    match h with
    | none => return (⟨0, []⟩, s2)
    | some (m, x) =>
      let done := first + streamDone widths counts (ws.map (·.length))
      let e ← copyEnd j m done total x
      return (e, s2)

/-! ## The job -/

/-- COPY (R208, R216, R217). -/
def runCopy (j : Job) (s : State) : Je (JobEnd × State) :=
  let n := j.members.length
  match forMembers (copyPart j) n 0 s with
  | .error h => do
    let total := ((memberShapes j j.tile.shape.toNat s).map (·.2.total)).sum
    let e ← copyEnd j (firstBad (copyPart j) n s) (resumedAt h (copyFirst j total s)) total h
    return (e, s)
  | .ok (ps, s1) =>
    let total := (ps.map (·.src.total)).sum
    match copyFirst j total s1 with
    | .error h => do
      let e ← copyEnd j 0 0 total h
      return (e, s1)
    | .ok (first, s2) =>
      if copyStream j then runStream j ps first total s2
      else
        let (k, h, s3) := runItems (copyItem j ps (copyRaces j ps first s2)) (total - first) first s2
        match h with
        | none => .ok (⟨0, []⟩, s3)
        | some x => do
          let e ← copyEnd j (locate (ps.map (·.src.total)) k).1 k total x
          return (e, s3)

end Sys2Proof.Machine
end

