-- ==== Sys2Proof/Machine/Blocks.lean ====
section
/-!
DEFINITION. Block records and EF8 rows (R112 to R118), and exact sums of products (R121).
-/
namespace Sys2Proof.Machine

/-! ## Block records (R112 to R114) -/

/-- The width of a block format's elements: HF8A 8, HF6 6, HF4 4. -/
def blockBytes (fmt : Nat) : Nat := 1 + 4 * fmtWidth fmt

/-- An element under a scale byte (R114). -/
def scaledElem (scale : Nat) (x : Num) : Num :=
  if scale = 0xFF then .nan false
  else if scale = 0 then .fin false 0 0
  else
    match x with
    | .fin n m e => .fin n (m * (2 + scale % 2)) (e + (scale / 2 : Nat) - 64)
    | y => y

/-- Element `i` of a block record in `fmt`. -/
def blockElem (fmt x i : Nat) : Num := scaledElem (x % 256) (decodeFloat fmt (elemOf (fmtWidth fmt) (x / 256) i))

/-- The greatest finite value of a format. -/
def fmtTop (fmt : Nat) : Num := decodeFloat fmt (fmtMax fmt)

/-- |x|. -/
def absNum : Num → Num
  | .fin _ m e => .fin false m e
  | .inf _ => .inf false
  | x => x

/-- The greatest magnitude of a list of finite numbers. -/
def maxAbs : List Num → Num
  | [] => .fin false 0 0
  | x :: r => if cmpNum (maxAbs r) (absNum x) < 0 then absNum x else maxAbs r

/-- The least code from `c` on, of `k` of them, whose scale holds the magnitude, or 0xFE (R113). -/
def leastScale (fmt : Nat) (a : Num) : Nat → Nat → Nat
  | 0, _ => 0xFE
  | k + 1, c => if cmpNum a (scaledElem c (fmtTop fmt)) ≤ 0 then c else leastScale fmt a k (c + 1)

/-- x / s(code) rounded once, RNE. -/
def blockRound (fmt code : Nat) (x : Num) : Nat :=
  match x with
  | .fin n m e => (roundFloat fmt 0 n (quotient m (2 + code % 2) 80) (e - (code / 2 : Nat) + 64 - 81)).1
  | _ => 0

/-- A block record of 32 values (R113). -/
def encodeBlock (fmt : Nat) (xs : List Num) : Nat :=
  if xs.any (fun x => x.isNaN || x.isInf) then 0xFF
  else if xs.all (·.isZero) then 0
  else
    let code := leastScale fmt (maxAbs xs) 254 1
    code + 256 * ofElems (fmtWidth fmt) (xs.map (blockRound fmt code))

/-! ## EF8 (R115 to R118) -/

/-- The bits of a byte, most significant first. -/
def byteBits (b : Byte) : List Bool := (List.range 8).map (fun i => b.getLsbD (7 - i))

/-- A number from bits, most significant first. -/
def ofBits (l : List Bool) : Nat := l.foldl (fun n b => 2 * n + b2n b) 0

/-- An exponent token (R116): the exponent, and the bits after it. -/
def token (mode : Nat) (l : List Bool) : Option (Int × List Bool) :=
  match l with
  | false :: r => some (mode, r)
  | true :: false :: false :: r => some ((mode : Int) + 1, r)
  | true :: false :: true :: r => some ((mode : Int) - 1, r)
  | true :: true :: false :: false :: r => some ((mode : Int) + 2, r)
  | true :: true :: false :: true :: r => some ((mode : Int) - 2, r)
  | true :: true :: true :: r => if r.length < 4 then none else some ((ofBits (r.take 4) : Nat), r.drop 4)
  | _ => none

/-- `n` tokens: their exponents, each 0 to 15, and the bits after them (R118). -/
def tokens (mode : Nat) : Nat → List Bool → Option (List Nat × List Bool)
  | 0, l => some ([], l)
  | n + 1, l =>
    match token mode l with
    | none => none
    | some (e, r) =>
      if e < 0 || 15 < e then none
      else (tokens mode n r).map (fun (es, q) => (e.toNat :: es, q))

/-- Element `i` of a coded block with exponent `e`: its HF8A pattern (R115). -/
def ef8Pattern (bs : List Byte) (i e : Nat) : Nat :=
  let nib := (bs.getD (2 + i / 2) 0).toNat / 2 ^ (4 * (i % 2)) % 16
  nib / 8 * 128 + e * 8 + nib % 8

/-- A coded block's elements; nothing where it breaks R118. -/
def ef8Coded (bs : List Byte) : Option (List Num) :=
  let mode := (bs.getD 1 0).toNat
  if bs.length < 22 || 32 < bs.length || mode % 16 != 0 then none
  else
    match tokens (mode / 16) 32 ((bs.drop 18).flatMap byteBits) with
    | none => none
    | some (es, rest) =>
      if 8 ≤ rest.length || rest.any (· == true) then none
      else some (es.mapIdx (fun i e => scaledElem (bs.getD 0 0).toNat (decodeFloat 6 (ef8Pattern bs i e))))

/-- The elements of a block whose entry in the length vector is `entry` (R117, R118). -/
def ef8Block (entry : Nat) (bs : List Byte) : Option (List Num) :=
  if 128 ≤ entry then
    (if entry % 128 = 33 then some ((List.range 32).map (blockElem 6 (ofBytesLE bs))) else none)
  else ef8Coded bs

/-- The length of a block. -/
def ef8Len (entry : Nat) : Nat := entry % 128

/-- The entry of a block has a length that R118 allows: 33 bytes raw, 22 to 32 coded. -/
def ef8LenOk (entry : Nat) : Bool :=
  if 128 ≤ entry then decide (ef8Len entry = 33) else decide (22 ≤ ef8Len entry) && decide (ef8Len entry ≤ 32)

/-- The offset of block `b` within its row. -/
def ef8Offset (lens : List Byte) (b : Nat) : Nat := 32 + ((lens.take b).map (fun x => ef8Len x.toNat)).sum

/-! ## Exact products and sums (R121) -/

/-- a × b, exact. -/
def mulExact (a b : Num) : Num :=
  match a, b with
  | .nan _, _ => .nan false
  | _, .nan _ => .nan false
  | .fin na ma ea, .fin nb mb eb => .fin (na != nb) (ma * mb) (ea + eb)
  | x, y => if x.isZero || y.isZero then .nan false else .inf (x.neg != y.neg)

/-- a + b, exact. -/
def addExact (a b : Num) : Num :=
  match a, b with
  | .nan _, _ => .nan false
  | _, .nan _ => .nan false
  | .fin na ma ea, .fin nb mb eb =>
    let z := scaled na ma ea (min ea eb) + scaled nb mb eb (min ea eb)
    .fin (decide (z < 0)) z.natAbs (min ea eb)
  | .inf n, .inf m => if n = m then .inf n else .nan false
  | .inf n, _ => .inf n
  | _, .inf n => .inf n

/-- The exact sum of products. -/
def dotExact : List Num → List Num → Num
  | a :: as, b :: bs => addExact (mulExact a b) (dotExact as bs)
  | _, _ => .fin false 0 0

/-- A sum added to a floating accumulator element, rounded once (R120, R121). -/
def accumulate (a : AccElem) (x : Num) : AccElem :=
  match addExact (accNum a) x with
  | .nan _ => accNaN
  | .inf n => accInf n
  | .fin n m e => accStore (if n then -(m : Int) else (m : Int)) e

/-- An integer added to an integer element, modulo 2^80 (R121). -/
def accumulateInt (a : AccElem) (x : Num) : AccElem :=
  match x with
  | .fin n m e => ⟨a.s + BitVec.ofInt 80 (scaled n m e 0), 0⟩
  | _ => a

/-- An integer element as a number. -/
def accIntNum (a : AccElem) : Num := .fin (decide (a.s.toInt < 0)) a.s.toInt.natAbs 0

end Sys2Proof.Machine
end

