-- ==== Sys2Proof/Machine/Mxe.lean ====
section
/-!
DEFINITION. The matrix engine (R51, R171 to R181, R186, R324, R338, R339, R396): accumulator tags, MMA, ACCRD and
ACCREL as their jobs run.
-/
namespace Sys2Proof.Machine

/-! ## Accumulator tags (R51, R176, R177, R324) -/

/-- The tag T of a command. -/
def tagOf (j : Job) : Nat := bits j.tile.w4.toNat 31 24

/-- A tag's tile. -/
def State.tile (s : State) (c : Ctx) (t : Nat) : Option AccTile := s.acc.find? (fun a => a.ctx == c && a.tag == t)

/-- A tile changed. -/
def State.onTile (s : State) (c : Ctx) (t : Nat) (f : AccTile → AccTile) : State :=
  { s with acc := s.acc.map (fun a => if a.ctx == c && a.tag == t then f a else a) }

/-- An element of a tile. -/
def AccTile.elem (a : AccTile) (p : Nat) : AccElem := sparseGet ⟨0, 0⟩ a.elems p

/-- A tile with an element set. -/
def AccTile.set (a : AccTile) (p : Nat) (x : AccElem) : AccTile := { a with elems := sparseSet ⟨0, 0⟩ a.elems p x }

/-- The address of a tag's image and of its kind byte in the save area (R320). -/
def tagImage (s : State) (c : Ctx) (t : Nat) : Nat := saveVa s c (0x1E000000 + 49152 * t)
def tagKind (s : State) (c : Ctx) (t : Nat) : Nat := saveVa s c (0x1EC00000 + t)

/-- An element as 12 bytes. -/
def elemBytes (x : AccElem) : List Byte := toBytesLE 12 (x.s.toNat + x.e.toNat * 2 ^ 80)

/-- The image of a tile (R320). -/
def tileBytes (a : AccTile) : List Byte := (List.range 4096).flatMap (fun p => elemBytes (a.elem p))

/-- An accumulator kind's byte (R320). -/
def AccKind.code : AccKind → Nat
  | .floating => 1
  | .integer => 2

/-- A tile saved to the save area (R324). -/
def saveTile (a : AccTile) (s : State) : Option State :=
  (ctxStoreBytes a.ctx (tagImage s a.ctx a.tag) (tileBytes a) s).bind (fun s1 =>
    (ctxStoreBytes a.ctx (tagKind s a.ctx a.tag) [BitVec.ofNat 8 a.kind.code] s1).map
      (fun s2 => s2.onTile a.ctx a.tag (fun x => { x with saved := true, elems := [] })))

/-- The pages of a tag's image and of its kind byte. -/
def tagPages (s : State) (a : AccTile) : List Nat := pagesOf (tagImage s a.ctx a.tag) 49152 ++ pagesOf (tagKind s a.ctx a.tag) 1

/-- Why a tag cannot be saved or restored now: the first page whose walk faults or meets MIG = 1, as its job `j` sees it
(R138). -/
def tagHalt (j : Job) (acc : Access) (a : AccTile) (s : State) : Option JobHalt :=
  (tagPages s a).findSome? (fun p => match walk s a.ctx p acc with
    | .ok _ _ _ _ _ => none
    | .fault v => some (.fault .pageFault v.toNat 0)
    | .bad => some (.fault .eccUncorrected p 0)
    | .park => match parked (α := Unit) { j with ctx := a.ctx } p s with
      | .error h => some h
      | .ok _ => none)

/-- Tiles saved in order. Where the save area faults, SAVEFAULT is set, the saved continuations of the context on the quire
become faulted (R320, assumption 52), and the tile keeps its slot. -/
def saveTiles (j : Job) : List AccTile → State → State
  | [], s => s
  | a :: r, s =>
    match tagHalt j .store a s with
    | some (.fault c v _) => saveAreaFault a.ctx (s.conts.filter (fun t => t.ctx == a.ctx && t.quire == a.quire)) c (BitVec.ofNat 64 v) s
    | some _ => s
    | none => saveTiles j r ((saveTile a s).getD s)

/-- Elements from an image. -/
def imageElems (bs : List Byte) : List (Nat × AccElem) :=
  (List.range 4096).foldl (fun l p =>
    let x := ofBytesLE ((bs.drop (12 * p)).take 12)
    sparseSet ⟨0, 0⟩ l p ⟨BitVec.ofNat 80 x, BitVec.ofNat 16 (x / 2 ^ 80)⟩) []

/-- A saved tile restored (R324): its elements and its kind come from the image. -/
def restoreTile (j : Job) (a : AccTile) (s : State) : Je State :=
  match tagHalt j .load a s with
  | some h => .error h
  | none =>
    match ctxLoadBytes s a.ctx (tagImage s a.ctx a.tag) 49152, ctxLoadBytes s a.ctx (tagKind s a.ctx a.tag) 1 with
    | some bs, some ks =>
      .ok (s.onTile a.ctx a.tag (fun x => { x with saved := false, elems := imageElems bs,
                                                   kind := if ofBytesLE ks = 2 then .integer else .floating }))
    | _, _ => jobFault .eccUncorrected (tagImage s a.ctx a.tag)

/-- The tiles that hold a slot of a quire. -/
def slotTiles (s : State) (quire : Nat) : List AccTile := s.acc.filter (fun a => a.quire == quire && !a.saved)

/-- The tags of a job (R186). -/
def jobTags (j : Job) : List Nat := (List.range j.members.length).map (fun m => tagOf j + m)

/-- The slots that the tags of a job still need: the unmapped ones and the saved ones. -/
def slotsNeeded (j : Job) (tags : List Nat) (maps : Bool) (s : State) : Nat :=
  (tags.filter (fun t => match s.tile j.ctx t with | none => maps | some a => a.saved)).length

/-- A job that is neither over nor `j` names a tag of a context on a quire (R177, R178). -/
def tagBusy (s : State) (c : Ctx) (quire : Nat) (j : Job) : Bool :=
  s.jobs.any (fun k => k.id != j.id && k.cls == 0 && k.unit == quire && k.ctx == c && k.stage == .running)

/-- The tiles that are saved to free slots for a job: those of another context on the quire, once no job runs on them
(R324). -/
def roomTiles (j : Job) (s : State) : List AccTile :=
  let held := slotTiles s j.unit
  match held.find? (fun a => a.ctx != j.ctx && !tagBusy s a.ctx j.unit j) with
  | none => []
  | some a => held.filter (fun x => x.ctx == a.ctx)

/-- Slots freed for a job. -/
def makeRoom (j : Job) (tags : List Nat) (maps : Bool) (s : State) : State :=
  if (slotTiles s j.unit).length + slotsNeeded j tags maps s ≤ 8 then s else saveTiles j (roomTiles j s) s

/-- A job that needs a slot where none is free: ACC_TAG where all hold tags of its own context, else it waits, for a save
that meets MIG = 1 or for a slot (R138, R177). -/
def noSlot {α : Type} (j : Job) (s : State) : Je α :=
  if (slotTiles s j.unit).all (fun a => a.ctx == j.ctx) then jobFault .accTag 0
  else
    match (roomTiles j s).findSome? (fun a => tagHalt j .store a s) with
    | some (.park va) => .error (.park va)
    | _ => .error .wait

/-- The checks of R177 for a tag, and its slot: it is restored, or mapped and zeroed where `maps` is the kind of
the job (R176). -/
def claimTag (j : Job) (t : Nat) (maps : Option AccKind) (s : State) : Je State :=
  if s.ecc.contains (.accumulator j.ctx t) then jobFault .eccUncorrected 0
  else
    match s.tile j.ctx t with
    | none =>
      match maps with
      | none => jobFault .accTag 0
      | some k =>
        if 8 ≤ (slotTiles s j.unit).length then noSlot j s
        else .ok { s with acc := s.acc ++ [⟨j.ctx, t, j.unit, k, false, []⟩] }
    | some a =>
      if a.quire ≠ j.unit || maps.any (fun k => k != a.kind) then jobFault .accTag 0
      else if !a.saved then .ok s
      else if 8 ≤ (slotTiles s j.unit).length then noSlot j s
      else restoreTile j a s

/-- The state after a claim that failed with a fault of the save area: SAVEFAULT, and the threads of the job become
faulted (R320, assumption 52). -/
def claimFailed (j : Job) (m : Nat) (h : JobHalt) (s : State) : State :=
  match h with
  | .fault c v _ =>
    if c != .accTag && !s.ecc.contains (.accumulator j.ctx (tagOf j + m)) && (s.tile j.ctx (tagOf j + m)).any (·.saved) then
      saveAreaFault j.ctx (s.threads.filter (fun t => j.members.any (fun x => t.is x.launch x.tid))) c (BitVec.ofNat 64 v) s
    else s
  | _ => s

/-- Tags claimed in order; on a fault, the member. -/
def claimTags (j : Job) (maps : Option AccKind) : List (Nat × Nat) → State → Except (Nat × JobHalt) State
  | [], s => .ok s
  | (m, t) :: r, s =>
    match claimTag j t maps s with
    | .ok s1 => claimTags j maps r s1
    | .error h => .error (m, h)

/-- A value added to an element of a tag (R120, R121, R189). -/
def addToTag (c : Ctx) (t p : Nat) (x : Num) (s : State) : State :=
  s.onTile c t (fun a => a.set p (if a.kind = .integer then accumulateInt (a.elem p) x else accumulate (a.elem p) x))

/-! ## The record of MMA and ACCRD (R175) -/

/-- A job's end with the record of R175. DESIGN CHOICE (assumption 18): MM1 and NM1 of a count of 0 are 63, which is M − 1
modulo 64. -/
def mxeEnd (op : Nat) (j : Job) (m done total m0 n0 : Nat) : JobHalt → Je JobEnd
  | .fault c v _ => .ok ⟨statusWord (stopStatus done) c.num,
      jobWords (recordHead j op (stopStatus done) c.num m + done * 2 ^ 64 + total * 2 ^ 96 + tagOf j * 2 ^ 128 +
        (j.members.length - 1) * 2 ^ 136 + (m0 + 63) % 64 * 2 ^ 139 + (n0 + 63) % 64 * 2 ^ 145 + v * 2 ^ 192)⟩
  | h => .error h

/-! ## MMA (R171 to R175) -/

/-- The formats of A and B. -/
def mmaFmtA (j : Job) : Nat := bits j.tile.w4.toNat 23 20
def mmaFmtB (j : Job) : Nat := bits j.tile.w4.toNat 19 16

/-- A packing code is allowed for a format (R172). -/
def packAllowed (fmt : Nat) (p : Int) : Bool :=
  p == 0 || (p == 1 && (fmt == 6 || fmt == 8 || fmt == 9)) || (p == 2 && fmt == 6)

/-- The count and stride of a dimension. -/
def Slice.dim (sl : Slice) (d : Nat) : Nat × Int := (sl.dims[d]?).getD (1, 0)

/-- The rows of 16-bit elements that begin at an odd address (R171). -/
def oddRow (fmt : Nat) (p : Spot) (base stride : Int) (rows : Nat) : List Nat :=
  if fmt = 5 then ((List.range rows).map (fun (r : Nat) => spotVa p (base + stride * (r : Int)))).filter (fun v => v % 2 == 1) else []

/-- A member's operands, and the rules of R171. -/
def mmaPart (j : Job) (m : Nat) (s : State) : Je (MmaPart × State) := do
  let mb := j.member m
  let (sh, s1) ← jobShape j m j.tile.shape.toNat s
  let sl := sh.slice mb.index
  let pack := (sl.dim 0).2
  let bad := sh.dims.length != 3 || sh.parts.getD 0 0 != 0 || sh.parts.getD 2 0 != 0 || decide (64 < (sl.dim 1).1) ||
    decide (64 < (sl.dim 2).1) || !packAllowed (mmaFmtA j) pack || !packAllowed (mmaFmtB j) pack ||
    (pack == 2 && decide (1024 < (sl.dim 0).1))
  if bad then jobFault .formatFault ((mb.shapebase.addr + 128 * j.tile.shape.toNat) % 2 ^ 64) else pure ()
  let (a, s2) ← sourceSpot j m mb.y s1
  return ({ k := (sl.dim 0).1, m := (sl.dim 1).1, n := (sl.dim 2).1, pack := pack, strideA := (sl.dim 1).2,
            strideB := (sl.dim 2).2, offset := sl.offset, a := a, b := .mem mb.z }, s2)

/-- The first member with an odd row start, and its lowest such address (R171). -/
def oddStart (j : Job) (ps : List MmaPart) : Option (Nat × Nat) :=
  (ps.mapIdx (fun m p => (m, oddRow (mmaFmtA j) p.a p.offset p.strideA p.m ++ oddRow (mmaFmtB j) p.b 0 p.strideB p.n))).findSome?
    (fun x => (x.2.min?).map (fun v => (x.1, v)))

/-- Sixteen elements, or fewer, of a row from element `16 × step` on (R171). The entry of an EF8 block is checked before the
block is read (R118). -/
def rowStep (j : Job) (fmt : Nat) (p : Spot) (o : Int) (pack : Int) (k step : Nat) (s : State) : Je (List Num × State) := do
  let first := 16 * step
  let n := min 16 (k - first)
  if pack = 0 then
    let w := fmtWidth fmt
    let (bs, s1) ← spotRead j p (o + ((w * first / 8 : Nat) : Int)) (ceilDiv (n * w) 8) 1 s
    return ((List.range n).map (fun i => decodeNum fmt (elemOf w (ofBytesLE bs) i)), s1)
  else if pack = 1 then
    let (bs, s1) ← spotRead j p (o + ((blockBytes fmt * (first / 32) : Nat) : Int)) (blockBytes fmt) 1 s
    return ((List.range n).map (fun i => blockElem fmt (ofBytesLE bs) (first % 32 + i)), s1)
  else do
    let (lens, s1) ← spotRead j p o 32 1 s
    let b := first / 32
    let entry := (lens.getD b 0).toNat
    let at_ := o + ((ef8Offset lens b : Nat) : Int)
    if !ef8LenOk entry then jobFault .formatFault (spotVa p at_) else pure ()
    let (bs, s2) ← spotRead j p at_ (ef8Len entry) 1 s1
    match ef8Block entry bs with
    | some xs => return ((xs.drop (first % 32)).take n, s2)
    | none => jobFault .formatFault (spotVa p at_)

/-- Rows of an operand at a step: the elements of each, and the rows' faults. -/
def fetchRows (j : Job) (fmt : Nat) (p : Spot) (base stride pack : Int) (k step : Nat) :
    Nat → Nat → State → List (List Num) × List JobHalt × State
  | 0, _, s => ([], [], s)
  | n + 1, r, s =>
    let o := base + stride * (r : Int)
    match rowStep j fmt p o pack k step s with
    | .ok (xs, s1) =>
      let (l, hs, s2) := fetchRows j fmt p base stride pack k step n (r + 1) s1
      (xs :: l, hs, s2)
    | .error h =>
      let (l, hs, s2) := fetchRows j fmt p base stride pack k step n (r + 1) s
      ([] :: l, h :: hs, s2)

/-- The rows of A and B of a member at a step (R174). -/
def fetchMember (j : Job) (p : MmaPart) (step : Nat) (s : State) : Je ((List (List Num) × List (List Num)) × State) :=
  if p.m = 0 || p.n = 0 then .ok (([], []), s)
  else
    let (a, ha, s1) := fetchRows j (mmaFmtA j) p.a p.offset p.strideA p.pack p.k step p.m 0 s
    let (b, hb, s2) := fetchRows j (mmaFmtB j) p.b 0 p.strideB p.pack p.k step p.n 0 s1
    match worstFault (ha ++ hb) with
    | some h => .error h
    | none => .ok ((a, b), s2)

/-- The products of a step added to a member's tag (R121, R174). -/
def applyStep (j : Job) (t : Nat) (a b : List (List Num)) (s : State) : State :=
  s.onTile j.ctx t (fun x =>
    (a.mapIdx (fun m r => (m, r))).foldl (fun x mr =>
      (b.mapIdx (fun n c => (n, c))).foldl (fun x nc =>
        let p := 64 * mr.1 + nc.1
        let d := dotExact mr.2 nc.2
        x.set p (if x.kind = .integer then accumulateInt (x.elem p) d else accumulate (x.elem p) d)) x) x)

/-- The rows of member `m` at a step. -/
def stepRows (j : Job) (ps : List MmaPart) (step m : Nat) (s : State) : Je ((List (List Num) × List (List Num)) × State) :=
  match ps[m]? with
  | some p => fetchMember j p step s
  | none => .ok (([], []), s)

/-- One K-step, applied to every member or to none (R174). A residue check that fails twice ends the job. -/
def mmaStep (j : Job) (ps : List MmaPart) (first step : Nat) (s : State) : Je State := do
  let (xs, s1) ← forMembers (stepRows j ps step) ps.length 0 s
  if s1.residue == some (step - first) then jobFault .eccUncorrected 0
  else return (xs.mapIdx (fun m ab => (m, ab))).foldl (fun s mab => applyStep j (tagOf j + mab.1) mab.2.1 mab.2.2 s) s1

/-- The member whose fetch stops a step: the first in GPOS order, as `mmaStep` meets it (R174). -/
def mmaFaulter (j : Job) (ps : List MmaPart) (step : Nat) (s : State) : Nat := firstBad (stepRows j ps step) ps.length s

/-- .resume's record for MMA (R175). -/
def mmaFirst (j : Job) (total m0 n0 : Nat) (s : State) : Je (Nat × State) := do
  if !j.flag 0 then return (0, s)
  else
    let (x, s1) ← readRecord j s
    let ok := recOp x == 0x01 && (recStatus x == 1 || recStatus x == 2) && bits x 135 128 == tagOf j &&
      bits x 138 136 == j.members.length - 1 && bits x 144 139 == (m0 + 63) % 64 && bits x 150 145 == (n0 + 63) % 64 &&
      bits x 127 96 == total && decide (bits x 95 64 ≤ total)
    if !ok then jobFault .formatFault (j.member 0).p.addr
    else if bits x 95 64 != 0 && (jobTags j).any (fun t => (s1.tile j.ctx t).isNone) then jobFault .accTag 0
    else return (bits x 95 64, s1)

/-- MMA (R174). DESIGN CHOICE (assumption 18): an odd row start ends the job with MISALIGN before its tags are mapped and
before anything is fetched. -/
def runMma (j : Job) (s : State) : Je (JobEnd × State) :=
  let n := j.members.length
  match forMembers (mmaPart j) n 0 s with
  | .error h => do
    let sl := ((memberShapes j j.tile.shape.toNat s).head?.map (·.2)).getD ⟨0, []⟩
    let e ← mxeEnd 1 j (firstBad (mmaPart j) n s) 0 (if sl.dims.isEmpty then 0 else ceilDiv (sl.count 0) 16) (sl.count 1) (sl.count 2) h
    return (e, s)
  | .ok (ps, s1) =>
    let p0 := ps.head?
    let total := ceilDiv ((p0.map (·.k)).getD 0) 16
    let m0 := (p0.map (·.m)).getD 0
    let n0 := (p0.map (·.n)).getD 0
    match mmaFirst j total m0 n0 s1 with
    | .error h => do
      let e ← mxeEnd 1 j 0 0 total m0 n0 h
      return (e, s1)
    | .ok (first, s2) =>
      let live := (ps.mapIdx (fun m p => (m, p))).filter (fun x => x.2.m != 0 && x.2.n != 0)
      if total = 0 || live.isEmpty then .ok (⟨0, []⟩, s2)
      else match oddStart j ps with
      | some (m, v) => do
        let e ← mxeEnd 1 j m 0 total m0 n0 (.fault .misalign v 0)
        return (e, s2)
      | none =>
        match claimTags j (some (if isFloatFmt (mmaFmtA j) then .floating else .integer))
            (live.map (fun x => (x.1, tagOf j + x.1))) s2 with
        | .error (m, h) => do
          let e ← mxeEnd 1 j m 0 total m0 n0 h
          return (e, claimFailed j m h s2)
        | .ok s3 =>
          let (k, h, s4) := runItems (mmaStep j ps first) (total - first) first s3
          match h with
          | none => .ok (⟨0, []⟩, s4)
          | some x => do
            let e ← mxeEnd 1 j (mmaFaulter j ps k s4) k total m0 n0 x
            return (e, if s4.residue == some (k - first) then { s4 with residue := none } else s4)

/-! ## ACCRD (R180, R181, R338) -/

/-- The output format and the rounding. -/
def accrdFmt (j : Job) : Nat := bits j.tile.w4.toNat 23 20
def accrdMode (j : Job) : Nat := bits j.tile.w4.toNat 19 18

/-- An element converted. -/
def accrdValue (j : Job) (a : AccTile) (m n : Nat) : Nat :=
  let x := a.elem (64 * m + n)
  let v := if a.kind = .integer then accIntNum x else accNum x
  if isFloatFmt (accrdFmt j) then (encodeFloat (accrdFmt j) (accrdMode j) v).1 else (encodeInt (accrdFmt j) (accrdMode j) v).1

/-- A member's slice of record N, and its destination (R338). -/
def accrdPart (j : Job) (m : Nat) (s : State) : Je ((Slice × Spot) × State) := do
  let mb := j.member m
  let (sh, s1) ← jobShape j m j.tile.shape.toNat s
  let sl := sh.slice mb.index
  let bad := sh.dims.length != 2 || sh.parts.any (· != 0) || sl.dims.any (fun d => d.1 == 0 || decide (64 < d.1))
  if bad then jobFault .formatFault ((mb.shapebase.addr + 128 * j.tile.shape.toNat) % 2 ^ 64) else pure ()
  let (x, s2) ← destSpot j m mb.x s1
  return ((sl, x), s2)

/-- A bitmap's bytes. -/
def bitmapBytes (xs : List Bool) : List Byte :=
  toBytesLE (ceilDiv xs.length 64 * 8) (ofElems 1 (xs.map b2n))

/-- Bytes padded with zeros to a multiple of 8. -/
def pad8 (bs : List Byte) : List Byte := bs ++ List.replicate (roundUp bs.length 8 - bs.length) 0

/-- The sparse stream of R181: the values as bytes, whether each is zero, and the bytes of the nonzero values and
of all values. -/
def sparseStream (budget : Nat) (zero : List Bool) (nonzero all : List Byte) : List Byte :=
  let body := bitmapBytes (zero.map (!·)) ++ pad8 nonzero
  if 8 + body.length ≤ budget then
    toBytesLE 8 ((zero.filter (!·)).length + (8 + body.length) * 2 ^ 32) ++ body
  else toBytesLE 8 (zero.length + 2 ^ 31 + (8 + (pad8 all).length) * 2 ^ 32) ++ pad8 all

/-- A pattern that is +0, −0 or integer 0. -/
def zeroPattern (f x : Nat) : Bool := if isFloatFmt f then (decodeFloat f x).isZero else x == 0

/-- A member's stream. -/
def accrdStream (j : Job) (a : AccTile) (sl : Slice) : List Byte :=
  let f := accrdFmt j
  let xs := (List.range (sl.count 1)).flatMap (fun m => (List.range (sl.count 0)).map (accrdValue j a m))
  let put := fun (l : List Nat) => l.flatMap (toBytesLE (fmtWidth f / 8))
  sparseStream (bits j.tile.w5.toNat 23 0) (xs.map (zeroPattern f)) (put (xs.filter (fun x => !zeroPattern f x))) (put xs)

/-- An item of ACCRD: an element in row-major order, or a member's whole stream. DESIGN CHOICE (assumption 18): a sparse
stream that faults part-way writes nothing of that member, and DONE counts none of its rows. -/
def accrdItem (j : Job) (ps : List (Slice × Spot)) (k : Nat) (s : State) : Je State :=
  let counts := ps.map (fun p => if j.flag 2 then 1 else p.1.total)
  let (m, i) := locate counts k
  match ps[m]?, s.tile j.ctx (tagOf j + m) with
  | some (sl, x), some a =>
    if j.flag 2 then spotWrite j x 0 (accrdStream j a sl) 1 s
    else
      spotWrite j x (sl.at i) (toBytesLE (fmtWidth (accrdFmt j) / 8) (accrdValue j a (i / sl.count 0) (i % sl.count 0))) 1 s
  | _, _ => .ok s

/-- ACCRD (R180). -/
def runAccrd (j : Job) (s : State) : Je (JobEnd × State) :=
  let n := j.members.length
  match forMembers (accrdPart j) n 0 s with
  | .error h => do
    let sls := (memberShapes j j.tile.shape.toNat s).map (·.2)
    let sl := sls.headD ⟨0, []⟩
    let e ← mxeEnd 2 j (firstBad (accrdPart j) n s) 0 (sls.map (·.count 1)).sum (sl.count 1) (sl.count 0) h
    return (e, s)
  | .ok (ps, s1) =>
    let rows := ps.map (fun p => p.1.count 1)
    let counts := ps.map (fun p => if j.flag 2 then 1 else p.1.total)
    let m0 := rows.headD 0
    let n0 := (ps.head?.map (fun p => p.1.count 0)).getD 0
    match claimTags j none ((List.range n).map (fun m => (m, tagOf j + m))) s1 with
    | .error (m, h) => do
      let e ← mxeEnd 2 j m 0 rows.sum m0 n0 h
      return (e, claimFailed j m h s1)
    | .ok s2 =>
      let (k, h, s3) := runItems (accrdItem j ps) counts.sum 0 s2
      match h with
      | none => .ok (⟨0, []⟩, s3)
      | some x => do
        let (m, i) := locate counts k
        let cols := max 1 ((ps[m]?.map (fun p => p.1.count 0)).getD 1)
        let done := (rows.take m).sum + (if j.flag 2 then 0 else i / cols)
        let e ← mxeEnd 2 j m done rows.sum m0 n0 x
        return (e, s3)

/-! ## ACCREL (R179, R339) -/

/-- Tags released, saved or not. -/
def releaseTags (c : Ctx) (tags : List Nat) (s : State) : State :=
  { s with acc := s.acc.filter (fun x => !(x.ctx == c && tags.contains x.tag))
           ecc := s.ecc.filter (fun e => !tags.any (fun t => e == .accumulator c t)) }

/-- ACCREL: every member's tag, or none where one is mapped on another quire (R177). Its record is that of the engine's
jobs, with no shape (R185). DESIGN CHOICE (assumption 18): one that ends FAULT has OP 0x03, as TOTAL the number of
members, and MM1 and NM1 0, of which R175 says nothing for ACCREL. -/
def runAccrel (j : Job) (s : State) : Je (JobEnd × State) :=
  match (jobTags j).findIdx? (fun t => (s.tile j.ctx t).any (fun a => a.quire != j.unit)) with
  | none => .ok (⟨0, []⟩, releaseTags j.ctx (jobTags j) s)
  | some m => do
    let e ← mxeEnd 3 j m 0 j.members.length 1 1 (.fault .accTag 0 0)
    return (e, s)

end Sys2Proof.Machine
end

