-- ==== Sys2Proof/Machine/Forms.lean ====
section
/-!
DEFINITION. The four forms OUTER, FOLD, SCAN and ZIP (R187 to R205, R375, R404, R418, R451) as their jobs run.
-/
namespace Sys2Proof.Machine

/-! ## The command's fields (R188) -/

/-- The tile op and the modifiers of word 4. -/
def formOp (j : Job) : Nat :=
  match j.cmd with
  | .outer _ => 0x10
  | .fold _ => 0x11
  | .scan _ => 0x12
  | _ => 0x13
def formAxis (j : Job) : Nat := bits j.tile.w4.toNat 3 0
def formExcl (j : Job) : Bool := bitOf j.tile.w4.toNat 4
def formToTag (j : Job) : Bool := bitOf j.tile.w4.toNat 23
def formTag (j : Job) : Nat := if formToTag j then tagOf j else 0

/-- The routine of a role: 0 for A, 1 for B. -/
def formRoutine (j : Job) (role : Nat) : Routine := (j.routines[role]?).getD (builtin 0)

/-! ## Formats (R189) -/

/-- F accepts an input ETYPE. -/
def formPair (f et : Nat) : Bool :=
  if f = 3 then isFloatFmt et
  else if f = 4 || f = 5 then et == f || (decide (6 ≤ et) && decide (et ≤ 9))
  else et == 2 || et == 10 || et == 11 || et == 12 || (f == 0 && et == 0)

/-- Floating and integer ETYPEs are mixed. -/
def mixed (ets : List Nat) : Bool := ets.any isFloatFmt && ets.any (fun e => !isFloatFmt e)

/-- The working format of built-in handles from the ETYPEs. -/
def inputFmt (ets : List Nat) : Nat := if ets.any isFloatFmt then 3 else if ets.contains 0 then 0 else 2

/-- The working format of a job: that of its program routine, or that of its inputs. -/
def formFmt (j : Job) (ets : List Nat) : Nat :=
  match (j.routines.map (·.fmt)).find? (· != unsettled) with
  | some f => f
  | none => inputFmt ets

/-! ## Geometry (R188, R189, R198, R199) -/

/-- The shape records of a member: sA and, for OUTER, sB. -/
def formShapes (j : Job) (m : Nat) (s : State) : Je (List Shape × State) := do
  let (a, s1) ← jobShape j m j.tile.shape.toNat s
  if formOp j = 0x10 then
    let (b, s2) ← jobShape j m (bits j.tile.w4.toNat 7 0) s1
    return ([a, b], s2)
  else return ([a], s1)

/-- The product of counts. -/
def countsOf (l : List (Nat × Int)) : Nat := l.foldl (fun k d => k * d.1) 1

/-- The output elements of a member from its slices (R189): TOTAL of the record of a job that stops before its
first element. -/
def formOutputs (j : Job) (sls : List Slice) : Nat :=
  let sl := sls.headD ⟨0, []⟩
  if formOp j = 0x10 then sl.count 1 * (sls.getD 1 ⟨0, []⟩).count 1
  else if formOp j = 0x11 then countsOf (sl.dims.eraseIdx (formAxis j))
  else sl.total

/-- The output elements of all members, from their shape records. -/
def formTotal (j : Job) (shs : List (List Shape)) : Nat :=
  (shs.mapIdx (fun m l => formOutputs j (l.map (fun sh => sh.slice (j.member m).index)))).sum

/-- The inputs of ZIP beside Y that are used. -/
def zipExtra (j : Job) (m : Nat) : List Reg :=
  (if j.tile.z == 0 then [] else [(j.member m).z]) ++ (if j.tile.w == 0 then [] else [(j.member m).w])

/-- The destination of a member; nothing is read for a tag. -/
def formDest (j : Job) (m : Nat) (s : State) : Je (Spot × State) :=
  if formToTag j then .ok (.mem Reg.null, s) else destSpot j m (j.member m).x s

/-- The formats, the packing and the counts are allowed. -/
def formShapesOk (j : Job) (f : Nat) (shs : List Shape) (sls : List Slice) : Bool :=
  shs.all (fun sh => formPair f sh.etype) && (shs.zip sls).all (fun x => packable x.1.etype x.2) &&
    !(j.cls == 0 && f == 0)

/-- The counts of a result of FOLD to a tag. -/
def foldTagOk (rest : List (Nat × Int)) : Bool :=
  decide ((rest[0]?.map (·.1)).getD 1 ≤ 64) && decide ((rest[1]?.map (·.1)).getD 1 ≤ 64) && (rest.drop 2).all (fun d => d.1 == 1)

/-- One member's geometry, and the rules of R189; FORMAT_FAULT before any write. -/
def formPart (j : Job) (f : Nat) (shs : List (List Shape)) (m : Nat) (s : State) : Je (FormPart × State) := do
  let mine := shs.getD m []
  let sls := mine.map (fun sh => sh.slice (j.member m).index)
  let sl := sls.headD ⟨0, []⟩
  let et := (mine.map (·.etype)).headD 0
  if !formShapesOk j f mine sls then jobFault .formatFault 0 else pure ()
  let (y, s1) ← sourceSpot j m (j.member m).y s
  let (x, s2) ← formDest j m s1
  if formOp j = 0x10 then
    let sb := sls.getD 1 ⟨0, []⟩
    if mine.any (fun sh => sh.dims.length != 2) || sl.count 0 != sb.count 0 || decide (64 < sl.count 1) || decide (64 < sb.count 1)
      then jobFault .formatFault 0 else pure ()
    return ({ inputs := [(sl, et, y), (sb, (mine.map (·.etype)).getD 1 0, .mem (j.member m).z)],
              outputs := sl.count 1 * sb.count 1, len := sl.count 0, low := 1, dest := x, cols := sb.count 1 }, s2)
  else if formOp j = 0x13 then
    return ({ inputs := (sl, et, y) :: (zipExtra j m).map (fun r => (sl, et, .mem r)),
              outputs := sl.total, len := 1, low := 1, dest := x, cols := 1 }, s2)
  else
    let a := formAxis j
    let rest := sl.dims.eraseIdx a
    if sl.dims.length ≤ a || (formToTag j && !foldTagOk rest) then jobFault .formatFault 0 else pure ()
    return ({ inputs := [(sl, et, y)], outputs := if formOp j = 0x11 then countsOf rest else sl.total,
              len := sl.count a, low := countsOf (sl.dims.take a), dest := x, cols := (rest[0]?.map (·.1)).getD 1 }, s2)

/-- The input elements, as input and element number, that output element `o` reads, in order (R198, R199). -/
def formReads (j : Job) (p : FormPart) (o : Nat) : List (Nat × Nat) :=
  if formOp j = 0x10 then
    (List.range p.len).flatMap (fun k => [(0, k + o / p.cols * p.len), (1, k + o % p.cols * p.len)])
  else if formOp j = 0x11 then
    (List.range p.len).map (fun k => (0, o % p.low + k * p.low + o / p.low * (p.low * p.len)))
  else if formOp j = 0x12 then
    let i := o / p.low % p.len
    (List.range (if formExcl j then i else i + 1)).map (fun k => (0, o % p.low + k * p.low + o / (p.low * p.len) * (p.low * p.len)))
  else (List.range p.inputs.length).map (fun n => (n, o))

/-! ## One element -/

/-- The fetches of an element, each widened exactly to F (R189): the values, or what stops their fetch. -/
def formFetch (j : Job) (f : Nat) (p : FormPart) : List (Nat × Nat) → State → List (Je Nat) × State
  | [], s => ([], s)
  | (n, i) :: r, s =>
    match p.inputs[n]? with
    | none => formFetch j f p r s
    | some (sl, et, sp) =>
      match readElem j sp et false sl i s with
      | .ok (x, s1) =>
        let (xs, s2) := formFetch j f p r s1
        (.ok (if et = f then x else (convert f et 0 x).1) :: xs, s2)
      | .error h =>
        let (xs, s2) := formFetch j f p r s
        (.error h :: xs, s2)

/-- The HANDLE, ROLE, STEP, COMBINE and FLAGS of a record (R203). -/
def formDetail (j : Job) (role step comb flags : Nat) : Nat :=
  (formRoutine j role).handle % 64 + role * 2 ^ 6 + step * 2 ^ 8 + comb % 2 ^ 32 * 2 ^ 16 + flags * 2 ^ 48

/-- A ROUTINE_FAULT of a step (R202). -/
def stepFault {α : Type} (j : Job) (role comb : Nat) (e : Raised) : Je α :=
  .error (.fault .routineFault 0 (formDetail j role e.2 comb e.1))

/-- The combines of the pairwise loop over `n` values, in at most `k` levels, that come before value `i` is read (R124). -/
def treeRead : Nat → Nat → Nat → Nat
  | 0, _, _ => 0
  | k + 1, n, i => if n ≤ 1 then 0 else if i % 2 = 0 ∧ i + 1 = n then n / 2 + treeRead k ((n + 1) / 2) (i / 2) else i / 2

/-- The combines of a reduction of `n` inputs that come before input `i` is read (R197). -/
def readAfter (assoc : Bool) (n i : Nat) : Nat :=
  if assoc then 15 * (i / 16) + treeRead 5 (min 16 (n - i / 16 * 16)) (i % 16) else i - 1

/-- The input whose fetch stops a reduction first, with the combines that come before it (R201, assumption 53). -/
def firstUnread (assoc : Bool) (xs : List (Je Nat)) : Option (Nat × JobHalt) :=
  (xs.zipIdx.filterMap (fun (x, i) => match x with
    | .ok _ => none
    | .error h => some (readAfter assoc xs.length i, h))).foldl
    (fun (best : Option (Nat × JobHalt)) y => if best.all (fun b => decide (y.1 < b.1)) then some y else best) none

/-- A reduction with the routine of a role; an empty one gives the identity, or faults with step 0xFF (R198). -/
def formReduce (j : Job) (f role : Nat) (vs : List (Je Nat)) : Je Nat :=
  let r := (formRoutine j role).settle f
  let xs := vs.map (fun v => match v with | .ok x => x | .error _ => 0)
  let stop := firstUnread r.assoc vs
  if xs.isEmpty then
    match r.ident with
    | some i => .ok i
    | none => .error (.fault .routineFault 0 (formDetail j role 0xFF 0 0))
  else
    match reduce r xs, stop with
    | .ok x, none => .ok x
    | .ok _, some (_, h) => .error h
    | .error (e, c), none => stepFault j role c e
    | .error (e, c), some (k, h) => if c < k then stepFault j role c e else .error h

/-- The products of OUTER, in order of k (R199). -/
def formProducts (j : Job) (f : Nat) : Nat → List (Je Nat) → Je (List Nat)
  | k, a :: b :: l => do
    let x ← a
    let y ← b
    match invoke ((formRoutine j 0).settle f) [x, y] with
    | .error e => stepFault j 0 k e
    | .ok z => do
      let zs ← formProducts j f (k + 1) l
      return z :: zs
  | _, _ => .ok []

/-- The value of an output element from its inputs, or the first fault in the order of R197 to R199 (R201). -/
def formValue (j : Job) (f : Nat) (xs : List (Je Nat)) : Je Nat :=
  if formOp j = 0x10 then do
    let ps ← formProducts j f 0 xs
    formReduce j f 1 (ps.map .ok)
  else if formOp j = 0x13 then do
    let ys ← xs.mapM id
    match invoke ((formRoutine j 0).settle f) ys with
    | .ok x => .ok x
    | .error e => stepFault j 0 0 e
  else formReduce j f 0 xs

/-- Output element number `k` over the members: its inputs, its value, and its write (R200, R201). -/
def formItem (j : Job) (f first : Nat) (ps : List FormPart) (k : Nat) (s : State) : Je State :=
  let (m, o) := locate (ps.map (·.outputs)) k
  match ps[m]? with
  | none => .ok s
  | some p =>
    let (xs, s1) := formFetch j f p (formReads j p o) s
    do
      let x ← formValue j f xs
      if j.cls = 0 && s1.residue == some (k - first) then jobFault .eccUncorrected 0 else pure ()
      if formToTag j then
        return addToTag j.ctx (tagOf j + m) (64 * (o / max 1 p.cols) + o % max 1 p.cols) (decodeNum f x) s1
      else spotWrite j p.dest ((fmtWidth f / 8 * o : Nat) : Int) (toBytesLE (fmtWidth f / 8) x) 1 s1

/-! ## The job -/

/-- The record of R203: STEP 0xFE with FVAL for an access, and the step for a ROUTINE_FAULT. -/
def formEnd (j : Job) (m done total : Nat) : JobHalt → Je JobEnd
  | .fault c v d =>
    let st := stopStatus done
    let inStep := c == .routineFault
    let format := c == .formatFault || c == .accTag
    let w2 := if inStep then d else formDetail j 0 (if format then 0 else 0xFE) 0 0
    .ok ⟨statusWord st c.num, jobWords (recordHead j (formOp j) st c.num m + done * 2 ^ 64 + total * 2 ^ 96 +
      (w2 + formTag j * 2 ^ 56) * 2 ^ 128 + (if inStep || format then 0 else v) * 2 ^ 192)⟩
  | h => .error h

/-- Where a form starts: at 0, or at the record's DONE (R204). -/
def formFirst (j : Job) (total : Nat) (s : State) : Je (Nat × State) := do
  if !j.flag 0 then return (0, s)
  else
    let (x, s1) ← readRecord j s
    let ok := recOp x == formOp j && recClass x == j.cls && bits x 127 96 == total && bits x 191 184 == formTag j &&
      (j.routines[b2n (bitOf x 134)]?).any (fun r => r.handle == bits x 133 128) &&
      (recStatus x == 1 || recStatus x == 2) && decide (bits x 95 64 < total)
    if ok then return (bits x 95 64, s1) else jobFault .formatFault 0

/-- The tags of the members that have elements, mapped and of the right kind (R176, R177, R189). DESIGN CHOICE (assumption
31): R176 has the first OUTER map a tag, and R177 lists an OUTER that reads an unmapped one as ACC_TAG; an OUTER always
maps it. -/
def formClaim (j : Job) (f : Nat) (ps : List FormPart) (s : State) : Except (Nat × JobHalt) State :=
  if formToTag j then
    claimTags j (some (if isFloatFmt f then .floating else .integer))
      (((ps.mapIdx (fun m p => (m, p))).filter (fun x => x.2.outputs != 0)).map (fun x => (x.1, tagOf j + x.1))) s
  else .ok s

/-- The elements from `first` on. -/
def formElements (j : Job) (f first total : Nat) (ps : List FormPart) (s : State) : Je (JobEnd × State) :=
  match formClaim j f ps s with
  | .error (m, h) => do
    let e ← formEnd j m 0 total h
    return (e, claimFailed j m h s)
  | .ok s1 =>
    let (k, h, s2) := runItems (formItem j f first ps) (total - first) first s1
    match h with
    | none => .ok (⟨0, []⟩, s2)
    | some x => do
      let e ← formEnd j (locate (ps.map (·.outputs)) k).1 k total x
      return (e, if j.cls = 0 && s2.residue == some (k - first) then { s2 with residue := none } else s2)

/-- The member at which built-in handles find inputs of both kinds (R189). -/
def mixedAt (j : Job) (ets : List (List Nat)) : Option Nat :=
  if j.routines.any (fun r => r.fmt != unsettled) then none
  else (List.range ets.length).find? (fun m => mixed (ets.take (m + 1)).flatten)

/-- OUTER, FOLD, SCAN or ZIP (R187 to R205). -/
def runForm (j : Job) (s : State) : Je (JobEnd × State) :=
  let n := j.members.length
  match forMembers (formShapes j) n 0 s with
  | .error h => do
    let e ← formEnd j (firstBad (formShapes j) n s) 0 0 h
    return (e, s)
  | .ok (shs, s1) =>
    let ets := shs.map (fun l => l.map (·.etype))
    let f := formFmt j ets.flatten
    match mixedAt j ets with
    | some m => do
      let e ← formEnd j m 0 (formTotal j shs) (.fault .formatFault 0 0)
      return (e, s)
    | none =>
      match forMembers (formPart j f shs) n 0 s1 with
      | .error h => do
        let e ← formEnd j (firstBad (formPart j f shs) n s1) (resumedAt h (formFirst j (formTotal j shs) s1)) (formTotal j shs) h
        return (e, s)
      | .ok (ps, s2) =>
        let total := (ps.map (·.outputs)).sum
        match formFirst j total s2 with
        | .error h => do
          let e ← formEnd j 0 0 total h
          return (e, s2)
        | .ok (first, s3) => formElements j f first total ps s3

end Sys2Proof.Machine
end

