-- ==== Sys2Proof/Machine/Tables.lean ====
section
/-!
DEFINITION. Table records, their directories, and where a row lies (R224 to R227).
-/
namespace Sys2Proof.Machine

/-- The rules a table record must obey, from its bits above BASE (R224). -/
def tableOk (base : Reg) (x : Nat) : Bool :=
  let rowb := bits x 12 0
  let place := bits x 14 13
  let hotn := bits x 28 16
  let spkg := bits x 127 112
  let shrows := bits x 159 128
  let hotdir := bits x 255 192
  !bitOf x 15 && bits x 31 29 == 0 && bits x 191 160 == 0 && decide (place ≤ 1) && rowb % 8 == 0 &&
    decide (8 ≤ rowb) && decide (rowb ≤ 4096) && decide (hotn ≤ 4096) && (hotn == 0) == (hotdir == 0) &&
    (shrows == 0) == (place == 0) && (spkg == 0 || isGlobal base.addr)

/-- A table record from BASE and the bits above it. -/
def mkTable (base : Reg) (x : Nat) : Table :=
  { base := base, rowb := bits x 12 0, shard := bitOf x 13, hotn := bits x 28 16, rows := bits x 63 32 + 1,
    sstride := bits x 111 64, spkg := bits x 127 112, shrows := bits x 159 128, hotdir := bits x 255 192,
    rowdir := bits x 319 256, drain := bits x 383 320 }

/-- The table record at a capability (R224). -/
def readTable (j : Job) (r : Reg) (s : State) : Je (Table × State) := do
  if r.addr % 64 ≠ 0 then jobFault .formatFault 0 else pure ()
  jobCheck r r.addr 64 permLoad
  let (base, s1) ← jobReadCap j r r.addr s
  let (bs, s2) ← jobRead j r (r.addr + 16) 48 1 s1
  if tableOk base (ofBytesLE bs) then return (mkTable base (ofBytesLE bs), s2) else jobFault .formatFault 0

/-- Nothing read yet. -/
def TableCache.fresh : TableCache := ⟨[], []⟩

/-- The row-directory entry of row `i`, read once (R225, R226); its offset and STATE. -/
def rowEntry (j : Job) (t : Table) (i : Nat) (c : TableCache) (s : State) : Je ((Nat × Nat) × TableCache × State) := do
  if t.rowdir = 0 then return (((if t.shard then i % t.shrows else i) * t.rowb, 0), c, s)
  else
    match c.dirs.find? (fun e => e.1 == i) with
    | some e => return ((bits e.2 47 0, bits e.2 49 48), c, s)
    | none =>
      let (bs, s1) ← jobRead j t.base ((t.rowdir + 8 * i) % 2 ^ 64) 8 1 s
      let e := ofBytesLE bs
      if 2 ≤ bits e 49 48 then jobFault .formatFault 0
      else return ((bits e 47 0, bits e 49 48), { c with dirs := (i, e) :: c.dirs }, s1)

/-- Hot slot `k`, read once, as one 8-byte access (R225, R242). -/
def hotEntry (j : Job) (t : Table) (k : Nat) (c : TableCache) (s : State) : Je (Nat × TableCache × State) := do
  match c.hot.find? (fun e => e.1 == k) with
  | some e => return (e.2, c, s)
  | none =>
    let (bs, s1) ← jobRead j t.base ((t.hotdir + 8 * k) % 2 ^ 64) 8 1 s
    return (ofBytesLE bs, { c with hot := (k, ofBytesLE bs) :: c.hot }, s1)

/-- The lowest hot slot that holds row `i`, of the last `n` slots: they are read one by one up to it (R225, R242,
assumption 54). -/
def hotSlotFrom (j : Job) (t : Table) (i : Nat) : Nat → TableCache → State → Je (Option Nat × TableCache × State)
  | 0, c, s => .ok (none, c, s)
  | n + 1, c, s => do
    let k := t.hotn - (n + 1)
    let (e, c1, s1) ← hotEntry j t k c s
    if bitOf e 32 && bits e 31 0 == i then return (some k, c1, s1) else hotSlotFrom j t i n c1 s1

/-- The lowest hot slot that holds row `i`. -/
def hotSlot (j : Job) (t : Table) (i : Nat) (c : TableCache) (s : State) : Je (Option Nat × TableCache × State) :=
  hotSlotFrom j t i t.hotn c s

/-- The directory entries of row `i`; of two faults the first by R44, then the one at the lower address (R242). -/
def rowEntries (j : Job) (t : Table) (i : Nat) (c : TableCache) (s : State) : Je ((Nat × Nat) × Option Nat × TableCache × State) :=
  match rowEntry j t i c s with
  | .ok (e, c1, s1) => (hotSlot j t i c1 s1).map (fun x => (e, x.1, x.2.1, x.2.2))
  | .error a =>
    match hotSlot j t i c s with
    | .ok _ => .error a
    | .error b => .error ((worstFault [a, b]).getD a)

/-- A copy of the row at offset `l` (R225). -/
def copyAddr (t : Table) (k l : Nat) : Nat := (t.base.addr + k * t.sstride + l) % 2 ^ 64

/-- The primary of row `i` for die `d` (R225): a package number past 0xFFF is CAP_BOUNDS. -/
def primaryAddr (t : Table) (d i l : Nat) : Je Nat :=
  if t.shard then
    let k := i / t.shrows
    let a := copyAddr t k l
    if t.spkg = 0 then .ok a
    else if 0xFFF < bits a 59 48 + k / t.spkg then jobFault .capBounds ((a + k / t.spkg * 2 ^ 48) % 2 ^ 64)
    else .ok (a + k / t.spkg * 2 ^ 48)
  else .ok (copyAddr t d l)

/-- The replica of hot slot `h` on die `k` (R225). -/
def replicaAddr (t : Table) (k h : Nat) : Nat := (t.hotdir + 0x8000 + (k * t.hotn + h) * t.rowb) % 2 ^ 64

/-- Where row `i` is read (R225). -/
def readAddr (j : Job) (t : Table) (i : Nat) (c : TableCache) (s : State) : Je (Nat × TableCache × State) := do
  let ((l, st), h, c2, s2) ← rowEntries j t i c s
  match h with
  | some k => if st = 0 then return (replicaAddr t (dieOf j.quire) k, c2, s2) else pure ()
  | none => pure ()
  let a ← primaryAddr t (dieOf j.quire) i l
  return (a, c2, s2)

/-- Where row `i` is written, the primary first (R225). -/
def writeAddrs (j : Job) (t : Table) (i : Nat) (c : TableCache) (s : State) : Je (List Nat × TableCache × State) := do
  let ((l, _), h, c2, s2) ← rowEntries j t i c s
  let a ← primaryAddr t (dieOf j.quire) i l
  let copies := if t.shard then [] else ((List.range 4).filter (· != dieOf j.quire)).map (fun k => copyAddr t k l)
  let replicas := match h with
    | some k => (List.range 4).map (fun d => replicaAddr t d k)
    | none => []
  return (a :: copies ++ replicas, c2, s2)

/-! ## Tickets (R227) -/

/-- The level of the leaf that maps an address of a context; 0 where translation is off (R130). -/
def levelAt (s : State) (c : Ctx) (va : Nat) : Nat :=
  if (s.ctx c).enable then leafLevelFrom s va 5 (bits (s.ctx c).ptroot.toNat 47 12 * 4096) else 0

/-- One word of a drain pair: the host window and MMIO are PAGE_FAULT, reason 3, as for an AMO (R341), and a word in
error is a fault (R326). -/
def drainWord (j : Job) (va : Nat) (s : State) : Je (Option Nat × State) := do
  let (p, s1) ← jobPlace j va .store s
  match p with
  | none => return (none, s1)
  | some pa =>
    if inHost pa || inMmio pa then pageFailed va (pageTval (localVa va) 3 (levelAt s1 j.ctx (localVa va)))
    else if eccAt s1 pa 8 then eccFailed va
    else return (some pa, s1)

/-- The places of ENTER and LEFT, with their checks: the ticket is an AMO through BASE. -/
def drainPlace (j : Job) (t : Table) (s : State) : Je (Option (Nat × Nat) × State) := do
  jobCheck t.base t.drain 16 permLoad
  jobCheck t.base t.drain 16 permStore
  jobAligned t.drain 8
  let (p, s1) ← drainWord j t.drain s
  let (q, s2) ← drainWord j ((t.drain + 8) % 2 ^ 64) s1
  match p, q with
  | some a, some b => return (some (a, b), s2)
  | _, _ => return (none, s2)

/-- A job that names a record with a drain pair waits for its ticket; an access that fails ends it. -/
def drainReady (j : Job) (t : Option Table) (s : State) : Je (Unit × State) := do
  match t with
  | none => return ((), s)
  | some t =>
    if t.drain = 0 || j.tickets.any (fun x => x.1 == t.drain) then return ((), s)
    else
      let _ ← drainPlace j t s
      .error .wait

/-- The next ticket of a job from a drain pair: none while 65,536 are outstanding. -/
def takeTicket (j : Job) (t : Table) (s : State) : State :=
  match drainPlace j t s with
  | .error _ => s
  | .ok (none, s1) =>
    { (s1.onJob j.id (fun k => { k with tickets := k.tickets ++ [(t.drain, none, Config.freeNat s1.free)] })) with free := s1.free + 1 }
  | .ok (some (pa, pl), s1) =>
    let enter := s1.loadNat pa 8
    let left := s1.loadNat pl 8
    if (enter + 2 ^ 64 - left) % 2 ^ 64 = 65536 then s
    else (s1.storeNat j.ctx pa 8 (enter + 1)).onJob j.id (fun k => { k with tickets := k.tickets ++ [(t.drain, some pa, enter)] })

/-- The address of LEFT of a drain pair. -/
def leftVa (drain : Nat) : Nat := (drain + 8) % 2 ^ 64

/-- A ticket of a job is of the drain pair whose LEFT lies at `pa`, `va` in context `c`: by that address, or by the tables
of the job's context now (R140). -/
def sameLeft (s : State) (c : Ctx) (va pa : Nat) (j : Job) (x : Nat × Option Nat × Nat) : Bool :=
  x.2.1.isSome && ((j.ctx == c && leftVa x.1 == va) || physOf s j.ctx (localVa (leftVa x.1)) .store == some pa)

/-- LEFT after a job became terminal: the longest run of tickets whose jobs are terminal. -/
def runLeft (s : State) (c : Ctx) (va pa : Nat) : Nat → Nat → Nat
  | 0, l => l
  | k + 1, l =>
    if s.jobs.any (fun j => j.stage == .ended && j.tickets.any (fun x => sameLeft s c va pa j x && x.2.2 == l)) then runLeft s c va pa k (l + 1)
    else l

/-- The places of LEFT of the drain pairs that a job took tickets from: none for another package's, or where it translates
no more. A place whose page is parked is waited for (R140, assumption 11). -/
def leftPlaces (j : Job) : List (Nat × Option Nat × Nat) → State → Je (List (Nat × Nat) × State)
  | [], s => .ok ([], s)
  | x :: r, s =>
    if x.2.1.isNone then leftPlaces j r s
    else
      match jobXlate j (leftVa x.1) .store s with
      | .ok (some pa, s1) => (leftPlaces j r s1).map (fun l => ((leftVa x.1, pa) :: l.1, l.2))
      | .ok (none, s1) => leftPlaces j r s1
      | .error (.fault _ _ _) => leftPlaces j r s
      | .error h => .error h

/-- LEFT at each of these places brought up to date. -/
def settleTickets (j : Job) (l : List (Nat × Nat)) (s : State) : State :=
  l.foldl (fun s x => s.storeNat j.ctx x.2 8 (runLeft s j.ctx x.1 x.2 s.jobs.length (s.loadNat x.2 8))) s

end Sys2Proof.Machine
end

