-- ==== Sys2Proof/Machine/Gather.lean ====
section
/-!
DEFINITION. GET, PUT and PUT.add (R218 to R223, R379, R407) as their jobs run.
-/
namespace Sys2Proof.Machine

/-! ## The command's fields (R218) -/

def gatherGet (j : Job) : Bool := match j.cmd with | .get _ => true | _ => false
def gatherAdd (j : Job) : Bool := match j.cmd with | .putAdd _ => true | _ => false
def gatherCount (j : Job) : Nat := bits j.tile.w4.toNat 23 0
def gatherRow (j : Job) : Nat := bits j.tile.w5.toNat 12 0
def gatherFmt (j : Job) : Nat := bits j.tile.w5.toNat 19 16
def gatherIndexBytes (j : Job) : Nat := if bitOf j.tile.w5.toNat 13 then 8 else 4
def gatherTable (j : Job) : Bool := bitOf j.tile.w5.toNat 31

/-- The windows of one member, and of the job (R220). -/
def gatherWindows (j : Job) : Nat := ceilDiv (gatherCount j) 256
def gatherTotal (j : Job) : Nat := gatherWindows j * j.members.length

/-- The positions of window `w`. -/
def windowSize (j : Job) (w : Nat) : Nat := min 256 (gatherCount j - 256 * w)

/-- The tile op. -/
def gatherOp (j : Job) : Nat := if gatherGet j then 2 else 3

/-! ## Rows -/

/-- add_F (R220): RNE with canonical NaNs, or modulo 2^w. -/
def addIn (f a b : Nat) : Nat := if isFloatFmt f then (fpAdd f 0 a b).1 else (a + b) % 2 ^ fmtWidth f

/-- Two rows added element by element. -/
def addRows (f : Nat) (a b : List Byte) : List Byte :=
  let w := fmtWidth f
  (List.range (8 * a.length / w)).flatMap (fun i =>
    toBytesLE (w / 8) (addIn f (elemOf w (ofBytesLE a) i) (elemOf w (ofBytesLE b) i)))

/-- One member's local rows, their pitch, and its table record; FORMAT_FAULT before any access (R219). -/
def gatherPart (j : Job) (m : Nat) (s : State) : Je ((Spot × Nat × Option Table) × State) := do
  let mb := j.member m
  let (sh, s1) ← jobShape j m j.tile.shape.toNat s
  let pitch := (sh.dims.headD (0, 0)).2
  if sh.parts.any (· != 0) || pitch % 8 != 0 || decide (pitch < gatherRow j) then jobFault .formatFault 0 else pure ()
  if gatherAdd j && gatherRow j % (fmtWidth (gatherFmt j) / 8) != 0 then jobFault .formatFault 0 else pure ()
  let (t, s2) ← if gatherTable j then do
      let (t, s2) ← readTable j mb.z s1
      if t.rowb ≠ gatherRow j then jobFault .formatFault 0 else pure ()
      (pure (some t, s2) : Je (Option Table × State))
    else pure (none, s1)
  let (x, s3) ← if gatherGet j then destSpot j m mb.x s2 else sourceSpot j m mb.x s2
  return ((x, pitch.toNat, t), s3)

/-! ## The reads and checks of a window (R220) -/

/-- A fault at index position `p`, whose index is `i`. -/
def atPosition {α : Type} (p i : Nat) : Je α → Je α
  | .error (.fault c v _) => .error (.fault c v (p + i * 2 ^ 24))
  | x => x

/-- The reads and write checks of row `i` at its addresses, through `r`. -/
def rowAccess (j : Job) (r : Reg) (i : Nat) (addrs : List Nat) (s : State) : Je (RowAccess × State) := do
  let n := gatherRow j
  let a := addrs.headD 0
  if gatherGet j then
    let (bs, s1) ← jobRead j r a n 1 s
    return (⟨i, bs, []⟩, s1)
  else
    if gatherAdd j then do { jobCheck r a n permStore; jobCheck r a n permLoad } else pure ()
    let (ps, s1) ← addrs.foldlM (fun (x : List (List (Option Nat × Nat)) × State) a => do
      let (p, s1) ← checkWrite j r a n 1 x.2
      (return (x.1 ++ [p], s1) : Je (List (List (Option Nat × Nat)) × State))) ([], s)
    if gatherAdd j then
      let (bs, s2) ← jobRead j r a n 1 s1
      return (⟨i, bs, ps⟩, s2)
    else return (⟨i, [], ps⟩, s1)

/-- Row `i`: once per window (R220). -/
def reachRow (j : Job) (m i : Nat) (t : Option Table) (e : WindowEnv) (s : State) : Je (WindowEnv × State) := do
  if e.rows.any (fun r => r.index == i) then return (e, s)
  else
    match t with
    | none =>
      let (r, s1) ← rowAccess j (j.member m).z i [(j.member m).z.addr + i * gatherRow j] s
      return ({ e with rows := e.rows ++ [r] }, s1)
    | some t =>
      if t.rows ≤ i then jobFault .capBounds (copyAddr t 0 (i * t.rowb)) else pure ()
      if gatherGet j then
        let (a, c, s1) ← readAddr j t i e.cache s
        let (r, s2) ← rowAccess j t.base i [a] s1
        return ({ e with cache := c, rows := e.rows ++ [r] }, s2)
      else
        let (as, c, s1) ← writeAddrs j t i e.cache s
        let (r, s2) ← rowAccess j t.base i as s1
        return ({ e with cache := c, rows := e.rows ++ [r] }, s2)

/-- The local row of position `p`. -/
def localAccess (j : Job) (x : Spot) (pitch p i : Nat) (s : State) : Je (LocalAccess × State) := do
  if gatherGet j then
    let (ps, s1) ← spotCheck j x ((p * pitch : Nat) : Int) (gatherRow j) 1 s
    return (⟨i, [], ps⟩, s1)
  else
    let (bs, s1) ← spotRead j x ((p * pitch : Nat) : Int) (gatherRow j) 1 s
    return (⟨i, bs, []⟩, s1)

/-- The reads and checks of position `p`: the index, the row, the local row. -/
def reachPosition (j : Job) (m p : Nat) (part : Spot × Nat × Option Table) (e : WindowEnv) (s : State) : Je (WindowEnv × State) := do
  let n := gatherIndexBytes j
  let (bs, s1) ← atPosition p 0 (jobRead j (j.member m).y ((j.member m).y.addr + p * n) n 1 s)
  let i := ofBytesLE bs
  atPosition p i (do
    let (e1, s2) ← reachRow j m i part.2.2 e s1
    let (l, s3) ← localAccess j part.1 part.2.1 p i s2
    return ({ e1 with locals := e1.locals ++ [l] }, s3))

/-- The reads and checks of `n` positions from `p` on. -/
def reachWindow (j : Job) (m : Nat) (part : Spot × Nat × Option Table) : Nat → Nat → WindowEnv → State → Je (WindowEnv × State)
  | 0, _, e, s => .ok (e, s)
  | n + 1, p, e, s => do
    let (e1, s1) ← reachPosition j m p part e s
    reachWindow j m part n (p + 1) e1 s1

/-! ## The writes of a window (R220) -/

/-- The row that a window leaves: the last local row, or the sum. -/
def newRow (j : Job) (r : RowAccess) (ls : List (List Byte)) : List Byte :=
  if gatherAdd j then
    addRows (gatherFmt j) r.old (ls.tail.foldl (addRows (gatherFmt j)) (ls.headD []))
  else ls.getLastD []

/-- The writes of a window. -/
def applyWindow (j : Job) (e : WindowEnv) (s : State) : State :=
  if gatherGet j then
    e.locals.foldl (fun s l =>
      writeAt j.ctx l.places (((e.rows.find? (fun r => r.index == l.index)).map (·.old)).getD []) s) s
  else
    e.rows.foldl (fun s r =>
      let new := newRow j r ((e.locals.filter (fun l => l.index == r.index)).map (·.bytes))
      r.places.foldl (fun s p => writeAt j.ctx p new s) s) s

/-- Window number `k` over the members, applied wholly or not at all. -/
def gatherWindow (j : Job) (parts : List (Spot × Nat × Option Table)) (k : Nat) (s : State) : Je State := do
  let m := k / gatherWindows j
  let w := k % gatherWindows j
  match parts[m]? with
  | none => return s
  | some part =>
    let (e, s1) ← reachWindow j m part (windowSize j w) (256 * w) ⟨TableCache.fresh, [], []⟩ s
    return applyWindow j e s1

/-! ## The job (R223) -/

/-- The record of R223. -/
def gatherEnd (j : Job) (m done : Nat) : JobHalt → Je JobEnd
  | .fault c v d => .ok ⟨statusWord (stopStatus done) c.num,
      jobWords (recordHead j (gatherOp j) (stopStatus done) c.num m + done * 2 ^ 64 + gatherTotal j * 2 ^ 96 +
        d % 2 ^ 24 * 2 ^ 128 + d / 2 ^ 24 % 2 ^ 64 * 2 ^ 192 + fvalOf c v * 2 ^ 256)⟩
  | h => .error h

/-- Where a job starts: at 0, or at the record's DONE (R223). -/
def gatherFirst (j : Job) (s : State) : Je (Nat × State) := do
  if !j.flag 0 then return (0, s)
  else
    let (x, s1) ← readRecord j s
    let ok := recOp x == gatherOp j && recClass x == 1 && (recStatus x == 1 || recStatus x == 2) &&
      bits x 127 96 == gatherTotal j && decide (bits x 95 64 < gatherTotal j)
    if ok then return (bits x 95 64, s1) else jobFault .formatFault 0

/-- The windows from `first` on. -/
def gatherRun (j : Job) (ps : List (Spot × Nat × Option Table)) (first : Nat) (s : State) : Je (JobEnd × State) :=
  let (k, h, s1) := runItems (gatherWindow j ps) (gatherTotal j - first) first s
  let sizes := (List.range (k - first)).map (fun i => windowSize j ((first + i) % max 1 (gatherWindows j)))
  let s2 := s1.onJob j.id (fun x => { x with windows := sizes })
  match h with
  | none => .ok (⟨0, []⟩, s2)
  | some x => do
    let e ← gatherEnd j (k / max 1 (gatherWindows j)) k x
    return (e, s2)

/-- GET or PUT (R220). -/
def runGather (j : Job) (s : State) : Je (JobEnd × State) :=
  let n := j.members.length
  match forMembers (gatherPart j) n 0 s with
  | .error h => do
    let e ← gatherEnd j (firstBad (gatherPart j) n s) (resumedAt h (gatherFirst j s)) h
    return (e, s)
  | .ok (ps, s1) =>
    match gatherFirst j s1 with
    | .error h => do
      let e ← gatherEnd j 0 0 h
      return (e, s1)
    | .ok (first, s2) =>
      let wait := fun m s => drainReady j ((ps[m]?).bind (·.2.2)) s
      match forMembers wait n 0 s2 with
      | .error h => do
        let e ← gatherEnd j (firstBad wait n s2) (resumedAt h (.ok (first, s2))) h
        return (e, s2)
      | .ok (_, s3) => gatherRun j ps first s3

end Sys2Proof.Machine
end

