-- ==== Sys2Proof/Machine/Lookup.lean ====
section
/-!
DEFINITION. LOOKUP (R234 to R246, R393) as its job runs.
-/
namespace Sys2Proof.Machine

/-! ## The command's fields (R234) -/

def lookQueries (j : Job) : Nat := bits j.tile.w4.toNat 6 0
def lookHalf (j : Job) : Nat := 16 * bits j.tile.w4.toNat 12 7
def lookK1 (j : Job) : Nat := bits j.tile.w4.toNat 19 13
def lookK (j : Job) : Nat := bits j.tile.w4.toNat 26 20
def lookMode (j : Job) : Nat := bits j.tile.w4.toNat 28 27
def lookKeys (j : Job) : Nat := bits j.tile.w5.toNat 16 0
def lookFmt (j : Job) : Nat := bits j.tile.w5.toNat 20 17
def lookSize (j : Job) : Nat := fmtWidth (lookFmt j) / 8
def lookIndexed (j : Job) : Bool := bits j.tile.w6.toNat 25 20 != 0

/-! ## Scores and selections (R238 to R240) -/

/-- The score of a query half against a key: K-steps of 16 into a fresh element, then FP32 (R238). -/
def scoreSteps : Nat → AccElem → List Num → List Num → AccElem
  | 0, a, _, _ => a
  | n + 1, a, x, y => scoreSteps n (accumulate a (dotExact (x.take 16) (y.take 16))) (x.drop 16) (y.drop 16)

def score (j : Job) (x y : List Num) : Nat := (encodeFloat 3 0 (accNum (scoreSteps (lookHalf j / 16) ⟨0, 0⟩ x y))).1

/-- An entry of a selection, a score with its tie key, precedes another (R239). -/
def precedes (a b : Nat × Nat) : Bool :=
  let x := decodeFloat 3 a.1
  let y := decodeFloat 3 b.1
  if x.isNaN then y.isNaN && decide (a.2 < b.2)
  else if y.isNaN then true
  else decide (0 < cmpNum x y) || (decide (cmpNum x y = 0) && decide (a.2 < b.2))

/-- An entry put into a list in the order of R239. -/
def insertEntry (a : Nat × Nat) : List (Nat × Nat) → List (Nat × Nat)
  | [] => [a]
  | b :: r => if precedes a b then a :: b :: r else b :: insertEntry a r

/-- The first `k` entries in the order of R239. -/
def select (k : Nat) (l : List (Nat × Nat)) : List (Nat × Nat) := (l.foldl (fun r a => (insertEntry a r).take k) [])

/-- The pairs of two candidate lists: pair score and product index. -/
def pairScores (n : Nat) (c1 c2 : List (Nat × Nat)) : List (Nat × Nat) :=
  c1.flatMap (fun a => c2.map (fun b => ((fpAdd 3 0 a.1 b.1).1, a.2 * n + b.2)))

/-- The weights of the ranks (R240). -/
def weights (mode : Nat) (ps : List Nat) : List Nat :=
  match mode with
  | 0 => ps.map (fun _ => 0x3F800000)
  | 1 => ps
  | _ =>
    let es := ps.map (fun p => (fpExp 3 (fpSub 3 0 p (ps.headD 0)).1).1)
    let total := es.foldl (fun a e => (fpAdd 3 0 a e).1) 0
    es.map (fun e => (fpDiv 3 0 e total).1)

/-- The selection of a query with halves `q1`, `q2`: pair scores with product indices, by rank. -/
def selectPairs (j : Job) (q1 q2 : List Num) (keys1 keys2 : List (List Num)) : List (Nat × Nat) :=
  let c1 := select (lookK1 j) (keys1.mapIdx (fun i y => (score j q1 y, i)))
  let c2 := select (lookK1 j) (keys2.mapIdx (fun i y => (score j q2 y, i)))
  select (lookK j) (pairScores (lookKeys j) c1 c2)

/-! ## Rows (R242) -/

/-- What the job keeps of the rows it has fetched: the directories, and each row or its fault. -/
abbrev RowStore := TableCache × List (Nat × Except JobHalt (List Byte))

/-- fetch_row: once per row index. A parked chunk parks the job. -/
def fetchRow (j : Job) (t : Table) (al r : Nat) (c : RowStore) (s : State) : Je (Except JobHalt (List Byte) × RowStore × State) :=
  match c.2.find? (fun x => x.1 == r) with
  | some x => .ok (x.2, c, s)
  | none =>
    match readAddr j t r c.1 s with
    | .error (.fault k v d) => .ok (.error (.fault k v d), (c.1, (r, .error (.fault k v d)) :: c.2), s)
    | .error h => .error h
    | .ok (a, c1, s1) =>
      match jobRead j t.base a t.rowb al s1 with
      | .error (.fault k v d) => .ok (.error (.fault k v d), (c1, (r, .error (.fault k v d)) :: c.2), s1)
      | .error h => .error h
      | .ok (bs, s2) => .ok (.ok bs, (c1, (r, .ok bs) :: c.2), s2)

/-- The rows of the ranks, every one fetched; the lowest failing rank with its fault and row. -/
def fetchRows2 (j : Job) (t : Table) (al : Nat) : Nat → List (Nat × Nat) → RowStore → State →
    Je (List (List Byte) × Option (Nat × Nat × JobHalt) × RowStore × State)
  | _, [], c, s => .ok ([], none, c, s)
  | m, (_, r) :: l, c, s => do
    let (x, c1, s1) ← fetchRow j t al r c s
    let (xs, f, c2, s2) ← fetchRows2 j t al (m + 1) l c1 s1
    match x with
    | .ok bs => return (bs :: xs, f, c2, s2)
    | .error h => return ([] :: xs, some (m, r, h), c2, s2)

/-- The output of a query: the weighted sum of rows of `w` elements in `et` (R241). -/
def lookOutput (et w : Nat) (ws : List Nat) (rows : List (List Byte)) : List Nat :=
  (ws.zip rows).foldl (fun o x => o.mapIdx (fun e a =>
    let v := elemOf (fmtWidth et) (ofBytesLE x.2) e
    (fpFma 3 0 x.1 (if et = 3 then v else (convert 3 et 0 v).1) a).1)) (List.replicate w 0)

/-! ## Queries (R241, R244) -/

/-- The destinations of query `b` checked. -/
def lookPlaces (j : Job) (b w pitch : Nat) (s : State) : Je ((List (Option Nat × Nat) × List (Option Nat × Nat)) × State) := do
  let x := (j.member 0).x
  let (p, s1) ← checkWrite j x ((x.addr + b * pitch) % 2 ^ 64) (4 * w) 4 s
  if lookIndexed j then
    let i := (j.member 0).i
    let (q, s2) ← checkWrite j i ((i.addr + b * lookK j * 8) % 2 ^ 64) (8 * lookK j) 8 s1
    return ((p, q), s2)
  else return ((p, []), s1)

/-- The writes of query `b`. -/
def lookWrite (j : Job) (out : List Nat) (sel : List (Nat × Nat)) (ws : List Nat)
    (p : List (Option Nat × Nat) × List (Option Nat × Nat)) (s : State) : State :=
  let s1 := writeAt j.ctx p.1 (out.flatMap (toBytesLE 4)) s
  if lookIndexed j then writeAt j.ctx p.2 ((sel.zip ws).flatMap (fun x => toBytesLE 8 (x.1.2 + x.2 * 2 ^ 32))) s1 else s1

/-- A fault of a query: FQUERY, FRANK, FROW packed for the record. -/
def queryFault (b rank row : Nat) : JobHalt → JobHalt
  | .fault c v _ => .fault c v (b + rank * 2 ^ 8 + row * 2 ^ 16)
  | h => h

/-- A query worked off: the rows, the output, or its fault. -/
def lookQuery (j : Job) (t : Table) (et w pitch b : Nat) (sel : List (Nat × Nat)) (c : RowStore) (s : State) :
    Je (Option JobHalt × RowStore × State) := do
  let (rows, f, c1, s1) ← fetchRows2 j t (fmtWidth et / 8) 1 sel c s
  match f with
  | some (m, r, h) => return (some (queryFault b m r h), c1, s1)
  | none =>
    match lookPlaces j b w pitch s1 with
    | .error (.fault k v d) => return (some (queryFault b 0xFF 0 (.fault k v d)), c1, s1)
    | .error h => .error h
    | .ok (p, s2) =>
      let ws := weights (lookMode j) (sel.map (·.1))
      return (none, c1, lookWrite j (lookOutput et w ws rows) sel ws p s2)

/-- The queries from `b` on that are not done: the mask after them and the first fault. -/
def lookQueries2 (j : Job) (t : Table) (et w pitch : Nat) (sels : List (List (Nat × Nat))) :
    Nat → Nat → Nat → RowStore → State → Je (Nat × Option JobHalt × State)
  | 0, _, mask, _, s => .ok (mask, none, s)
  | n + 1, b, mask, c, s =>
    if bitOf mask b then lookQueries2 j t et w pitch sels n (b + 1) mask c s
    else do
      let (f, c1, s1) ← lookQuery j t et w pitch b (sels.getD b []) c s
      let (m2, g, s2) ← lookQueries2 j t et w pitch sels n (b + 1) (if f.isNone then mask + 2 ^ b else mask) c1 s1
      return (m2, f.or g, s2)

/-! ## The job (R241, R244 to R246) -/

/-- Every query done. -/
def lookAll (j : Job) : Nat := 2 ^ lookQueries j - 1

/-- The record of R245. -/
def lookEnd (j : Job) (mask : Nat) : JobHalt → Je JobEnd
  | .fault c v d =>
    let st := if mask = 0 ∨ d % 256 = 0xFF then 2 else 1
    .ok ⟨statusWord st c.num, jobWords (recordHead j 1 st c.num 0 + mask * 2 ^ 64 + lookQueries j * 2 ^ 128 +
      lookK j * 2 ^ 136 + lookK1 j * 2 ^ 144 + d % 2 ^ 16 * 2 ^ 152 + d / 2 ^ 16 % 2 ^ 32 * 2 ^ 192 + lookKeys j * 2 ^ 224 +
      fvalOf c v * 2 ^ 256)⟩
  | h => .error h

/-- A fault of the scoring phase. -/
def scoringFault : JobHalt → JobHalt
  | .fault c v _ => .fault c v 0xFF
  | h => h

/-- Record N and the table record, and the rules of R237: ETYPE, width, pitch. -/
def lookShapes (j : Job) (s : State) : Je ((Nat × Nat × Nat × Table) × State) := do
  let (sh, s1) ← jobShape j 0 j.tile.shape.toNat s
  let w := (sh.dims.headD (0, 0)).1
  let pitch := (sh.dims.getD 1 (0, 0)).2
  let (t, s2) ← readTable j (j.member 0).w s1
  let bad := sh.dims.length != 2 || sh.parts.any (· != 0) || !(sh.etype == 3 || sh.etype == 4 || sh.etype == 5) ||
    pitch % 4 != 0 || decide (pitch < 4 * w) || w * (fmtWidth sh.etype / 8) != t.rowb || decide (t.rows < lookKeys j * lookKeys j)
  if bad then jobFault .formatFault 0 else return ((sh.etype, w, pitch.toNat, t), s2)

/-- The done bits to start with (R246). -/
def lookFirst (j : Job) (s : State) : Je (Nat × State) := do
  if !j.flag 0 then return (0, s)
  else
    let (x, s1) ← readRecord j s
    let mask := bits x 127 64
    let ok := recOp x == 1 && recClass x == 2 && (recStatus x == 1 || recStatus x == 2) && bits x 135 128 == lookQueries j &&
      bits x 143 136 == lookK j && bits x 151 144 == lookK1 j && bits x 240 224 == lookKeys j && decide (mask < lookAll j)
    if ok then return (mask, s1) else jobFault .formatFault 0

/-- `n` elements of the key format at a capability, as numbers. -/
def lookVector (j : Job) (r : Reg) (n : Nat) (s : State) : Je (List Num × State) := do
  let (bs, s1) ← jobRead j r r.addr (n * lookSize j) (lookSize j) s
  let x := ofBytesLE bs
  return ((List.range n).map (fun i => decodeFloat (lookFmt j) (elemOf (fmtWidth (lookFmt j)) x i)), s1)

/-- A list cut into pieces of `n`. -/
def chunksOf (n : Nat) : Nat → List Num → List (List Num)
  | 0, _ => []
  | k + 1, l => l.take n :: chunksOf n k (l.drop n)

/-- The query tile and the keys, read and checked before any score; then the selection of each query. -/
def lookOperands (j : Job) (s : State) : Je (List (List (Nat × Nat)) × State) := do
  let h := lookHalf j
  let n := lookKeys j
  let (q, s1) ← lookVector j (j.member 0).y (lookQueries j * 2 * h) s
  let (a, s2) ← lookVector j (j.member 0).z (n * h) s1
  let (b, s3) ← lookVector j (j.member 0).k2 (n * h) s2
  let ka := chunksOf h n a
  let kb := chunksOf h n b
  return ((chunksOf (2 * h) (lookQueries j) q).map (fun x => selectPairs j (x.take h) (x.drop h) ka kb), s3)

/-- The queries after the scoring phase. -/
def lookGather (j : Job) (p : Nat × Nat × Nat × Table) (mask : Nat) (sels : List (List (Nat × Nat))) (s : State) :
    Je (JobEnd × State) := do
  let (m, f, s1) ← lookQueries2 j p.2.2.2 p.1 p.2.1 p.2.2.1 sels (lookQueries j) 0 mask (TableCache.fresh, []) s
  match f with
  | none => return (⟨0, []⟩, s1)
  | some h =>
    let e ← lookEnd j m h
    return (e, s1)

/-- The record of a scoring phase fault with the done bits of a resumed job. -/
def lookStop (j : Job) (mask : Nat) (h : JobHalt) (s : State) : Je (JobEnd × State) := do
  let e ← lookEnd j mask (scoringFault h)
  return (e, s)

/-- LOOKUP (R241). -/
def runLookup (j : Job) (s : State) : Je (JobEnd × State) :=
  match lookFirst j s with
  | .error h => lookStop j 0 h s
  | .ok (mask, s1) =>
    match lookShapes j s1 with
    | .error h => lookStop j mask h s1
    | .ok (p, s2) =>
      match drainReady j (some p.2.2.2) s2 with
      | .error h => lookStop j mask h s2
      | .ok (_, s3) =>
        match lookOperands j s3 with
        | .error h => lookStop j mask h s3
        | .ok (sels, s4) =>
          if s4.residue.isSome then lookStop j mask (.fault .eccUncorrected 0 0) { s4 with residue := none }
          else lookGather j p mask sels s4

end Sys2Proof.Machine
end

