-- ==== Sys2Proof/Machine/Pack.lean ====
section
/-!
DEFINITION. PACK and COMPACT (R230 to R233, R357, R405) as their jobs run.
-/
namespace Sys2Proof.Machine

/-! ## PACK (R230) -/

/-- The block format's element format: BLK8, BLK6 or BLK4. -/
def packFmt (j : Job) : Nat :=
  match bits j.tile.w4.toNat 23 20 with
  | 8 => 6
  | 6 => 8
  | _ => 9

/-- A member's slice and its format (R230). -/
def packPart (j : Job) (m : Nat) (s : State) : Je ((Slice × Nat) × State) := do
  let (sh, s1) ← jobShape j m j.tile.shape.toNat s
  let sl := sh.slice (j.member m).index
  let bad := sl.dims.length != 2 || sl.dims.any (fun d => d.1 == 0 || decide (64 < d.1)) ||
    !(sh.etype == 3 || sh.etype == 4 || sh.etype == 5)
  if bad then jobFault .formatFault 0 else return ((sl, sh.etype), s1)

/-- The values of `n` elements of a row from element `i` on. -/
def packValues (j : Job) (m : Nat) (p : Slice × Nat) : Nat → Nat → State → Je (List Num × State)
  | 0, _, s => .ok ([], s)
  | n + 1, i, s => do
    let (x, s1) ← readElem j (.mem (j.member m).y) p.2 false p.1 i s
    let (xs, s2) ← packValues j m p n (i + 1) s1
    return (decodeFloat p.2 x :: xs, s2)

/-- Values cut into groups of 32, the last padded with +0. -/
def groups32 : Nat → List Num → List (List Num)
  | 0, _ => []
  | f + 1, l =>
    if l.isEmpty then []
    else (l.take 32 ++ List.replicate (32 - min 32 l.length) (.fin false 0 0)) :: groups32 f (l.drop 32)

/-- Block records of values (R113). -/
def packBlocks (fmt : Nat) (l : List Num) : List Byte :=
  (groups32 (l.length / 32 + 1) l).flatMap (fun g => toBytesLE (blockBytes fmt) (encodeBlock fmt g))

/-- A row of a member, packed at its place. -/
def packRow (j : Job) (m r : Nat) (p : Slice × Nat) (s : State) : Je State := do
  let n := p.1.count 0
  let (xs, s1) ← packValues j m p n (r * n) s
  let bs := packBlocks (packFmt j) xs
  jobWrite j (j.member m).x (((j.member m).x.addr + r * bs.length) % 2 ^ 64) bs 1 s1

/-- The rows of a member, each as values. -/
def packRows (j : Job) (m : Nat) (p : Slice × Nat) : Nat → Nat → State → Je (List (List Num) × State)
  | 0, _, s => .ok ([], s)
  | k + 1, r, s => do
    let (xs, s1) ← packValues j m p (p.1.count 0) (r * p.1.count 0) s
    let (l, s2) ← packRows j m p k (r + 1) s1
    return (xs :: l, s2)

/-- The sparse stream of a member (R181, R230). -/
def packStream (j : Job) (rows : List (List Num)) : List Byte :=
  let xs := rows.flatten
  sparseStream (bits j.tile.w5.toNat 23 0) (xs.map (·.isZero)) (packBlocks (packFmt j) (xs.filter (fun x => !x.isZero)))
    (rows.flatMap (packBlocks (packFmt j)))

/-- The items of a member: its rows, or its stream. -/
def packCounts (j : Job) (ps : List (Slice × Nat)) : List Nat := ps.map (fun p => if j.flag 2 then 1 else p.1.count 1)

/-- An item of PACK. -/
def packItem (j : Job) (ps : List (Slice × Nat)) (k : Nat) (s : State) : Je State := do
  let (m, r) := locate (packCounts j ps) k
  match ps[m]? with
  | none => return s
  | some p =>
    if j.flag 2 then
      let (rows, s1) ← packRows j m p (p.1.count 1) 0 s
      jobWrite j (j.member m).x (j.member m).x.addr (packStream j rows) 1 s1
    else packRow j m r p s

/-- The record of R233. -/
def packEnd (j : Job) (op m done total : Nat) : JobHalt → Je JobEnd
  | .fault c v _ => .ok ⟨statusWord (stopStatus done) c.num,
      copyRecord op j.id (stopStatus done) c.num m done total j.tile.shape.toNat 0 (fvalOf c v)⟩
  | h => .error h

/-- PACK. -/
def runPack (j : Job) (s : State) : Je (JobEnd × State) :=
  let n := j.members.length
  match forMembers (packPart j) n 0 s with
  | .error h => do
    let e ← packEnd j 4 (firstBad (packPart j) n s) 0 ((memberShapes j j.tile.shape.toNat s).map (·.2.count 1)).sum h
    return (e, s)
  | .ok (ps, s1) =>
    let rows := ps.map (fun p => p.1.count 1)
    let (k, h, s2) := runItems (packItem j ps) (packCounts j ps).sum 0 s1
    match h with
    | none => .ok (⟨0, []⟩, s2)
    | some x => do
      let (m, r) := locate (packCounts j ps) k
      let e ← packEnd j 4 m ((rows.take m).sum + (if j.flag 2 then 0 else r)) rows.sum x
      return (e, s2)

/-! ## COMPACT (R231, R232) -/

def compactCount (j : Job) : Nat := bits j.tile.w4.toNat 23 0
def compactToken (j : Job) : Nat := bits j.tile.w5.toNat 12 0

/-- A member's mask codes and its bypass stride; a code of 3 or a stride that breaks R231 is FORMAT_FAULT. -/
def compactPart (j : Job) (m : Nat) (s : State) : Je ((List Nat × Nat) × State) := do
  let (sh, s1) ← jobShape j m j.tile.shape.toNat s
  let stride := (sh.dims.headD (0, 0)).2
  if stride % 8 != 0 || decide (stride < compactToken j) then jobFault .formatFault 0 else pure ()
  let z := (j.member m).z
  let (bs, s2) ← jobRead j z z.addr (ceilDiv (compactCount j) 4) 1 s1
  let codes := elemsOf 2 (ofBytesLE bs) (compactCount j)
  if codes.contains 3 then jobFault .formatFault 0 else return ((codes, stride.toNat), s2)

/-- The survivors among codes. -/
def survivors (codes : List Nat) : Nat := (codes.filter (· == 1)).length

/-- Token `t` of a member (R232). -/
def compactTok (j : Job) (m t : Nat) (codes : List Nat) (stride : Nat) (s : State) : Je State := do
  let b := compactToken j
  let mb := j.member m
  let code := codes.getD t 0
  if code = 0 then return s
  else
    let (bs, s1) ← jobRead j mb.y ((mb.y.addr + t * b) % 2 ^ 64) b 1 s
    if code = 1 then
      let r := survivors (codes.take t)
      let s2 ← jobWrite j mb.x ((mb.x.addr + r * b) % 2 ^ 64) bs 1 s1
      jobWrite j mb.w ((mb.w.addr + 4 * r) % 2 ^ 64) (toBytesLE 4 t) 1 s2
    else
      jobWrite j mb.x ((mb.x.addr + 64 * ceilDiv (compactCount j) 64 * b + t * stride) % 2 ^ 64) bs 1 s1

/-- The padding of the last tile from survivor `r` on, `k` of them. -/
def compactPad (j : Job) (m : Nat) : Nat → Nat → State → Je State
  | 0, _, s => .ok s
  | k + 1, r, s => do
    let b := compactToken j
    let mb := j.member m
    let s1 ← jobWrite j mb.x ((mb.x.addr + r * b) % 2 ^ 64) (List.replicate b 0) 1 s
    let s2 ← jobWrite j mb.w ((mb.w.addr + 4 * r) % 2 ^ 64) (toBytesLE 4 0xFFFFFFFF) 1 s1
    compactPad j m k (r + 1) s2

/-- The padding and the result element of a member (R232, R185). -/
def compactLast (j : Job) (m : Nat) (codes : List Nat) (s : State) : Je State := do
  let n := survivors codes
  let s1 ← compactPad j m (roundUp n 64 - n) n s
  let e : Word := BitVec.ofNat 64 (n + (codes.filter (· == 2)).length * 2 ^ 32)
  let mb := j.member m
  return s1.onJob j.id (fun k => k.onMember mb.launch mb.tid (fun x => { x with fifo := x.fifo ++ [e] }))

/-- An item of COMPACT: a token, or what follows the last one of a member. -/
def compactItem (j : Job) (ps : List (List Nat × Nat)) (k : Nat) (s : State) : Je State :=
  let m := k / (compactCount j + 1)
  let t := k % (compactCount j + 1)
  match ps[m]? with
  | none => .ok s
  | some p => if t < compactCount j then compactTok j m t p.1 p.2 s else compactLast j m p.1 s

/-- COMPACT. -/
def runCompact (j : Job) (s : State) : Je (JobEnd × State) :=
  let n := j.members.length
  let c := compactCount j
  match forMembers (compactPart j) n 0 s with
  | .error h => do
    let e ← packEnd j 5 (firstBad (compactPart j) n s) 0 (c * n) h
    return (e, s)
  | .ok (ps, s1) =>
    let (k, h, s2) := runItems (compactItem j ps) ((c + 1) * n) 0 s1
    match h with
    | none => .ok (⟨0, []⟩, s2)
    | some x => do
      let e ← packEnd j 5 (k / (c + 1)) (k / (c + 1) * c + k % (c + 1)) (c * n) x
      return (e, s2)

end Sys2Proof.Machine
end

