-- ==== Sys2Proof/Machine/Images.lean ====
section
/-!
DEFINITION. Routine images as a push checks and copies them (R190 to R195, R264).
-/
namespace Sys2Proof.Machine

/-- ROUTINE_FAULT with its TVAL (R195). -/
def routineBad {α : Type} (h role reason : Nat) : Ev α :=
  .error (.trap .routineFault (BitVec.ofNat 64 (h % 64 + role * 2 ^ 6 + reason * 2 ^ 8)))

/-- `n` bytes through ROUTBASE (R190). DESIGN CHOICE (assumption 63): the spec states no alignment for ROUTBASE; an entry is
read where it lies, and no MISALIGN is raised. -/
def routLoad (va n : Nat) (s : State) : Ev (Nat × State) := do
  capCheck s.th.routbase va n permLoad
  loadAt va n s

/-- `n` words of 4 bytes through ROUTBASE, as a number. -/
def routWords (va : Nat) : Nat → State → Ev (Nat × State)
  | 0, s => .ok (0, s)
  | n + 1, s => do
    let (x, s1) ← routLoad va 4 s
    let (r, s2) ← routWords (va + 4) n s1
    return (x + 2 ^ 32 * r, s2)

/-- An op of a slot breaks its restriction on F (R194). -/
def slotRestricted (f op : Nat) : Bool :=
  decide (20 < op) || ((op == 15 || op == 16) && isFloatFmt f) || ((op == 17 || op == 18) && !isFloatFmt f)

/-- The reason that the slots of an image fail for, 0 for none (R195); in at most `k` slots. DESIGN CHOICE (assumption 63): an
image with LEN 0, which R192 shuts out and R195 gives no reason of its own, has reason 6. -/
def slotsReason (f : Nat) : Nat → List Nat → Nat
  | 0, _ => 6
  | _, [] => 6
  | k + 1, x :: r =>
    let op := x / 2 ^ 11
    if slotRestricted f op then 4
    else
      match decodeSlot (x + 2 ^ 16 * r.headD 0) with
      | .error _ => 5
      | .ok _ =>
        if op = 20 then (if r.isEmpty then 0 else 6)
        else if op = 19 then (if r.isEmpty then 6 else slotsReason f k r.tail)
        else slotsReason f k r

/-- What a push asks of an image: the length limit, the arity, a format of its own for COLL, whether SI64 is shut
out, whether an identity is needed, whether ASSOC is. -/
abbrev ImageRule := Nat × Nat × Option Nat × Bool × Bool × Bool

/-- The reason that a header fails for (R192, R195). -/
def headerReason (q : ImageRule) (hd : Nat) : Nat :=
  let (limit, arity, own, noLong, _, _) := q
  let f := bits hd 23 20
  if bits hd 15 0 ≠ 0 then 5
  else if limit < bits hd 31 26 then 1
  else if bits hd 25 24 = 0 || bits hd 25 24 ≠ arity then 2
  else if !(f == 0 || f == 2 || f == 3 || f == 4 || f == 5) || (noLong && f == 0) || own.any (fun g => g != f) then 3
  else 0

/-- The image of a program routine at `va` (R192, R195). DESIGN CHOICE (assumption 63): of several reasons the first of these
is reported: 5 for a header bit, then 1, 2 and 3, 5 for the identity and for the padding, the slots in slot order, 8, 9. -/
def readImage (q : ImageRule) (h role va : Nat) (s : State) : Ev (Routine × State) := do
  let (hd, s1) ← routLoad va 4 s
  if headerReason q hd ≠ 0 then routineBad h role (headerReason q hd) else pure ()
  let f := bits hd 23 20
  let len := bits hd 31 26
  let (id, s2) ← if bitOf hd 17 then routWords (va + 4) 2 s1 else (.ok (0, s1) : Ev (Nat × State))
  if id / 2 ^ fmtWidth f ≠ 0 then routineBad h role 5 else pure ()
  let (ws, s3) ← routWords (va + 4 + (if bitOf hd 17 then 8 else 0)) (ceilDiv len 2) s2
  if len % 2 = 1 && elemOf 16 ws len ≠ 0 then routineBad h role 5 else pure ()
  let slots := elemsOf 16 ws len
  if slotsReason f 33 slots ≠ 0 then routineBad h role (slotsReason f 33 slots) else pure ()
  if q.2.2.2.2.1 && !bitOf hd 17 then routineBad h role 8 else pure ()
  if q.2.2.2.2.2 && !bitOf hd 19 then routineBad h role 9 else pure ()
  return ({ handle := h, arity := bits hd 25 24, fmt := f, assoc := bitOf hd 19,
            ident := if bitOf hd 17 then some id else none, trap := bitOf hd 16, slots := slots }, s3)

/-- The routine of a handle (R190, R191). -/
def readRoutine (q : ImageRule) (h role : Nat) (s : State) : Ev (Routine × State) := do
  if h < 4 then
    (if q.2.1 = 2 then return (builtin h, s) else routineBad h role 2)
  else
    let (va, s1) ← routLoad ((s.th.routbase.addr + 8 * h) % 2 ^ 64) 8 s
    if va = 0 || va % 4 ≠ 0 then routineBad h role 7
    else readImage q h role va s1

/-- The limit of an engine class (R195). -/
def routineLimit (cls : Nat) : Nat := if cls = 0 then 8 else if cls = 3 then 16 else 32

/-- The routines of OUTER, whose program formats agree (R189, R195). DESIGN CHOICE (assumption 63): where they differ,
reason 3 names B's handle and role 1. -/
def outerRoutines (c : Tile) (s : State) : Ev (List Routine × State) := do
  let (a, s1) ← readRoutine (8, 2, none, true, false, false) c.ha.toNat 0 s
  let (b, s2) ← readRoutine (8, 2, none, true, false, false) c.hb.toNat 1 s1
  if a.fmt ≠ unsettled && b.fmt ≠ unsettled && a.fmt ≠ b.fmt then routineBad c.hb.toNat 1 3 else return ([a, b], s2)

/-- The reduction operator of a COLL (R264). -/
def collRoutines (c : Tile) (s : State) : Ev (List Routine × State) := do
  let f := bits c.w4.toNat 7 4
  if 2 ≤ bits c.w4.toNat 3 0 then return ([], s)
  else if f = 1 || f = 8 || f = 9 || f = 11 || f = 12 then routineBad c.ha.toNat 0 3
  else
    let (r, s1) ← readRoutine (16, 2, some (if isFloatFmt f then 3 else 0), false, false, true) c.ha.toNat 0 s
    return ([r], s1)

/-- The routines of a command (R187, R195). -/
def pushRoutines (i : Instr) (c : Tile) (s : State) : Ev (List Routine × State) :=
  let one := fun (arity : Nat) (ident : Bool) => (do
    let (r, s1) ← readRoutine (routineLimit c.cls.toNat, arity, none, c.cls == 0, ident, false) c.ha.toNat 0 s
    return ([r], s1) : Ev (List Routine × State))
  match i with
  | .outer _ => outerRoutines c s
  | .fold _ => one 2 false
  | .scan _ => one 2 (bitOf c.w4.toNat 4)
  | .zip _ => one ((zipInputs c).filter (·)).length false
  | .coll _ => collRoutines c s
  | _ => .ok ([], s)

end Sys2Proof.Machine
end

