-- ==== Sys2Proof/Machine/Push.lean ====
section
/-!
DEFINITION. Pushing tile commands (R30, R91 to R96, R149 to R151, R182 to R186, R207, R214, R215, R235, R263):
the checks, the snapshot, the queues, and the tile commands themselves.
-/
namespace Sys2Proof.Machine

/-! ## Register fields (R94, R96) -/

/-- Register K2 and register I, which only LOOKUP has. -/
def tileK2 (i : Instr) (c : Tile) : RegField := match i with | .lookup _ => fld 6 c.w6.toNat 26 | _ => 0
def tileI (i : Instr) (c : Tile) : RegField := match i with | .lookup _ => fld 6 c.w6.toNat 20 | _ => 0

/-- The register fields in the order X, Y, Z, W, K2, I, P. -/
def pushFields (i : Instr) (c : Tile) : List RegField := [c.x, c.y, c.z, c.w, tileK2 i c, tileI i c, c.p]

/-- Which of X, Y, Z, W, K2 and I a command uses as capabilities; rings, tags, streams and unused inputs replace a
field that is then g0. -/
def pushUses (i : Instr) (c : Tile) : List Bool :=
  let x := c.outCount == 0
  let y := c.inCount == 0
  let memory := !bitOf c.w4.toNat 23
  match i with
  | .mma _ => [false, y, true, false, false, false]
  | .accrd _ => [x, false, false, false, false, false]
  | .outer _ => [x && memory, y, true, false, false, false]
  | .fold _ => [x && memory, y, false, false, false, false]
  | .scan _ => [x, y, false, false, false, false]
  | .zip _ => [x, c.y != 0, c.z != 0, c.w != 0, false, false]
  | .copy _ => [x && !bitOf c.w4.toNat 8, y, false, false, false, false]
  | .get _ => [x, true, true, false, false, false]
  | .put _ => [y, true, true, false, false, false]
  | .putAdd _ => [y, true, true, false, false, false]
  | .pack _ => [true, true, false, false, false, false]
  | .compact _ => [true, true, true, true, false, false]
  | .lookup _ => [true, true, true, true, true, tileI i c != 0]
  | .coll _ => [true, true, false, true, false, false]
  | _ => [false, false, false, false, false, false]

/-- The capability fields, P with .resume among them. -/
def pushCaps (i : Instr) (c : Tile) : List RegField :=
  ((pushFields i c).zip (pushUses i c ++ [bitOf c.flags.toNat 0])).filterMap (fun x => if x.2 then some x.1 else none)

/-! ## ILLEGAL (R33, R52, R95, R186, R235, R263) -/

/-- A shape index at or beyond NSHAPE. -/
def shapeBeyond (i : Instr) (c : Tile) (n : Nat) : Bool :=
  match i with
  | .accrel _ => false
  | .qfence _ => false
  | .copy _ => decide (n ≤ c.shape.toNat) || decide (n ≤ bits c.w4.toNat 7 0)
  | .outer _ => decide (n ≤ c.shape.toNat) || decide (n ≤ bits c.w4.toNat 7 0)
  | _ => decide (n ≤ c.shape.toNat)

/-- The command names accumulator tags. -/
def namesTag (i : Instr) (c : Tile) : Bool :=
  match i with
  | .mma _ => true
  | .accrd _ => true
  | .accrel _ => true
  | .outer _ => bitOf c.w4.toNat 23
  | .fold _ => bitOf c.w4.toNat 23
  | _ => false

/-- A command that no gang may push. -/
def notGanged (i : Instr) : Bool :=
  match i with
  | .lookup _ => true
  | .coll _ => true
  | _ => false

/-- ILLEGAL at word 0. -/
def pushIllegal (i : Instr) (c : Tile) (s : State) : Bool :=
  !wellFormedInstr i || (pushFields i c).any (beyond s.th) || beyond s.th c.d || shapeBeyond i c s.th.nshape ||
    (bitOf c.flags.toNat 3 && (counterOf s s.th.ctx c.cnt.toNat).isNone) ||
    (s.th.ganged && (notGanged i || (namesTag i c && decide (255 < bits c.w4.toNat 31 24 + s.th.gsize))))

/-! ## The other checks (R44, R50, R95) -/

/-- A stream register in a field, unbound or of the wrong direction. -/
def pushUnbound (i : Instr) (c : Tile) (s : State) : Option RegField :=
  match (pushFields i c).find? (streamBad s.th false) with
  | some r => some r
  | none => if streamBad s.th true c.d then some c.d else none

/-- A capability field: CAP_TAG, then CAP_PERM without ENGINE; a stream element is data. -/
def checkCapField (s : State) (r : RegField) : Ev Unit :=
  let v := (popOne r s).1
  if !v.tagged then .error (.trap .capTag (BitVec.ofNat 64 v.addr))
  else if !v.has permEngine then .error (.trap .capPerm (BitVec.ofNat 64 v.addr))
  else .ok ()

/-- The capability fields in order. -/
def checkCapFields (s : State) : List RegField → Ev Unit
  | [] => .ok ()
  | r :: rs => do
    checkCapField s r
    checkCapFields s rs

/-- A ring that a command names (R50). -/
def checkRing (n : BitVec 4) (k : BitVec 12) (s : State) : Ev State := do
  if k == 0 then return s
  else
    let va := ringAddr s.th.cbbase n.toNat
    capCheck s.th.cbbase va 32 permLoad
    capCheck s.th.cbbase va 32 permStore
    aligned va 16
    let (r, s1) ← readRing va s
    if r.ok then return s1 else ringBad va

/-- The registers that a push waits for (R162, R252), and those in error (R326). -/
def pushRegisters (i : Instr) (c : Tile) (s : State) : Ev Unit :=
  match (pushFields i c).find? (regEcc s) with
  | some r => .error (.trap .eccUncorrected (zext64 r))
  | none =>
    match (pushFields i c ++ [c.d]).find? (awaits s) with
    | some r => again (.register r)
    | none => .ok ()

/-! ## Queues (R182, R214, R269) -/

/-- The unit of a job: the quire, or the die for a collective (R183). -/
def pushUnit (cls quire : Nat) : Nat := if cls = 3 then dieOf quire else quire

/-- The jobs of an engine that hold entries. -/
def heldJobs (s : State) (cls unit : Nat) : List Job := s.jobs.filter (fun j => j.cls == cls && j.unit == unit && j.stage != .ended)

/-- The copy unit's 64 entries are taken. -/
def onChipFull (s : State) (unit : Nat) : Bool := decide (64 ≤ ((heldJobs s 1 unit).filter (fun j => j.stage != .spilled)).length)

/-- A context's entries of the spill ring. -/
def spilledJobs (s : State) (c : Ctx) : Nat := (s.jobs.filter (fun j => j.ctx == c && j.stage == .spilled)).length

/-- Pushes of a core go behind those of it that lie in the ring, or find the chip full (R214). -/
def mustSpill (cls unit : Nat) (s : State) : Bool :=
  cls == 1 && (onChipFull s unit || (heldJobs s 1 unit).any (fun j => j.stage == .spilled && j.core == s.th.core))

/-- No entry for a push: the slot stalls. -/
def queueFull (cls unit : Nat) (s : State) : Bool :=
  if cls = 1 then
    mustSpill 1 unit s && (!bitOf (s.ctx s.th.ctx).spillbase.toNat 0 || decide (4096 ≤ spilledJobs s s.th.ctx))
  else if cls = 3 then decide (4096 ≤ ((heldJobs s 3 unit).filter (fun j => j.ctx == s.th.ctx)).length)
  else if cls = 0 then decide (8 ≤ ((heldJobs s 0 unit).filter (fun j => j.core == s.th.core)).length)
  else false

/-- The address of entry `k` of a context's spill ring. -/
def spillEntry (s : State) (c : Ctx) (k : Nat) : Nat := bits (s.ctx c).spillbase.toNat 55 20 * 2 ^ 20 + 256 * k

/-- The spill ring's entry for a push: the lowest that no spilled command of the context holds (R214, assumption 19). -/
def spillVa (s : State) : Nat :=
  let c := s.th.ctx
  let free := fun (k : Nat) => !s.jobs.any (fun j => j.ctx == c && j.stage == .spilled && j.spillAt == some (spillEntry s c k))
  spillEntry s c (((List.range 4096).find? free).getD 0)

/-- An entry as it lies at a physical address: the command in bytes 0 to 31, the snapshot with its tags in the seven granules
from 32 on, the issuer's slot at 144 (R214, assumption 19). -/
def spillStore (c : Ctx) (pa : Nat) (i : Instr) (regs : List Reg) (slot : Nat) (s : State) : State :=
  let s1 := s.store c pa (toBytesLE 32 (encode i))
  let s2 := regs.zipIdx.foldl (fun s (r, k) => s.storeCap c (pa + 32 + 16 * k) r) s1
  s2.storeNat c (pa + 144) 8 slot

/-- The write of an entry of the spill ring: SPILL_FAULT where it does not translate (R214). -/
def spillTo (va : Nat) (i : Instr) (regs : List Reg) (s : State) : Ev State := do
  walkFree va s
  match translate s s.th.quire s.th.ctx va .store with
  | (.ok pa _ _ _ _, s1) => return spillStore s.th.ctx pa i regs s.th.slot s1
  | (.fault v, _) => .error (.trap .spillFault v)
  | (.park, _) => again (.spillWalk s.th.ctx va s.cycle.toNat)
  | (.bad, _) => .error (.trap .eccUncorrected (BitVec.ofNat 64 va))

/-- The snapshot that the thread in focus gives a command (R96). -/
def snapshot (i : Instr) (c : Tile) (s : State) : List Reg := (popAll (pushFields i c) s).1

/-- The write to the spill ring; the entry is the leader's of a gang. -/
def spillWrite (i : Instr) (c : Tile) (s : State) : Ev State := spillTo (spillVa s) i (snapshot i c s) s

/-! ## One member's checks and waits (R95, R96) -/

/-- What the push of the thread in focus waits for before it reads: an earlier acquire, the sequencer (R162), and, a release
of them, its earlier accesses (R150). -/
def pushOrders (s : State) : Ev Unit := do
  acquired s
  drained s
  performedAll s

/-- The checks of R95 for the thread in focus: the routines, and the state after the reads. Descriptors and images are read
once what the push waits for is done (R150, R162, assumption 29). -/
def pushChecks (i : Instr) (c : Tile) (s : State) : Ev (List Routine × State) := do
  if pushIllegal i c s then illegal i else pure ()
  match pushUnbound i c s with
  | some r => .error (.trap .streamUnbound (zext64 r))
  | none => pure ()
  pushRegisters i c s
  checkCapFields s (pushCaps i c)
  pushOrders s
  let s1 ← checkRing c.inRing c.inCount s
  let s2 ← checkRing c.outRing c.outCount s1
  pushRoutines i c s2

/-- What the push of the thread in focus waits for: a release of its earlier accesses (R150), the sequencer
(R162), its pops, and room for the job id (R46). -/
def pushWaits (i : Instr) (c : Tile) (s : State) : Ev Unit := do
  pushOrders s
  match (pushFields i c).find? (starved s.th (pushFields i c)) with
  | some r => again (.pop r)
  | none =>
    match pushHalt s c.d with
    | some h => .error h
    | none => pure ()

/-! ## The push -/

/-- The threads that push: the focus thread's gang in GPOS order, or the thread alone. -/
def pushers (s : State) : List Nat :=
  if s.th.ganged then ((s.gangOf s.th.launch s.th.tid).map (·.members)).getD [s.th.tid] else [s.th.tid]

/-- The checks and waits of every member: the routines of the first, the members that trap, the member that waits,
and the state after the reads. -/
def memberChecks (i : Instr) (c : Tile) (launch : Nat) :
    List Nat → State → List Routine × List (Nat × Cause × Word) × Option (Nat × Stall) × State
  | [], s => ([], [], none, s)
  | t :: r, s =>
    let f := s.focusOn launch t
    let x := do
      let (rs, s1) ← pushChecks i c f
      pushWaits i c s1
      return (rs, s1)
    match x with
    | .ok (rs, s1) =>
      let (_, bad, wait, s2) := memberChecks i c launch r s1
      (rs, bad, wait, s2)
    | .error (.trap k v) =>
      let (rs, bad, wait, s2) := memberChecks i c launch r f
      (rs, (t, k, v) :: bad, wait, s2)
    | .error (.stall w) =>
      let (rs, bad, wait, s2) := memberChecks i c launch r f
      (rs, bad, some (wait.getD (t, w)), s2)

/-- The id of the next job of an engine (R183). -/
def nextSerial (s : State) (cls unit : Nat) : Nat :=
  ((s.serials.find? (fun x => x.1 == 512 * cls + unit)).map (·.2)).getD 0

def jobId (cls unit serial : Nat) : Nat := serial % 2 ^ 16 + cls * 2 ^ 16 + unit % 512 * 2 ^ 18

/-- A serial taken. -/
def takeSerial (s : State) (cls unit : Nat) : State :=
  { s with serials := (512 * cls + unit, nextSerial s cls unit + 1) :: s.serials.filter (fun x => x.1 != 512 * cls + unit) }

/-- One member's part of the push: its fields are read, the job id goes to d, and PC moves on (R96). -/
def pushMember (i : Instr) (c : Tile) (id launch t : Nat) (s : State) : JobMember × State :=
  let f := s.focusOn launch t
  let (vs, s1) := popAll (pushFields i c) f
  let m : JobMember := { launch := launch, tid := t, index := t, core := f.th.core, regs := vs, shapebase := f.th.shapebase,
                         cbbase := f.th.cbbase, fifo := [], mail := [], delivered := false }
  (m, (writeData c.d (BitVec.ofNat 64 id) s1).advance 32)

/-- Every member's part. -/
def pushMembers (i : Instr) (c : Tile) (id launch : Nat) : List Nat → State → List JobMember × State
  | [], s => ([], s)
  | t :: r, s =>
    let (m, s1) := pushMember i c id launch t s
    let (ms, s2) := pushMembers i c id launch r s1
    (m :: ms, s2)

/-- The job that a push makes; the leader is in focus. -/
def newJob (i : Instr) (c : Tile) (rs : List Routine) (ms : List JobMember) (id : Nat) (spill : Option Nat) (t : Thread) (gang : Option Nat)
    (order : Nat) : Job :=
  let cls := c.cls.toNat
  { id := id, cls := cls, unit := pushUnit cls t.quire, quire := t.quire, core := t.core, ctx := t.ctx, launch := t.launch,
    cmd := i, tile := c, gang := gang, members := ms, routines := rs, deadline := t.deadline, weight := 1 + t.prio / 16, order := order,
    stage := if spill.isSome then .spilled else .queued, spillAt := spill, status := 0, record := [], done := 0, tickets := [], parkedAt := none, missAt := none, timedOut := [],
    freed := false, visible := false, windows := [], stream := [], bound := [],
    counts := [], widths := [], entered := [], comm := none, number := none, finals := [] }

/-- The binding takes the elements of a job. -/
def Binding.ofJob (id : Nat) (b : Binding) : Bool := (b.kind == .cp || b.kind == .eng) && b.word.toNat == id

/-- A job whose serial is taken again goes on: it is not over, its tickets count, or a register is bound to it. -/
def keptJob (s : State) (k : Job) : Bool :=
  k.stage != .ended || !k.tickets.isEmpty || s.threads.any (fun t => t.q.toList.any (fun b => b.any (·.ofJob k.id)))

/-- The key by which a job is found whose id names a newer one; its low 32 bits are the id (R183). -/
def Job.oldKey (k : Job) : Nat := k.id % 2 ^ 32 + (k.order + 1) * 2 ^ 32

/-- The jobs without id `id`: an older one with it goes on under its key, or is forgotten. -/
def displaced (id : Nat) (s : State) : List Job :=
  s.jobs.filterMap (fun k => if k.id = id then (if keptJob s k then some { k with id := k.oldKey } else none) else some k)

/-- The bindings to the job with id `id` follow it to its key. -/
def rebind (id : Nat) (s : State) : State :=
  match s.jobOf id with
  | none => s
  | some k =>
    let name := fun (b : Binding) => if b.ofJob id then { b with word := BitVec.ofNat 64 k.oldKey } else b
    let f := fun (t : Thread) => { t with q := t.q.map (fun b => b.map name) }
    { s with th := f s.th, others := s.others.map f, conts := s.conts.map f }

/-- A job accepted: its id names it from now on (R183). -/
def acceptJob (j : Job) (s : State) : State :=
  { rebind j.id s with jobs := j :: displaced j.id s, nextOrder := s.nextOrder + 1 }

/-- The push, once every check has passed and nothing waits. -/
def pushJob (i : Instr) (c : Tile) (rs : List Routine) (ts : List Nat) (s : State) : Ev State := do
  let cls := c.cls.toNat
  let unit := pushUnit cls s.th.quire
  let leader := s.th
  let spill := mustSpill cls unit s
  if queueFull cls unit s then again (.queue cls unit)
  else
    let s1 ← if spill then spillWrite i c s else .ok s
    let id := jobId cls unit (nextSerial s1 cls unit)
    let (ms, s2) := pushMembers i c id leader.launch ts s1
    let gang := if leader.ganged then (s.gangOf leader.launch leader.tid).map (·.num) else none
    let j := newJob i c rs ms id (if spill then some (spillVa s) else none) leader gang s2.nextOrder
    return (acceptJob j (takeSerial s2 cls unit)).focusOn leader.launch leader.tid

/-- The traps of a ganged instruction: each member that fails takes its own cause, the others GANG_BROKEN (R29). -/
def gangTraps (g : Gang) (bad : List (Nat × Cause × Word)) (s : State) : State :=
  let first := (bad.head?.bind (fun x => s.find g.launch x.1)).map (·.core)
  g.members.foldl (fun s t =>
    let f := s.focusOn g.launch t
    match bad.find? (fun x => x.1 == t) with
    | some x => takeTrap x.2.1 false x.2.2 f.th.pc false f
    | none => takeTrap .gangBroken false (brokenTval (first.getD 0)) f.th.pc false f) (disband g s)

/-- A member of a gang holds its slot; the leader comes back into focus. -/
def memberStall (launch leader t : Nat) (w : Stall) (s : State) : State :=
  ((s.focusOn launch t).up (fun x => { x with stall := some w })).focusOn launch leader

/-- The members of a push trap: the thread alone, or its gang (R29, R95). -/
def pushFails (launch tid : Nat) (bad : List (Nat × Cause × Word)) (s : State) : State :=
  match (if s.th.ganged then s.gangOf launch tid else none), bad with
  | some g, _ => (gangTraps g bad s).focusOn launch tid
  | none, (_, k, v) :: _ => takeTrap k false v s.th.pc false s
  | none, [] => s

/-- A tile command: one push for the thread or its gang, or its traps, or a wait (R30, R95, R96). DESIGN CHOICE (assumption 35):
a fault of the one spill write is the leader's SPILL_FAULT, and GANG_BROKEN for the others (R29, R214). -/
def pushTile (i : Instr) (c : Tile) (s : State) : Host.Outcome State Fault Refusal :=
  let ts := pushers s
  let launch := s.th.launch
  let tid := s.th.tid
  let (rs, bad, wait, s1) := memberChecks i c launch ts s
  let s2 := s1.focusOn launch tid
  if !bad.isEmpty then .next (pushFails launch tid bad s2)
  else
    match wait with
    | some (t, w) => .next (memberStall launch tid t w s2)
    | none =>
      match pushJob i c rs ts s2 with
      | .ok s3 => .next s3
      | .error (.trap k v) => .next (pushFails launch tid [(tid, k, v)] s2)
      | .error (.stall w) => .next (memberStall launch tid tid w s2)

/-! ## The tile commands -/

/-- MMA (R171 to R175, R396). -/
def execMma (c : Tile) (s : State) : Host.Outcome State Fault Refusal := pushTile (.mma c) c s

/-- ACCRD (R180, R181, R338). -/
def execAccrd (c : Tile) (s : State) : Host.Outcome State Fault Refusal := pushTile (.accrd c) c s

/-- ACCREL (R179, R339). -/
def execAccrel (c : Tile) (s : State) : Host.Outcome State Fault Refusal := pushTile (.accrel c) c s

/-- OUTER (R187, R188, R199, R404). -/
def execOuter (c : Tile) (s : State) : Host.Outcome State Fault Refusal := pushTile (.outer c) c s

/-- FOLD (R187, R188, R198, R375). -/
def execFold (c : Tile) (s : State) : Host.Outcome State Fault Refusal := pushTile (.fold c) c s

/-- SCAN (R187, R188, R198, R418). -/
def execScan (c : Tile) (s : State) : Host.Outcome State Fault Refusal := pushTile (.scan c) c s

/-- ZIP (R187, R188, R198, R451). -/
def execZip (c : Tile) (s : State) : Host.Outcome State Fault Refusal := pushTile (.zip c) c s

/-- COPY (R207, R208, R358). -/
def execCopy (c : Tile) (s : State) : Host.Outcome State Fault Refusal := pushTile (.copy c) c s

/-- GET (R218, R379). -/
def execGet (c : Tile) (s : State) : Host.Outcome State Fault Refusal := pushTile (.get c) c s

/-- PUT (R218, R407). -/
def execPut (c : Tile) (s : State) : Host.Outcome State Fault Refusal := pushTile (.put c) c s

/-- PUT.add (R218, R407). -/
def execPutAdd (c : Tile) (s : State) : Host.Outcome State Fault Refusal := pushTile (.putAdd c) c s

/-- PACK (R230, R405). -/
def execPack (c : Tile) (s : State) : Host.Outcome State Fault Refusal := pushTile (.pack c) c s

/-- COMPACT (R231, R357). -/
def execCompact (c : Tile) (s : State) : Host.Outcome State Fault Refusal := pushTile (.compact c) c s

/-- QFENCE (R151, R408). -/
def execQfence (c : Tile) (s : State) : Host.Outcome State Fault Refusal := pushTile (.qfence c) c s

/-- LOOKUP (R234, R235, R393). -/
def execLookup (c : Tile) (s : State) : Host.Outcome State Fault Refusal := pushTile (.lookup c) c s

/-- COLL (R263, R264, R356). -/
def execColl (c : Tile) (s : State) : Host.Outcome State Fault Refusal := pushTile (.coll c) c s

end Sys2Proof.Machine
end

