-- ==== Sys2Proof/Machine/Jobs.lean ====
section
/-!
DEFINITION. The life of a job on its engine (R50, R138, R150 to R153, R178, R182, R184, R185, R210 to R214, R222,
R227): its start, its tickets, its messages, its end, and the elements of a streaming copy.
-/
namespace Sys2Proof.Machine

/-! ## Running (R170 to R245) -/

/-- A QFENCE ends DONE as it starts (R151, R408). -/
def runQfence (s : State) : Je (JobEnd × State) := .ok (⟨0, []⟩, s)

/-- What a job of an engine other than the collective one does. -/
def runJob (j : Job) (s : State) : Je (JobEnd × State) :=
  match j.cmd with
  | .mma _ => runMma j s
  | .accrd _ => runAccrd j s
  | .accrel _ => runAccrel j s
  | .copy _ => runCopy j s
  | .get _ => runGather j s
  | .put _ => runGather j s
  | .putAdd _ => runGather j s
  | .pack _ => runPack j s
  | .compact _ => runCompact j s
  | .lookup _ => runLookup j s
  | .qfence _ => runQfence s
  | _ => runForm j s

/-! ## When a job may start (R50, R151, R178, R182, R214) -/

/-- The job waits in the queue or in the spill ring, with no access made. -/
def Job.waits (j : Job) : Bool := j.stage == .queued || j.stage == .spilled

/-- The two jobs have a thread in common. -/
def shareThread (j k : Job) : Bool := j.members.any (fun m => (k.memberOf m.launch m.tid).isSome)

/-- A fence of the copy queue. -/
def Job.isFence (j : Job) : Bool := match j.cmd with | .qfence _ => true | _ => false

/-- The job names an accumulator tag that another names. -/
def shareTag (j k : Job) : Bool :=
  j.cls == 0 && namesTag j.cmd j.tile && namesTag k.cmd k.tile && k.ctx == j.ctx && (jobTags j).any (fun t => (jobTags k).contains t)

/-- The job has started as far as the order of its queue goes, and waits for a walk or for its rings before it reads or
writes (R50, R138). -/
def begun (s : State) (k : Job) : Bool := k.parkedAt.isSome || !(k.aborted || ringsReady k s)

/-- An earlier job `k` of the same queue and thread holds `j` back by a fence (R151, R408). -/
def fenced (j k : Job) : Bool :=
  decide (k.order < j.order) && k.cls == j.cls && k.unit == j.unit && k.stage != .ended && shareThread j k && (j.isFence || k.isFence)

/-- An older command of the same spill ring holds `j` back: they start in acceptance order, whatever their core. One that a
fence holds does not, for a fence holds its own thread's jobs only (R214, R408). -/
def ringBefore (s : State) (j k : Job) : Bool :=
  j.stage == .spilled && k.stage == .spilled && k.ctx == j.ctx && decide (k.order < j.order) && !begun s k && !s.jobs.any (fenced k)

/-- An earlier job `k` of the same queue holds `j` back. -/
def holdsBack (s : State) (j k : Job) : Bool :=
  fenced j k || ringBefore s j k || (decide (k.order < j.order) && k.cls == j.cls && k.unit == j.unit && k.stage != .ended &&
    ((shareThread j k && k.waits && !begun s k) || shareTag j k))

/-- A job may start: the order of its queue, room on the chip for one that was spilled, and its rings; one whose stream
was ended already needs no ring. -/
def mayStart (j : Job) (s : State) : Bool :=
  j.waits && !s.jobs.any (holdsBack s j) && !(j.stage == .spilled && onChipFull s j.unit) && (j.aborted || ringsReady j s)

/-- The core of a queue that a job counts against: on the collective engine, a core of the die (R182, R269). -/
def Job.inQueue (j : Job) (cls unit core : Nat) : Bool :=
  j.cls == cls && j.unit == unit && (if cls = 3 then j.quire % 96 == core / 8 && j.core == core % 8 else j.core == core)

/-- The jobs of a core that may be tried, oldest first: those that have begun, then the oldest other one that no fence holds,
since a fence holds only jobs of its own thread (R182, R408). -/
def startOrder (s : State) (cls unit core : Nat) : List Job :=
  let q := s.jobs.reverse.filter (fun j => j.waits && j.inQueue cls unit core)
  q.filter (begun s) ++ (q.find? (fun j => !begun s j && !s.jobs.any (fenced j))).toList

/-! ## The spill ring read back (R137, R214) -/

/-- The command and snapshot of a tile command's entry in the spill ring (assumption 19). -/
def spilledTile (j : Job) (pa : Nat) (s : State) : Job :=
  let regs := (List.range 7).map (fun k => s.mem.readCap (pa + 32 + 16 * k))
  let j1 := { j with members := j.members.mapIdx (fun m x => if m = 0 then { x with regs := regs } else x) }
  match decodeTile (s.mem.readNat pa 32) with
  | .ok i => { j1 with cmd := i, tile := tileOf (s.mem.readNat pa 32) }
  | .error _ => j1

/-- A job as its entry gives it: unchanged where it was not spilled. -/
def unspill (j : Job) (s : State) : Je (Job × State) :=
  match j.spillAt with
  | none => .ok (j, s)
  | some va => do
    let (p, s1) ← jobXlate j va .load s
    match p with
    | none => return (j, s1)
    | some pa =>
      if eccAt s1 pa 152 then eccFailed va
      else
        let k := spilledTile j pa s1
        return (k, s1.onJob j.id (fun x => { x with cmd := k.cmd, tile := k.tile, members := k.members, spillAt := none }))

/-- A job of the routine engine (R187). -/
def Job.isForm (j : Job) : Bool :=
  match j.cmd with
  | .outer _ => true
  | .fold _ => true
  | .scan _ => true
  | .zip _ => true
  | _ => false

/-- The end of a job whose entry cannot be read, in its command's own record (R203, R216, R223, assumption 19). -/
def spillEnd (j : Job) (h : JobHalt) : Je JobEnd :=
  if j.isForm then formEnd j 0 0 0 h
  else
    match h with
    | .fault c v _ =>
      let dest := match j.cmd with | .copy _ => copyDest j | _ => 0
      .ok ⟨statusWord 2 c.num, copyRecord (bits (encode j.cmd) 15 8) j.id 2 c.num 0 0 0 j.tile.shape.toNat dest (fvalOf c v)⟩
    | h => .error h

/-! ## JOB_START -/

/-- Accumulator slots freed for a job of the MXE (R177, R324). -/
def roomFor (j : Job) (s : State) : State :=
  match j.cmd with
  | .accrel _ => s
  | .accrd _ => makeRoom j (jobTags j) false s
  | _ => if j.cls = 0 ∧ namesTag j.cmd j.tile then makeRoom j (jobTags j) true s else s

/-- A streaming copy that a member ended before it started (R212). -/
def settleAbort (marked : Option Nat) (j : Job) : Job :=
  if marked.isSome && j.counts.sum ≠ 0 then
    { j with status := 3, stream := [],
             record := copyRecord 1 j.id 3 0 (marked.getD 0) j.done (j.done + j.counts.sum) j.tile.shape.toNat (bits j.tile.w4.toNat 7 0) 0 }
  else j

/-- A job whose accesses are made: its status and record are decided, and its messages follow. -/
def decided (j : Job) (e : JobEnd) (s : State) : State :=
  s.onJob j.id (fun k => settleAbort (if j.status = 3 then some ((j.record.headD 0).toNat % 8) else none)
    { k.walked with stage := .running, status := e.status, record := e.record })

/-- A collective that has passed its checks registers (R269). -/
def registerJob (j : Job) (g : Comm) (s : State) : State :=
  s.onJob j.id (fun k => { k.walked with stage := .registered, comm := some g })

/-- One job tried: whether it has started, and the state. -/
def tryStart (j : Job) (s : State) : Bool × State :=
  if !mayStart j s then (false, s)
  else if j.cls = 3 then
    match runColl j s with
    | .ok (.ok g, s1) => (true, registerJob j g s1)
    | .ok (.error e, s1) => (true, decided j e s1)
    | .error h => (false, haltJob j h s)
  else
    match unspill j s with
    | .error h =>
      match spillEnd j h with
      | .ok e => (true, decided j e s)
      | .error h => (false, haltJob j h s)
    | .ok (k, s2) =>
      let s0 := roomFor k s2
      match runJob k s0 with
      | .ok (e, s1) => (true, decided k e s1)
      | .error h => (false, haltJob k h s0)

/-- The first of several jobs that starts. -/
def startFirst : List Job → State → State
  | [], s => s
  | j :: r, s =>
    match tryStart j s with
    | (true, s1) => s1
    | (false, s1) => startFirst r s1

/-- JOB_START: the engine turns to a core and starts its oldest job, where it can (R182). A job that is skipped
changes nothing but since when it waits for a walk. -/
def execJobStart (cls unit core : Nat) (s : State) : Host.Outcome State Fault Refusal :=
  .next (startFirst (startOrder s cls unit core) s).chunksDone

/-! ## TICKET_GRANT (R227) -/

/-- The table records that a job names, member by member. -/
def jobTables (j : Job) (s : State) : List Table :=
  match j.cmd with
  | .lookup _ => match readTable j (j.member 0).w s with
    | .ok (t, _) => [t]
    | .error _ => []
  | .get _ => (List.range j.members.length).filterMap (gatherTable j s)
  | .put _ => (List.range j.members.length).filterMap (gatherTable j s)
  | .putAdd _ => (List.range j.members.length).filterMap (gatherTable j s)
  | _ => []
where
  gatherTable (j : Job) (s : State) (m : Nat) : Option Table :=
    match gatherPart j m s with
    | .ok ((_, _, t), _) => t
    | .error _ => none

/-- A record with a drain pair of which the job has no ticket yet. -/
def wantsTicket (j : Job) (t : Table) : Bool := t.drain != 0 && !j.tickets.any (fun x => x.1 == t.drain)

/-- TICKET_GRANT: the job's next ticket. -/
def execTicketGrant (job : Nat) (s : State) : Host.Outcome State Fault Refusal :=
  match s.jobOf job with
  | none => .next s
  | some j =>
    if !mayStart j s then .next s
    else
      match (jobTables j s).find? (wantsTicket j) with
      | none => .next s
      | some t => .next (takeTicket j t s).chunksDone

/-! ## SRC_FREE and VISIBLE (R50, R152, R210) -/

/-- The ring of every member advances, where the job ends DONE (R210); none does while one of them waits for a walk (R138,
R140). -/
def advanceRings (producer : Bool) (j : Job) (s : State) : Je State :=
  let k := if producer then j.tile.outCount.toNat else j.tile.inCount.toNat
  let n := if producer then j.tile.outRing.toNat else j.tile.inRing.toNat
  if k = 0 || j.status % 256 ≠ 0 then .ok s
  else (List.range j.members.length).foldlM (fun s m => advanceSpot j m producer n k s) s

/-- A part of a job done, or the job waiting for a walk that it needs. -/
def stepJob (j : Job) (s : State) (x : Je State) (f : State → State) : Host.Outcome State Fault Refusal :=
  match x with
  | .ok s1 => .next (f s1).chunksDone
  | .error h => .next (haltJob j h s).chunksDone

/-- A job posts a message that word 2 requests. -/
def postKind (j : Job) (asked : Bool) (kind : Nat) (s : State) : State :=
  if asked then postAll j.id (mailEntry j.id kind j.status) s else s

/-- The elements of a streaming copy have all entered their buffers (R212). -/
def delivered (j : Job) : Bool := j.stream.all (·.isEmpty)

/-- The job's accesses are made, and nothing is posted yet. A streaming copy frees the slots of an input ring, which stay
where it ends early, with its last element (R210, R212). -/
def srcFreeReady (j : Job) : Bool := j.stage == .running && !j.freed && (j.tile.inCount == 0 || delivered j)

/-- SRC_FREE. -/
def execSrcFree (job : Nat) (s : State) : Host.Outcome State Fault Refusal :=
  let s0 := settleColl job s
  match s0.jobOf job with
  | none => .next s
  | some j =>
    if !srcFreeReady j then .next (if (s.jobOf job).any (·.stage == .started) then s0.chunksDone else s)
    else stepJob j s0 (advanceRings false j s0) (fun t => postKind j j.tile.srcFree 1 (t.onJob job (fun k => { k.walked with freed := true })))

/-- Every write of the job is made visible next. -/
def visibleReady (j : Job) : Bool := j.stage == .running && j.freed && !j.visible && j.windows.isEmpty && !openBlocks j

/-- VISIBLE. -/
def execVisible (job : Nat) (s : State) : Host.Outcome State Fault Refusal :=
  match s.jobOf job with
  | none => .next s
  | some j =>
    if !visibleReady j then .next s
    else stepJob j s (advanceRings true j s) (fun t => postKind j j.tile.visible 2 (t.onJob job (fun k => { k.walked with visible := true })))

/-! ## Completion counters (R52, R153, R222) -/

/-- The job's counter increased, a release of what it accounts for. -/
def bumpCounter (j : Job) (n : Nat) (s : State) : State :=
  match counterOf s j.ctx j.tile.cnt.toNat with
  | none => s
  | some k => s.setCounter j.quire k (s.counter j.quire k + BitVec.ofNat 64 n)

/-- WINDOW_VISIBLE: the oldest window whose writes are not visible yet. -/
def execWindowVisible (job : Nat) (s : State) : Host.Outcome State Fault Refusal :=
  match s.jobOf job with
  | none => .next s
  | some j =>
    match j.stage, j.windows with
    | .running, n :: r =>
      let s1 := s.onJob job (fun k => { k with windows := r })
      .next (if j.flag 4 then bumpCounter j n s1 else s1)
    | _, _ => .next s

/-! ## JOB_DONE (R152, R184, R185) -/

/-- The job is terminal next. -/
def doneReady (j : Job) (s : State) : Bool := j.stage == .running && j.visible && delivered j && !peersOpen j s

/-- The job terminal, and its record behind its result elements. -/
def Job.close (j : Job) : Job :=
  { j.walked with
    stage := .ended
    members := j.members.map (fun m => { m with fifo := m.fifo ++ (if j.status % 256 = 0 then [] else j.record)
                                                delivered := m.delivered || !j.tile.jobDone }) }

/-- A collective that is over: its engine forgets the number, and its member reports it terminal (R269). -/
def reportColl (j : Job) (s : State) : State :=
  match j.number with
  | none => s
  | some n =>
    let self := collSelf j s
    let mark := fun (k : Kickoff) =>
      if k.num.toNat == n && !k.reported.contains self then { k with reported := k.reported ++ [self] } else k
    { s with engineNums := s.engineNums.filter (fun e => !(e.die == dieOf j.quire && e.num == n))
             referee := { s.referee with opens := s.referee.opens.map mark } }

/-- The counter increment of a job that ends DONE (R153, R222). -/
def countDone (j : Job) (s : State) : State :=
  if j.flag 3 && !j.flag 4 && j.status % 256 == 0 then bumpCounter j 1 s else s

/-- A job becomes terminal, with LEFT of its drain pairs at these places. -/
def finishJob (j : Job) (l : List (Nat × Nat)) (s : State) : State :=
  let s1 := countDone j (s.onJob j.id (·.close))
  let s2 := settleTickets j l s1
  let s3 := postKind j j.tile.jobDone (if j.cls = 3 then 4 else 3) s2
  settleDelivery j.id (if j.cls = 3 then reportColl j s3 else s3)

/-- JOB_DONE, which waits for the places of LEFT (R138, R140, R227). -/
def execJobDone (job : Nat) (s : State) : Host.Outcome State Fault Refusal :=
  match s.jobOf job with
  | none => .next s
  | some j =>
    if !doneReady j s then .next s
    else
      match leftPlaces j j.tickets s with
      | .error h => .next (haltJob j h s).chunksDone
      | .ok (l, s0) => .next (finishJob j l s0).chunksDone

/-! ## COPY_STREAM_ELEMENT (R212) -/

/-- The stream register of a thread that is bound to a job's elements. -/
def copyBinding (t : Thread) (job : Nat) : Option (Nat × Binding) :=
  (List.range 8).findSome? (fun n => (t.stream n).bind (fun b =>
    if b.kind == .cp && b.word.toNat == job then some (n, b) else none))

/-- One element of member `m` has entered. -/
def takeElement (m : Nat) (j : Job) : Job :=
  { j with stream := j.stream.mapIdx (fun i l => if i == m then l.tail else l)
           entered := j.entered.mapIdx (fun i n => if i == m then n + 1 else n) }

/-- COPY_STREAM_ELEMENT: the element enters where the member has bound a register and its buffer has room. -/
def execCopyStreamElement (job member : Nat) (s : State) : Host.Outcome State Fault Refusal :=
  match s.jobOf job with
  | none => .next s
  | some j =>
    match j.stage, j.stream[member]?, j.members[member]? with
    | .running, some (x :: _), some mb =>
      match s.find mb.launch mb.tid with
      | none => .next s
      | some t =>
        match copyBinding t job with
        | none => .next s
        | some (n, b) =>
          if 16 ≤ b.buf.length then .next s
          else .next ((enterBinding t n b x s).onJob job (takeElement member))
    | _, _, _ => .next s

end Sys2Proof.Machine
end

