-- ==== Sys2Proof/Machine/Create.lean ====
section
/-!
DEFINITION. Creating continuations (R17, R18, R35, R37, R133, R134, R321, R331): placement, the continuation
pool, private regions and copies of the shape table.
-/
namespace Sys2Proof.Machine

/-! ## Placement (R18, R134, R331) -/

/-- Quires of a package (R1). -/
def quireCount : Nat := 384

/-- The quire that serves for `q`: itself, or the next enabled one (R331). -/
def enabledFrom (s : State) (q : Nat) : Nat :=
  (((List.range quireCount).map (fun k => (q + k) % quireCount)).find? (fun x => !s.boot.disabled.contains x)).getD q

/-- Ready continuations whose home a quire is. -/
def readyCount (s : State) (q : Nat) : Nat := (s.conts.filter (fun t => t.code == .ready && t.quire == q)).length

/-- The lower-numbered of the two quires that serve the channel of an HBM4 address (R18, R134). -/
def channelQuire (pa : Nat) : Nat :=
  let o := pa - 0x010000000000
  let stack := o / 0xC00000000
  let chan := o % 0xC00000000 / 1024 % 32
  96 * (stack / 2) + 12 * (chan / 4) + (if stack % 2 = 0 then 0 else 10)

/-- The home that a physical address gives (R18). DESIGN CHOICE (assumption 59): of a channel's two quires the ready counts are
compared first, and only the chosen one is replaced where it is disabled (R331). -/
def homeOfPa (s : State) (pa : Nat) : Option Nat :=
  if inSlices pa then some (sliceQuire pa)
  else if inHbm pa then
    let q := channelQuire pa
    some (if readyCount s (q + 1) < readyCount s q then q + 1 else q)
  else none

/-- The home that a virtual address gives in a context, or the fallback (R18). -/
def homeOfVa (s : State) (c : Ctx) (va fallback : Nat) : Nat :=
  enabledFrom s ((if isLocal va then (physOf s c va .load).bind (homeOfPa s) else none).getD fallback)

/-- The home that SPAWN's b gives: a tagged value by its address (R18). -/
def homeOfReg (s : State) (c : Ctx) (b : Reg) (fallback : Nat) : Nat :=
  if b.tagged then homeOfVa s c b.addr fallback else enabledFrom s fallback

/-! ## The pool (R321) -/

/-- The lowest free entry of a context's pool. -/
def freeEntry (x : Context) : Option Nat :=
  (List.range (x.used.length + 1)).find? (fun i => !x.used.contains i && decide (i < x.poolcnt.toNat))

/-- Free entries of a context's pool. -/
def freeEntries (x : Context) : Nat := x.poolcnt.toNat - x.used.length

/-- An entry taken. -/
def takeEntry (c : Ctx) (i : Nat) (s : State) : State := s.setCtx c (fun x => { x with used := i :: x.used })

/-- An entry freed. -/
def dropEntry (c : Ctx) (i : Nat) (s : State) : State := s.setCtx c (fun x => { x with used := x.used.filter (· != i) })

/-! ## Space in core regions (R35, R37, R133) -/

/-- The first address of a core region. -/
def regionBase (quire core : Nat) : Nat := quire * sliceBytes + core * coreRegion

/-- The ranges taken in a core region: private regions and copies of shape tables. -/
def takenRanges (s : State) (quire core : Nat) : List (Nat × Nat) :=
  let lo := regionBase quire core
  (s.launches.flatMap (fun l => l.regions ++ l.copies.map (fun (_, _, b) => (b, 128 * l.nshape)))).filter
    (fun (b, n) => n != 0 && decide (lo ≤ b) && decide (b < lo + coreRegion))

/-- `n` bytes at `b` of a core region are free. -/
def rangeFree (s : State) (quire core b n : Nat) : Bool :=
  decide (regionBase quire core ≤ b) && decide (b + n ≤ regionBase quire core + coreRegion) &&
    (takenRanges s quire core).all (fun (x, k) => decide (b + n ≤ x) || decide (x + k ≤ b))

/-- The context maps `n` bytes at the virtual address equal to the physical one (R35). -/
def mapsItself (s : State) (c : Ctx) (b n : Nat) (acc : Access) : Bool :=
  decide (n = 0) || (List.range ((b + n - 1) / 4096 + 1 - b / 4096)).all (fun k =>
    let va := max b ((b / 4096 + k) * 4096)
    physOf s c va acc == some va)

/-- The starts of the 4 KiB pages of a core region. -/
def pageStarts (quire core : Nat) : List Nat := (List.range (coreRegion / 4096)).map (fun k => regionBase quire core + 4096 * k)

/-- Where `n` bytes may start: after a taken range, or at a page's start, so that some of these fits wherever any
place does. -/
def candidateStarts (s : State) (quire core : Nat) : List Nat :=
  (takenRanges s quire core).map (fun (b, n) => b + n) ++ pageStarts quire core

/-- The copy of a launch's shape table in a core region. -/
def copyIn (l : Launch) (quire core : Nat) : Option Nat :=
  (l.copies.find? (fun (q, c, _) => q == quire && c == core)).map (fun (_, _, b) => b)

/-- `n` bytes at `b` of a core region can be a thread's private region (R35). -/
def regionUsable (s : State) (l : Launch) (quire core b : Nat) : Bool :=
  b % 64 == 0 && rangeFree s quire core b l.privb && mapsItself s l.ctx b l.privb .store &&
    (match copyIn l quire core with
     | some x => mapsItself s l.ctx x (128 * l.nshape) .load
     | none => false)

/-- A private region for a thread of a launch on a quire, of a pinned core or of any core. Which of the
usable ones the part takes is open (R3, R17, R304): a free choice. -/
def findRegion (s : State) (l : Launch) (quire : Nat) (core : Option Nat) : Option (Nat × Nat) :=
  let cores := match core with | some c => [c] | none => List.range 8
  let x := Config.freeNat s.free
  let c := cores.getD (x % max cores.length 1) 0
  let b := regionBase quire c + x / 8 % 2560 * 64
  if cores.contains c && regionUsable s l quire c b then some (c, b)
  else (cores.flatMap (fun c => (candidateStarts s quire c).map (fun b => (c, b)))).find?
    (fun (c, b) => regionUsable s l quire c b)

/-- The region taken by a launch. -/
def takeRegion (launch b n : Nat) (s : State) : State :=
  { s.onLaunch launch (fun l => { l with regions := (b, n) :: l.regions }) with free := s.free + 1 }

/-- Where `n` bytes may start so that they end at the region's end, or before a taken range. -/
def candidateEnds (s : State) (quire core n : Nat) : List Nat :=
  ((regionBase quire core + coreRegion) :: (takenRanges s quire core).map (fun (b, _) => b)).map (fun e => e - n)

/-- Room for a copy of a shape table in a core region: none where the region fails the mapping test. At which end of a
free space the copy lies is a free choice (assumption 41). -/
def copyRoom (s : State) (l : Launch) (quire core : Nat) : Option Nat :=
  let n := 128 * l.nshape
  let low := candidateStarts s quire core
  let high := candidateEnds s quire core n
  (if n = 0 then low else if Config.freeBit s.free then low ++ high else high ++ low).find? (fun b =>
    rangeFree s quire core b n && mapsItself s l.ctx b n .load)

/-- The context maps a place of `n` bytes in a core region, taken or not. A region with no room for its copy of the shape
table counts as full where it does, and is passed over where it does not. DESIGN CHOICE (R35, R37, assumption 41). -/
def regionMapped (s : State) (c : Ctx) (quire core n : Nat) : Bool :=
  (pageStarts quire core).any (fun b => decide (b + n ≤ regionBase quire core + coreRegion) && mapsItself s c b n .load)

/-- Copies of the shape table `bs` in the core regions of a quire, from core `k` on (R37). -/
def copyFrom (launch quire : Nat) (bs : List Byte) : Nat → State → Option State
  | 0, s => some s
  | n + 1, s =>
    let core := 7 - n
    (s.launches.find? (·.num == launch)).bind (fun l =>
      (copyRoom s l quire core).elim
        (if regionMapped s l.ctx quire core (128 * l.nshape) then none else copyFrom launch quire bs n s)
        (fun b => copyFrom launch quire bs n
          (State.store { s.onLaunch launch (fun l => { l with copies := (quire, core, b) :: l.copies }) with free := s.free + 1 }
            l.ctx b bs)))

/-- The launch holds copies on a quire. -/
def hasCopies (l : Launch) (quire : Nat) : Bool := l.copies.any (fun (q, _, _) => q == quire)

/-- Copies on a quire, where the launch has none there yet; nothing where there is no room (R17, R37). -/
def reserveCopies (launch quire : Nat) (bs : List Byte) (s : State) : Option State :=
  match s.launches.find? (·.num == launch) with
  | none => none
  | some l => if hasCopies l quire then some s else copyFrom launch quire bs 8 s

/-! ## A new continuation -/

/-- The start values of a thread of a launch (R35, R452, R54). -/
def baseThread (l : Launch) (tid quire core pool region copy : Nat) : Thread :=
  { Thread.empty with
    launch := l.num, tid := tid, ctx := l.ctx, quire := quire, core := core, pool := pool,
    privBase := region, privLen := l.privb, vregs := l.vregs, nshape := l.nshape, queuePrio := l.queuePrio,
    tier := l.tier, code := .ready, prio := l.queuePrio, gran := l.gran, kobj := BitVec.ofNat 64 l.kobj,
    m := BitVec.allOnes 128, vl := 128, deadline := l.deadline,
    shapebase := boundedCap copy copy (128 * l.nshape) 0x001 }

/-- The general registers that a thread starts with, of those given (R17, R35). -/
def startRegs (t : Thread) (regs : List (Nat × Reg)) : Thread :=
  { regs.foldl (fun t (n, r) => t.setReg n r) t with dirty := 0 }

/-- The capability to a private region (R35). -/
def privCap (region len : Nat) : Reg := boundedCap region region len 0x03B

/-- A page of a thread's record or frame, and how its walk ends (R321). -/
def poolPages (s : State) (t : Thread) : List (Nat × Walk) :=
  [recordVa s t.ctx t.pool, frameVa s t.ctx t.pool, frameVa s t.ctx t.pool + 4096].map (fun va => (va, walk s t.ctx va .store))

/-- The fault of a walk, with its cause and TVAL (R130, R326). -/
def walkFault (va : Nat) : Walk → Option (Cause × Word)
  | .fault v => some (.pageFault, v)
  | .bad => some (.eccUncorrected, BitVec.ofNat 64 va)
  | _ => none

/-- A page of the thread's that its walk has met with MIG = 1 for 10 ms (R138). -/
def Thread.waitedOut (t : Thread) (va now : Nat) : Bool := t.parkedAt.any (fun p => p.1 == va / 4096 && decide (p.2 + tenMs ≤ now))

/-- A page whose walk meets MIG = 1, noted with the core cycle at which it first did (R138). -/
def Thread.noteParked (va now : Nat) (t : Thread) : Thread :=
  { t with parkedAt := some (va / 4096, ((t.parkedAt.filter (fun p => p.1 == va / 4096)).map (·.2)).getD now) }

/-- The first page of a thread's record and frame whose walk meets MIG = 1, and has not done so for 10 ms (R138). -/
def poolPark (s : State) (t : Thread) : Option Nat :=
  ((poolPages s t).find? (fun x => x.2 == .park && !t.waitedOut x.1 s.cycle.toNat)).map (·.1)

/-- The first fault among the accesses to a thread's record and frame: of a walk, or of one that has met MIG = 1 for 10 ms
(R138, R321). -/
def poolFault (s : State) (t : Thread) : Option (Cause × Word) :=
  (poolPages s t).findSome? (fun x =>
    if x.2 == .park && t.waitedOut x.1 s.cycle.toNat then some (.pageFault, migrationTval s t.ctx x.1) else walkFault x.1 x.2)

/-- A continuation's record and whole frame stored, and the continuation saved; nothing where an access
faults (R318, R321). -/
def addCont (t : Thread) (s : State) : Option State :=
  let fr := frameVa s t.ctx t.pool
  let l := chunkTable s t.ctx [recordVa s t.ctx t.pool, fr, fr + 4096]
  ((storeWordsBy l t.ctx (recordWords t (recordVa s t.ctx t.pool) ++ gregWords t fr (fun _ => true) ++ frameWords t fr) s).bind
    (storeCapsBy l t.ctx (recordCaps t (recordVa s t.ctx t.pool) s ++ frameCaps t fr))).map (fun s2 =>
      { s2 with conts := s2.conts ++ [{ t with readyAt := s.cycle.toNat, savedAt := s2.stamp }] })

/-- The bytes of a launch's shape table, from the copy it already holds (R37: the copies are identical). -/
def shapeBytes (s : State) (l : Launch) : List Byte :=
  match l.copies with
  | (_, _, b) :: _ => s.mem.readBytes b (128 * l.nshape)
  | [] => []

/-- The room that a SPAWN finds: the pool entry, the launch, the home quire and the core and private region there; nothing
where the pool, the copies or the region find none (R17). Copies that were reserved stay reserved. -/
def spawnRoom (b : Reg) (s : State) : Option (Nat × Launch × Nat × Nat × Nat) × State :=
  let t := s.th
  match s.launches.find? (·.num == t.launch), freeEntry (s.ctx t.ctx) with
  | some l, some i =>
    let home := homeOfReg s t.ctx b t.quire
    match reserveCopies l.num home (shapeBytes s l) s with
    | none => (none, s)
    | some s1 =>
      match s1.launches.find? (·.num == t.launch) with
      | none => (none, s1)
      | some l1 => ((findRegion s1 l1 home none).map (fun x => (i, l1, home, x.1, x.2)), s1)
  | _, _ => (none, s)

/-- SPAWN's new thread, or none where it finds no room or its pool entry cannot be written (R17, R321), and the state after
it. -/
def spawnThread (prio : Nat) (a b : Reg) (s : State) : Option Nat × State :=
  let t := s.th
  match spawnRoom b s with
  | (none, s1) => (none, s1)
  | (some (i, l, home, core, region), s1) =>
    let u := { baseThread l l.nextTid home core i region ((copyIn l home core).getD 0) with
      pc := BitVec.ofNat 64 a.addr, prio := min prio t.queuePrio, spawned := true, fetchCap := a,
      routbase := t.routbase, lrtbase := t.lrtbase, deadline := t.deadline }
    let u1 := startRegs u [(1, t.reg 1), (5, t.reg 5), (2, privCap region l.privb), (3, u.shapebase),
      (4, Reg.ofData (BitVec.ofNat 64 (l.nextTid % 2 ^ 32))), (6, b)]
    let s2 := takeEntry t.ctx i (takeRegion l.num region l.privb s1)
    match addCont u1 (s2.onLaunch l.num (fun l => { l with live := l.live + 1, nextTid := l.nextTid + 1 })) with
    | some s3 => (some (l.nextTid % 2 ^ 32), s3)
    | none => (none, s1)

/-- The pool accesses of a SPAWN that finds room fault (R321). -/
def spawnFaults (b : Reg) (s : State) : Bool :=
  (spawnRoom b s).1.any (fun x => (poolFault (spawnRoom b s).2 { s.th with pool := x.1 }).isSome)

/-- The page whose walk parks, of the pool entry of a SPAWN that finds room (R138, R321). -/
def spawnPark (b : Reg) (s : State) : Option Nat :=
  (spawnRoom b s).1.bind (fun x => poolPark (spawnRoom b s).2 { s.th with pool := x.1 })

/-- A thread's private region and pool entry are free again (R321). -/
def freeThread (t : Thread) (s : State) : State :=
  dropEntry t.ctx t.pool (s.onLaunch t.launch (fun l => { l with regions := l.regions.filter (fun (b, _) => b != t.privBase) }))

end Sys2Proof.Machine
end

