-- ==== Sys2Proof/Machine/Launch.lean ====
section
/-!
DEFINITION. Packets of the launch queues (R99 to R101, R299 to R306, R329): launches with their checks and threads
(R31 to R37, R131, R321, R331, R452), counter waits, value writes, no-ops, and the launch status word.
-/
namespace Sys2Proof.Machine

/-! ## The ring (R98 to R100) -/

/-- Slot `i` of a ring. -/
def slotAddr (x : Queue) (i : Nat) : Nat := x.qbase.toNat + i % max 1 x.slots * 128

/-- The consumer position. -/
def Queue.head (x : Queue) : Nat := x.qcons.toNat % 2 ^ 32

/-- Slot `k` of the packet at the head, as 1,024 bits. -/
def packetSlot (s : State) (x : Queue) (k : Nat) : Nat := s.mem.readNat (slotAddr x (x.head + k)) 128

/-- Header fields (R99). -/
def packetLen (w : Nat) : Nat := bits w 25 24
def packetType (w : Nat) : Nat := bits w 39 32

/-- The queue runs and its whole packet is present. -/
def packetPresent (s : State) (x : Queue) : Bool :=
  x.state == 1 && decide (packetLen (packetSlot s x 0) + 1 ≤ x.fill)

/-- MAGIC, VERSION and the reserved bits hold. -/
def headerOk (w : Nat) : Bool := bits w 15 0 == 0x4C51 && bits w 23 16 == 1 && bits w 31 26 == 0

/-- The queue halts at its packet (R101, R102): 2 MALFORMED, 3 UNKNOWN_TYPE, 5 ADDRFAULT. -/
def haltAt (q code : Nat) (s : State) : State := haltQueue q code (s.queue q).head (dropHead q s)

/-- The packet with header `w` is done: QCONS moves past it (R100). -/
def passPacket (q w : Nat) (s : State) : State :=
  dropHead q (s.onQueue q (fun x => { x with qcons := BitVec.ofNat 64 ((x.head + packetLen w + 1) % 2 ^ 32) }))

/-- The core cycle since which the walk of an address for the packet has met MIG = 1, this one where it first does. -/
def parkedSince (s : State) (x : Queue) (va : Nat) : Nat :=
  match x.parkedAt with
  | some p => if p.1 = va / 4096 then p.2 else s.cycle.toNat
  | none => s.cycle.toNat

/-- The walk of an address for the packet meets MIG = 1, and the queue is held (R138, R302). -/
def parkPacket (q va : Nat) (s : State) : State :=
  s.onQueue q (fun x => { x with parkedAt := some (va / 4096, parkedSince s x va) })

/-- It has met MIG = 1 for 10 ms (R138). -/
def parkedOut (s : State) (x : Queue) (va : Nat) : Bool := decide (parkedSince s x va + 12000000 ≤ s.cycle.toNat)

/-- The islands that the command processor reaches for the packet: its own, and those of the ring's memory (R334). -/
def ringWoken (x : Queue) (s : State) : State := s.wake (ioIslands ++ islandsOf (slotAddr x x.head))

/-- What a step of the command processor does with the packet at a queue's head: a packet that is not there waits, one
that breaks R99 halts its queue, and one of the step's type goes to `f`. -/
def onPacket (type q : Nat) (f : Nat → State → State) (s : State) : State :=
  let x := s.queue q
  let w := packetSlot s x 0
  if !packetPresent s x then s
  else if !headerOk w then haltAt q 2 (ringWoken x s)
  else if packetType w = 0 || 4 < packetType w then haltAt q 3 (ringWoken x s)
  else if packetType w = type then f w (ringWoken x s)
  else s

/-! ## Accesses of the command processor in a context (R302, R327, R334) -/

/-- What an access in a context touches at one address, as a context's access (R327, R334). -/
def touchVa (c : Ctx) (acc : Access) (va : Nat) (s : State) : State :=
  match walk s c va acc with
  | .ok pa _ _ _ _ => (s.wakeWalk c va).touch c acc pa
  | _ => s.wakeWalk c va

/-- What an access of `n` bytes touches, page by page. -/
def touchRange (c : Ctx) (acc : Access) (va n : Nat) (s : State) : State :=
  (pagesOf va n).foldl (fun s p => touchVa c acc (max va p) s) s

/-! ## TYPE 0x02 to 0x04 (R302) -/

/-- The fields of these packets that must be zero. -/
def plainOk (w : Nat) : Bool := bits w 63 40 == 0 && w / 2 ^ 192 == 0 && packetLen w == 0

/-- ADDR and VALUE, with ADDR aligned. -/
def wordPacketOk (w : Nat) : Bool := plainOk w && bits w 127 64 % 8 == 0

/-- A counter wait, with the walk of its address. -/
def counterWait (q w : Nat) (s : State) : State :=
  let va := bits w 127 64
  let c := (s.queue q).ctx
  if !wordPacketOk w then haltAt q 2 s
  else
    match walk s c va .load with
    | .fault _ => haltAt q 5 s
    | .bad => haltAt q 5 s
    | .park => if parkedOut s (s.queue q) va then haltAt q 5 s else parkPacket q va s
    | .ok pa _ _ _ _ =>
      let s := touchVa c .load va s
      if !inMmio pa && eccAt s pa 8 then haltAt q 5 s
      else if bits w 191 128 ≤ (if inMmio pa then mmioLoad pa 8 s else s.loadNat pa 8) then passPacket q w s
      else s.onQueue q (fun x => { x with parkedAt := none })

/-- COUNTER_WAIT. -/
def execCounterWait (queue : Nat) (s : State) : Host.Outcome State Fault Refusal := .next (onPacket 2 queue (counterWait queue) s)

/-- A value write: it waits for every earlier launch of its queue. -/
def valueWrite (q w : Nat) (s : State) : State :=
  let va := bits w 127 64
  let c := (s.queue q).ctx
  if !wordPacketOk w then haltAt q 2 s
  else if s.launches.any (fun l => l.queue == q) then s
  else
    match walk s c va .store with
    | .fault _ => haltAt q 5 s
    | .bad => haltAt q 5 s
    | .park => if parkedOut s (s.queue q) va then haltAt q 5 s else parkPacket q va s
    | .ok pa _ _ _ _ =>
      let s := touchVa c .store va s
      passPacket q w (if inMmio pa then mmioStore pa 8 (bits w 191 128) s else s.storeNat c pa 8 (bits w 191 128))

/-- VALUE_WRITE. -/
def execValueWrite (queue : Nat) (s : State) : Host.Outcome State Fault Refusal := .next (onPacket 3 queue (valueWrite queue) s)

/-- A no-op: ADDR and VALUE are no fields of it. -/
def noOpPacket (q w : Nat) (s : State) : State := if plainOk w then passPacket q w s else haltAt q 2 s

/-- NO_OP. -/
def execNoOp (queue : Nat) (s : State) : Host.Outcome State Fault Refusal := .next (onPacket 4 queue (noOpPacket queue) s)

/-! ## The launch packet's fields (R303) -/

def lpKobj (w : Nat) : Nat := bits w 127 64
def lpArg (w : Nat) : Nat := bits w 191 128
def lpArgLen (w : Nat) : Nat := bits w 223 192
def lpNthr (w : Nat) : Nat := bits w 255 224
def lpDeadline (w : Nat) : Word := BitVec.ofNat 64 (bits w 319 256)
def lpPrivb (w : Nat) : Nat := bits w 339 320
def lpStride (w : Nat) : Nat := bits w 383 352
def lpTask (w : Nat) : Nat := bits w 447 384
def lpPlace (w : Nat) : Nat := bits w 511 448
def lpStat (w : Nat) : Nat := bits w 575 512

/-- The ranges, alignments and reserved fields of a launch packet. -/
def launchOk (w : Nat) : Bool :=
  bits w 63 40 == 0 && bits w 351 340 == 0 && w / 2 ^ 576 == 0 && decide (1 ≤ lpNthr w) && decide (lpNthr w ≤ 2 ^ 31) &&
    decide (lpArgLen w ≤ 1048576) && decide (64 ≤ lpPrivb w) && decide (lpPrivb w ≤ 163840) && lpPrivb w % 64 == 0 &&
    lpStride w % 8 == 0 && lpKobj w % 64 == 0 && lpArg w % 16 == 0 && lpStat w % 8 == 0 && lpTask w % 8 == 0 &&
    lpPlace w % 4 == 0 && (packetLen w == 0 || decide (128 * packetLen w ≤ lpArgLen w))

/-! ## Dispatch order (R306) -/

/-- The queue's head holds a launch packet that is ready, in a tier that may start one. -/
def launchReady (s : State) (q : Nat) : Bool :=
  let x := s.queue q
  packetPresent s x && packetType (packetSlot s x 0) == 1 && tierWeight s.tierw x.tier != 0

/-- The charge of a tier on the package. -/
def State.charge (s : State) (t : Nat) : Nat := if h : t < 8 then s.charges[t] else 0

/-- Queue `a`'s packet comes before queue `b`'s. -/
def launchBefore (s : State) (a b : Nat) : Bool :=
  let x := s.queue a
  let y := s.queue b
  let ra := s.charge x.tier * tierWeight s.tierw y.tier
  let rb := s.charge y.tier * tierWeight s.tierw x.tier
  let da := lpDeadline (packetSlot s x 0)
  let db := lpDeadline (packetSlot s y 0)
  if ra ≠ rb then decide (ra < rb)
  else if x.tier ≠ y.tier then decide (y.tier < x.tier)
  else if x.prio ≠ y.prio then decide (y.prio < x.prio)
  else if da ≠ db then (if da = 0 then false else if db = 0 then true else decide (da.toNat < db.toNat))
  else if a ≠ b then decide (a < b)
  else decide (x.bellAt < y.bellAt)

/-- No ready launch comes before queue `q`'s. -/
def firstLaunch (s : State) (q : Nat) : Bool :=
  (List.range 1024).all (fun a => a == q || !launchReady s a || !launchBefore s a q)

/-! ## Reading for a launch (R305): an error is the refusal's code, or the address whose walk has to wait -/

/-- The result of a part of a launch. -/
abbrev Lp (α : Type) := Except (Nat ⊕ Nat) α

/-- The first page of a range of a context that meets MIG = 1. -/
def rangeParks (s : State) (c : Ctx) (va n : Nat) (acc : Access) : Option Nat := (pagesOf va n).find? (fun p => walk s c p acc == .park)

/-- BADREAD, or a wait for a walk that has not met MIG = 1 for 10 ms yet. -/
def badRead {α : Type} (q : Nat) (c : Ctx) (va n : Nat) (acc : Access) (s : State) : Lp α :=
  match rangeParks s c va n acc with
  | some p => if parkedOut s (s.queue q) p then .error (.inl 12) else .error (.inr p)
  | none => .error (.inl 12)

/-- `n` bytes read in the context. -/
def lpRead (q : Nat) (c : Ctx) (va n : Nat) (s : State) : Lp Nat :=
  match ctxLoadBytes s c va n with
  | some bs => .ok (ofBytesLE bs)
  | none => badRead q c va n .load s

/-- A check with its code. -/
def refuseIf (b : Bool) (code : Nat) : Lp Unit := if b then .error (.inl code) else .ok ()

/-! ## The kernel object (R31, R32, R34) -/

def koGregs (h : Nat) : Nat := bits h 47 40
def koVregs (h : Nat) : Nat := bits h 52 48
def koCkptus (h : Nat) : Nat := bits h 63 56
def koEntry (h : Nat) : Nat := bits h 95 64
def koNshape (h : Nat) : Nat := bits h 111 96
def koRouttab (h : Nat) : Nat := bits h 191 128
def koLrtab (h : Nat) : Nat := bits h 255 192
def koShapetab (h : Nat) : Nat := bits h 319 256
def koVartab (h : Nat) : Nat := bits h 383 320

/-- MAGIC, VERSION, the reserved fields and the order of the offsets. -/
def objectOk (h : Nat) : Bool :=
  bits h 31 0 == 0x4B584548 && bits h 39 32 == 1 && bits h 55 53 == 0 && bits h 127 112 == 0 && bits h 511 384 == 0 &&
    decide (koEntry h < koRouttab h) && decide (koRouttab h ≤ koLrtab h) && decide (koLrtab h ≤ koShapetab h)

/-- The header's checks in the order of R32; `sh` is the shape table. -/
def headerChecks (h sh : Nat) : Lp Unit := do
  refuseIf (!objectOk h) 2
  refuseIf (koGregs h == 0 || decide (57 ≤ koGregs h)) 3
  refuseIf (decide (16 < koVregs h)) 4
  refuseIf (koCkptus h == 0 || decide (100 < koCkptus h)) 5
  refuseIf (koEntry h % 4 != 0) 6
  refuseIf (decide (256 < koNshape h) || !(List.range (koNshape h)).all (fun i => (readShape (sh / 2 ^ (1024 * i) % 2 ^ 1024)).isSome)) 7

/-- Whether one of the `n` entries from `va` on holds the signature, before the entry that ends the table; each is read
as it is reached. -/
def variantIn (q : Nat) (c : Ctx) (sig : Nat) (s : State) : Nat → Nat → Lp Bool
  | 0, _ => .ok false
  | n + 1, va => do
    let x ← lpRead q c va 8 s
    if x = 0 then return false else if x = sig then return true else variantIn q c sig s n (va + 16)

/-- The entries that the search reads, as far as they can be read: `n` at most. -/
def variantReads (c : Ctx) (sig : Nat) (s : State) : Nat → Nat → List Nat
  | 0, _ => []
  | n + 1, va =>
    match ctxLoad s c va with
    | some x => va :: (if x = 0 ∨ x = sig then [] else variantReads c sig s n (va + 16))
    | none => []

/-- NO_VARIANT: no entry of the object's variants matches DEFSIG (R34, R331). -/
def variantCheck (q : Nat) (c : Ctx) (w h : Nat) (s : State) : Lp Unit := do
  if koVartab h = 0 then return ()
  else
    let found ← variantIn q c s.boot.defsig.toNat s 8 (lpKobj w + koVartab h)
    refuseIf (!found) 9

/-! ## Inline arguments (R303) -/

/-- The inline argument bytes of a packet. -/
def inlineBytes (s : State) (x : Queue) : List Byte :=
  (List.range (packetLen (packetSlot s x 0))).flatMap (fun k => s.mem.readBytes (slotAddr x (x.head + k + 1)) 128)

/-- ARG to ARG + ARGLEN is readable in the context, else BADREAD (R305, assumption 51). -/
def argCheck (q : Nat) (c : Ctx) (w : Nat) (s : State) : Lp Unit :=
  if (pagesOf (lpArg w) (lpArgLen w)).all (fun p => (physOf s c p .load).isSome) then .ok ()
  else badRead q c (lpArg w) (lpArgLen w) .load s

/-- The argument stores checked: BADREAD where one would fault. -/
def inlineCheck (q : Nat) (c : Ctx) (w n : Nat) (s : State) : Lp Unit :=
  if (List.range n).all (fun k => (physOf s c (lpArg w + k) .store).isSome) then .ok ()
  else badRead q c (lpArg w) n .store s

/-! ## Placement (R304, R331) -/

/-- The placement entry of thread `t`: 0 where there is no list. -/
def placeEntry (q : Nat) (c : Ctx) (w t : Nat) (s : State) : Lp Nat :=
  if lpPlace w = 0 then .ok 0 else lpRead q c (lpPlace w + 4 * t) 4 s

/-- Reserved bits set, or a quire that is none. -/
def placeBad (e : Nat) : Bool := bits e 31 16 != 0 || decide (384 ≤ bits e 8 0)

/-- Every entry that can be read is valid, else BADPLACE; then every entry and task record can be read. -/
def placeChecks (q : Nat) (c : Ctx) (w : Nat) (s : State) : Lp Unit := do
  let ts := List.range (lpNthr w)
  refuseIf (ts.any (fun t => match placeEntry q c w t s with | .ok e => placeBad e | .error _ => false)) 10
  ts.forM (fun t => do
    let _ ← placeEntry q c w t s
    if lpPlace w = 0 ∧ lpTask w ≠ 0 then
      let _ ← lpRead q c (lpTask w + t * lpStride w) 8 s
      return ()
    else return ())

/-- Thread `t`'s home, and its pinned core and slot. -/
def homeOf (q : Nat) (c : Ctx) (w t : Nat) (s : State) : Lp (Nat × Option (Nat × Nat)) := do
  if lpPlace w ≠ 0 then
    let e ← placeEntry q c w t s
    if bitOf e 15 then return (bits e 8 0, some (bits e 11 9, bits e 14 12)) else return (enabledFrom s (bits e 8 0), none)
  else if lpTask w ≠ 0 then
    let a ← lpRead q c (lpTask w + t * lpStride w) 8 s
    return (homeOfVa s c a (t % 384), none)
  else return (enabledFrom s (t % 384), none)

/-! ## Creating the threads (R35, R37, R321, R452) -/

/-- Thread `t` as it starts. -/
def launchedThread (l : Launch) (w h t home core pool region copy : Nat) (pin : Option (Nat × Nat)) : Thread :=
  let k := lpKobj w
  let u := { baseThread l t home core pool region copy with
    slot := (pin.map (·.2)).getD 0
    pin := pin
    pc := BitVec.ofNat 64 (k + koEntry h)
    fetchCap := boundedCap (k + koEntry h) k (koRouttab h) 0x005
    routbase := boundedCap (k + koRouttab h) (k + koRouttab h) (koLrtab h - koRouttab h) 0x001
    lrtbase := boundedCap (k + koLrtab h) (k + koLrtab h) (koShapetab h - koLrtab h) 0x001 }
  startRegs u [(1, boundedCap (lpArg w) (lpArg w) (lpArgLen w) 0x009), (2, privCap region l.privb), (3, u.shapebase),
    (4, Reg.ofData (BitVec.ofNat 64 t)), (5, Reg.ofData (BitVec.ofNat 64 (lpNthr w)))]

/-- One thread created. -/
def createThread (q : Nat) (c : Ctx) (w h num : Nat) (sh : List Byte) (t : Nat) (s : State) : Lp State := do
  let (home, pin) ← homeOf q c w t s
  refuseIf (pin.isSome && s.boot.disabled.contains home) 11
  match reserveCopies num home sh s with
  | none => .error (.inl 11)
  | some s1 =>
    match s1.launches.find? (·.num == num), freeEntry (s1.ctx c) with
    | some l, some i =>
      match findRegion s1 l home (pin.map (·.1)) with
      | none => .error (.inl 11)
      | some (core, region) =>
        let u := launchedThread l w h t home core i region ((copyIn l home core).getD 0) pin
        match (poolPages s1 u).find? (fun x => x.2 == .park), poolFault s1 u with
        | some x, _ => if parkedOut s (s.queue q) x.1 then .error (.inl 12) else .error (.inr x.1)
        | none, some _ => .error (.inl 12)
        | none, none =>
          match addCont u (takeEntry c i (takeRegion num region l.privb s1)) with
          | some s2 => return s2
          | none => .error (.inl 12)
    | _, _ => .error (.inl 11)

/-- The threads from number `t` on. -/
def createThreads (q : Nat) (c : Ctx) (w h num : Nat) (sh : List Byte) : Nat → Nat → State → Lp State
  | 0, _, s => .ok s
  | n + 1, t, s => do
    let s1 ← createThread q c w h num sh t s
    createThreads q c w h num sh n (t + 1) s1

/-- The launch as it is taken. -/
def newLaunch (q w h : Nat) (s : State) : Launch :=
  let x := s.queue q
  { num := s.nextLaunch, ctx := x.ctx, queue := q, tier := x.tier, queuePrio := x.prio, stat := lpStat w, statParked := none,
    rounded := koGregs h % 8 != 0, late := false, deadline := lpDeadline w, live := lpNthr w, nextTid := lpNthr w, faults := 0,
    privb := lpPrivb w, nshape := koNshape h, vregs := koVregs h, gran := (koGregs h + 7) / 8, kobj := lpKobj w,
    ckptus := koCkptus h, started := false, regions := [], copies := [] }

/-- The state with a launch entered, and its huddle 0 (R20). -/
def enterLaunch (l : Launch) (s : State) : State :=
  { s with
    launches := s.launches ++ [l]
    nextLaunch := s.nextLaunch + 1
    huddles := s.huddles ++ [⟨l.num, 0, List.range l.live, 0, [], false, 0⟩] }

/-- A launch examined and made, in the order of R305: the state with its threads, or the refusal. -/
def makeLaunch (q w : Nat) (s : State) : Lp State := do
  let x := s.queue q
  let c := x.ctx
  refuseIf (!(s.ctx c).enable) 8
  let h ← lpRead q c (lpKobj w) 64 s
  let shn := 128 * min (koNshape h) 256
  let sh ← lpRead q c (lpKobj w + koShapetab h) shn s
  headerChecks h sh
  variantCheck q c w h s
  argCheck q c w s
  inlineCheck q c w (128 * packetLen w) s
  refuseIf (decide (freeEntries (s.ctx c) < lpNthr w) || decide (163840 < lpPrivb w + 128 * koNshape h)) 11
  placeChecks q c w s
  let l := newLaunch q w h s
  let s1 := enterLaunch l s
  let s2 ← createThreads q c w h l.num (toBytesLE shn sh) (lpNthr w) 0 s1
  match ctxStoreBytes c (lpArg w) (inlineBytes s x) s2 with
  | some s3 => return s3
  | none => .error (.inl 12)

/-- The reads of a launch that is examined, as far as its checks go: the object's header, its shape table, its variants, then
the placement list and the task records (R305). -/
def launchReads (c : Ctx) (w : Nat) (s : State) : List (Nat × Nat) :=
  if !(s.ctx c).enable then []
  else
    match ctxLoadBytes s c (lpKobj w) 64 with
    | none => []
    | some hs =>
      let h := ofBytesLE hs
      let shn := 128 * min (koNshape h) 256
      (lpKobj w, 64) :: (match ctxLoadBytes s c (lpKobj w + koShapetab h) shn with
        | none => []
        | some sh =>
          (lpKobj w + koShapetab h, shn) ::
            (match headerChecks h (ofBytesLE sh) with
             | .error _ => []
             | .ok _ =>
               (if koVartab h = 0 then [] else (variantReads c s.boot.defsig.toNat s 8 (lpKobj w + koVartab h)).map (·, 8)) ++
                 (if lpPlace w = 0 then [] else [(lpPlace w, 4 * lpNthr w)]) ++
                 (if lpPlace w = 0 ∧ lpTask w ≠ 0 then (List.range (lpNthr w)).map (fun t => (lpTask w + t * lpStride w, 8)) else [])))

/-- What a launch that is examined touches in its context: its reads, and the stores of inline arguments (R303, R327). -/
def launchTouched (q w : Nat) (s : State) : State :=
  let c := (s.queue q).ctx
  let s1 := (launchReads c w s).foldl (fun s x => touchRange c .load x.1 x.2 s) s
  match makeLaunch q w s with
  | .ok _ => touchRange c .store (lpArg w) (128 * packetLen w) s1
  | .error _ => s1

/-! ## The status word (R305, R329) -/

/-- The launch status word stored, and the queue's interrupt signalled; a store that faults leaves the word
unwritten. -/
def writeStatus (q : Nat) (c : Ctx) (stat word : Nat) (s : State) : State :=
  if stat = 0 then s
  else signalQueue q ((ctxStoreWords c [(stat, word)] (touchVa c .store stat s)).getD (touchVa c .store stat s))

/-- The store of the status word meets MIG = 1. -/
def statusParks (c : Ctx) (stat : Nat) (s : State) : Bool := stat != 0 && walk s c stat .store == .park

/-- A refusal: no thread, the status word, and the queue goes on. -/
def refuseLaunch (q w code : Nat) (s : State) : State :=
  if statusParks (s.queue q).ctx (lpStat w) s && !parkedOut s (s.queue q) (lpStat w) then parkPacket q (lpStat w) s
  else passPacket q w (writeStatus q (s.queue q).ctx (lpStat w) code s)

/-- The command processor works on the queue's launch, or can take it: it has none, and this one is first (R306). -/
def mayTake (s : State) (q : Nat) : Bool := s.taken == some q || (s.taken.isNone && launchReady s q && firstLaunch s q)

/-- A launch packet taken, and held until its continuations are made or it is refused; at most 4,096 huddles exist at
once (R20). -/
def takeLaunch (q w : Nat) (s : State) : State :=
  if !launchOk w then haltAt q 2 s
  else if !mayTake s q || decide (4096 ≤ s.huddles.length) then s
  else
    let s := launchTouched q w s
    match makeLaunch q w s with
    | .ok s1 => passPacket q w s1
    | .error (.inr va) => parkPacket q va { s with taken := some q }
    | .error (.inl code) => refuseLaunch q w code { s with taken := some q }

/-- LAUNCH_PACKET. -/
def execLaunchPacket (queue : Nat) (s : State) : Host.Outcome State Fault Refusal := .next (onPacket 1 queue (takeLaunch queue) s)

/-- The status word of an accepted launch. -/
def launchWord (l : Launch) : Nat := b2n (decide (0 < l.faults)) + b2n l.rounded * 2 ^ 8 + b2n l.late * 2 ^ 9 + l.faults % 2 ^ 32 * 2 ^ 32

/-- Every thread of a launch has exited or faulted, and every job they pushed has ended. -/
def launchOver (s : State) (l : Launch) : Bool := l.live == 0 && !s.jobs.any (fun j => j.launch == l.num && j.stage != .ended)

/-- A launch that is over: its faulted continuations' entries, its huddles and its space are free (R20, R37, R321). -/
def endLaunch (l : Launch) (s : State) : State :=
  let mine := s.conts.filter (fun t => t.launch == l.num)
  let s1 := mine.foldl (fun s t => dropEntry t.ctx t.pool s) s
  { s1 with
    conts := s1.conts.filter (fun t => t.launch != l.num)
    launches := s1.launches.filter (fun x => x.num != l.num)
    huddles := s1.huddles.filter (fun h => h.launch != l.num) }

/-- LAUNCH_STATUS_WRITE. -/
def execLaunchStatusWrite (launch : Nat) (s : State) : Host.Outcome State Fault Refusal :=
  match s.launches.find? (·.num == launch) with
  | none => .next s
  | some l =>
    let since := l.statParked.getD s.cycle.toNat
    if !launchOver s l then .next s
    else if statusParks l.ctx l.stat s && decide (s.cycle.toNat < since + 12000000) then
      .next (s.onLaunch l.num (fun l => { l with statParked := some since }))
    else .next (endLaunch l (writeStatus l.queue l.ctx l.stat (launchWord l) s))

end Sys2Proof.Machine
end

