-- ==== Sys2Proof/Machine/Referee.lean ====
section
/-!
DEFINITION. The Referee and the collective engines' kickoff numbers (R269 to R275, R283): registration, START,
cancellation, closing, replication and failover.
-/
namespace Sys2Proof.Machine

/-! ## Serial numbers (R270) -/

/-- Number `a` precedes number `b`. -/
def serialBefore (a b : Nat) : Bool :=
  let d := (b + 2 ^ 32 - a % 2 ^ 32) % 2 ^ 32
  decide (1 ≤ d) && decide (d ≤ 2 ^ 31 - 1)

/-- The number after `last`. -/
def nextNumber (last : Nat) : Nat := (last + 1) % 2 ^ 32

/-- A new number may be assigned: at most 65,536 are open, and it lies within the replicated range (R270, R275). -/
def canAssign (r : Referee) : Bool :=
  decide (r.opens.length < 65536) && decide ((nextNumber r.last + 2 ^ 32 - r.acked % 2 ^ 32) % 2 ^ 32 ≤ 2 ^ 16 - 1)

/-! ## The engines' side (R269, R271) -/

/-- A number sent to an engine of the package. -/
def tellEngine (commid key num : Nat) (die : Nat) (s : State) : State :=
  if s.engineNums.any (fun e => e.die == die && e.num == num) then s
  else { s with engineNums := s.engineNums ++ [⟨die, num, commid, key, false, false⟩] }

/-- A collective job of a die that waits with a pair. -/
def pairJob (die commid key : Nat) (j : Job) : Bool :=
  j.cls == 3 && j.unit == die && j.stage == .registered && j.number.isNone && j.group.commid == commid && collKey j == key

/-- The oldest job of a die that has registered a pair and has no number yet. -/
def waitingJob (s : State) (die commid key : Nat) : Option Job := s.jobs.reverse.find? (pairJob die commid key)

/-- The number of a pair reaches the job that registered it. -/
def bindNumber (die commid key num : Nat) (s : State) : State :=
  match waitingJob s die commid key with
  | none => s
  | some j => s.onJob j.id (fun k => { k with number := some num })

/-- A job that ends CANCELLED: nothing is written (R273). -/
def cancelJob (j : Job) : Job :=
  { j with stage := .running, status := 4, record := collRecord j 4 0 0xFFFF 0 0 0 0 0 0 0 }

/-- The job of a die with a number that has not started. -/
def numberJob (die num : Nat) (j : Job) : Bool :=
  j.cls == 3 && j.unit == die && j.stage == .registered && j.number == some num

/-- A cancelled number at an engine: its registered job ends, and the number is skipped. -/
def cancelAt (num : Nat) (die : Nat) (s : State) : State :=
  { s with engineNums := s.engineNums.map (fun e => if e.die == die && e.num == num then { e with cancelled := true } else e)
           jobs := s.jobs.map (fun j => if numberJob die num j then cancelJob j else j) }

/-- START at an engine. -/
def startAt (num : Nat) (die : Nat) (s : State) : State :=
  { s with engineNums := s.engineNums.map (fun e => if e.die == die && e.num == num then { e with started := true } else e) }

/-- The dies of this package. -/
def dies : List Nat := [0, 1, 2, 3]

/-- The dies of this package in a member table. -/
def ownDies (s : State) (ms : List Member) : List Nat :=
  (ms.filter (fun m => m.pkg == s.pkgid)).map (·.die.toNat)

/-- `f` for each of several dies. -/
def onDies (f : Nat → State → State) (ds : List Nat) (s : State) : State := ds.foldl (fun s d => f d s) s

/-! ## The Referee's table -/

/-- The open number of a pair. -/
def Referee.ofPair (r : Referee) (commid key : BitVec 32) : Option Kickoff := r.opens.find? (fun k => k.commid == commid && k.key == key)

/-- An open number. -/
def Referee.ofNum (r : Referee) (num : BitVec 32) : Option Kickoff := r.opens.find? (fun k => k.num == num)

/-- A number changed. -/
def onKickoff (num : BitVec 32) (f : Kickoff → Kickoff) (s : State) : State :=
  { s with referee := { s.referee with opens := s.referee.opens.map (fun k => if k.num == num then f k else k) } }

/-- A number closed: its pair may be registered again (R269). -/
def closeNumber (num : BitVec 32) (s : State) : State :=
  { s with referee := { s.referee with opens := s.referee.opens.filter (fun k => k.num != num) }
           engineNums := s.engineNums.filter (fun e => !(e.num == num.toNat && e.cancelled)) }

/-- The earliest nonzero deadline (R273). -/
def earliest (a b : Word) : Word := if a = 0 then b else if b = 0 then a else if b.toNat < a.toNat then b else a

/-- Every member of a number has registered it. -/
def Kickoff.full (k : Kickoff) : Bool := k.members.all (fun m => k.registered.contains m)

/-- A registration entered. -/
def Kickoff.enter (k : Kickoff) (who : Member) (deadline : Word) : Kickoff :=
  { k with registered := if k.registered.contains who then k.registered else k.registered ++ [who]
           deadline := earliest k.deadline deadline }

/-! ## REGISTRATION (R269, R270, R273) -/

/-- A registration that a member of this package makes needs its job; one of another package arrives. -/
def registers (commid key : BitVec 32) (members : List Member) (who : Member) (deadline : Word) (s : State) : Bool :=
  if who.pkg == s.pkgid then
    (waitingJob s who.die.toNat commid.toNat key.toNat).any (fun j => j.group.members == members && j.deadline == deadline)
  else true

/-- A new number for a pair, sent to every engine of its member table. -/
def assign (commid key : BitVec 32) (members : List Member) (s : State) : State :=
  let n := nextNumber s.referee.last
  let k : Kickoff := ⟨BitVec.ofNat 32 n, commid, key, members, [], [], 0, false, none⟩
  onDies (tellEngine commid.toNat key.toNat n) (ownDies s members)
    { s with referee := { s.referee with last := n, opens := s.referee.opens ++ [k] } }

/-- A number cancelled: the registered jobs end, and the number is skipped. -/
def cancelNumber (k : Kickoff) (s : State) : State :=
  onDies (cancelAt k.num.toNat) (dies.filter (fun d => s.engineNums.any (fun e => e.die == d && e.num == k.num.toNat)))
    (onKickoff k.num (fun x => { x with cancelled := some s.cycle.toNat }) s)

/-- The deadline of a number that is neither started nor cancelled has passed (R273). -/
def Kickoff.expired (k : Kickoff) (now : Nat) : Bool :=
  !k.started && k.cancelled.isNone && k.deadline != 0 && decide (k.deadline.toNat < now)

/-- A number whose deadline has passed is cancelled, whatever would start it now. -/
def expireNumber (num : BitVec 32) (s : State) : State :=
  match s.referee.ofNum num with
  | some k => if k.expired s.now then cancelNumber k s else s
  | none => s

/-- The Referee's answer to a registration: the number for the job, and START or the cancellation. A further registration
of a pair by one member receives the same number (R269). -/
def answer (num : BitVec 32) (who : Member) (s : State) : State :=
  match s.referee.ofNum num with
  | none => s
  | some k =>
    let die := who.die.toNat
    let s1 := if who.pkg == s.pkgid then
        bindNumber die k.commid.toNat k.key.toNat num.toNat (tellEngine k.commid.toNat k.key.toNat num.toNat die s)
      else s
    if k.cancelled.isSome then
      let s2 := if who.pkg == s.pkgid then cancelAt num.toNat die s1 else s1
      if k.full then closeNumber num s2 else s2
    else if k.started then (if who.pkg == s.pkgid then startAt num.toNat die s1 else s1)
    else if k.full then
      onDies (startAt num.toNat) (ownDies s1 k.members) (onKickoff num (fun x => { x with started := true }) s1)
    else s1

/-- REGISTRATION: it waits where no further number may be opened. -/
def execRegistration (commid key : BitVec 32) (members : List Member) (who : Member) (deadline : Word) (s : State) :
    Host.Outcome State Fault Refusal :=
  if s.referee.role != .primary || !registers commid key members who deadline s then .next s
  else
    match s.referee.ofPair commid key with
    | some k => .next (answer k.num who (expireNumber k.num (onKickoff k.num (·.enter who deadline) s)))
    | none =>
      if !canAssign s.referee then .next s
      else
        let num := BitVec.ofNat 32 (nextNumber s.referee.last)
        .next (answer num who (expireNumber num (onKickoff num (·.enter who deadline) (assign commid key members s))))

/-! ## START (R271, R283) -/

/-- The lowest number of a die that is neither over nor skipped. -/
def lowestNumber (s : State) (die : Nat) : Option EngineNumber :=
  let l := s.engineNums.filter (fun e => e.die == die && !e.cancelled)
  l.find? (fun e => l.all (fun x => !serialBefore x.num e.num))

/-- A die's engine runs a collective. -/
def engineBusy (s : State) (die : Nat) : Bool :=
  s.jobs.any (fun j => j.cls == 3 && j.unit == die && j.number.isSome && (j.stage == .started || j.stage == .running) &&
    j.status % 256 != 4)

/-- The job that a die's engine may start now. -/
def startableJob (s : State) (die : Nat) : Option (Job × Nat) :=
  match lowestNumber s die with
  | none => none
  | some e =>
    if !e.started || engineBusy s die then none
    else (s.jobs.find? (numberJob die e.num)).map (fun j => (j, e.num))

/-- START: the engine of a die starts the collective that R271 allows, not before its T. -/
def execStart (die : Nat) (s : State) : Host.Outcome State Fault Refusal :=
  match startableJob s die with
  | none => .next s
  | some (j, num) =>
    if (collAt j).any (fun t => decide (s.now < t)) then .next s
    else
      match collContribute j j.group num s with
      | .error h => .next (haltJob j h s).chunksDone
      | .ok (c, s1) =>
        let late := (collAt j).any (fun t => decide (t < s.now))
        let s2 := s1.onJob j.id (fun k => { k.walked with stage := .started, status := collMarks late false })
        .next (showContribution c s2).chunksDone

/-! ## BLOCK_FINAL (R281) -/

/-- Source `r` of a job fills a block that is not final yet. -/
def blockReady (j : Job) (r : Nat) : Bool :=
  j.stage == .running && openBlocks j && decide (r < j.group.members.length) && (collOp j != 3 || r == collRoot j) &&
    !j.entered.contains (blockOf j r)

/-- BLOCK_FINAL. -/
def execBlockFinal (job source : Nat) (s : State) : Host.Outcome State Fault Refusal :=
  let s1 := settleColl job s
  match s1.jobOf job with
  | none => .next s
  | some j => if blockReady j source then .next (finishBlock j source s1).chunksDone else .next s1.chunksDone

/-! ## Closing and cancelling (R269, R273, R274) -/

/-- NUMBER_CLOSE: every member has reported the number terminal. -/
def execNumberClose (num : BitVec 32) (s : State) : Host.Outcome State Fault Refusal :=
  match s.referee.ofNum num with
  | none => .next s
  | some k =>
    if s.referee.role == .primary && k.started && k.members.all (fun m => k.reported.contains m) then .next (closeNumber num s)
    else .next s

/-- DEADLINE_CANCEL. -/
def execDeadlineCancel (num : BitVec 32) (s : State) : Host.Outcome State Fault Refusal :=
  match s.referee.ofNum num with
  | none => .next s
  | some k =>
    if s.referee.role == .primary && k.expired s.now then .next (cancelNumber k s) else .next s

/-- 1 s in core cycles. -/
def oneSecond : Nat := 1200000000

/-- CANCEL_CLOSE. -/
def execCancelClose (num : BitVec 32) (s : State) : Host.Outcome State Fault Refusal :=
  match s.referee.ofNum num with
  | none => .next s
  | some k =>
    if s.referee.role == .primary && k.cancelled.any (fun c => decide (c + oneSecond ≤ s.cycle.toNat)) then .next (closeNumber num s)
    else .next s

/-- COLLCANST's answer for a pair: the package that wrote COLLCAN holds it pending. -/
def reportCancel (commid key : BitVec 32) (result : Nat) (s : State) : State :=
  if s.collcanst = 3 ∧ s.collcan.toNat = commid.toNat + key.toNat * 2 ^ 32 then { s with collcanst := BitVec.ofNat 64 result } else s

/-- OWNER_CANCEL. -/
def execOwnerCancel (commid key : BitVec 32) (s : State) : Host.Outcome State Fault Refusal :=
  if s.referee.role != .primary then .next s
  else
    match s.referee.ofPair commid key with
    | none => .next (reportCancel commid key 2 s)
    | some k =>
      if k.started then .next (reportCancel commid key 1 s)
      else if k.cancelled.isSome then .next (reportCancel commid key 0 s)
      else .next (reportCancel commid key 0 (cancelNumber k s))

/-! ## Replication and failover (R275) -/

/-- HW_REPLICATION: the high-water mark and the open numbers reach the standby, which acknowledges. -/
def execHwReplication (s : State) : Host.Outcome State Fault Refusal :=
  if s.referee.role != .primary then .next s
  else .next { s with referee := { s.referee with hw := s.referee.last, acked := s.referee.last } }

/-- A number lies in the gap after HW. -/
def inGap (hw num : Nat) : Bool := serialBefore hw num && decide ((num + 2 ^ 32 - hw % 2 ^ 32) % 2 ^ 32 < 2 ^ 16)

/-- Some engine holds START for a number. -/
def startHeld (s : State) (num : Nat) : Bool :=
  s.referee.held.any (fun k => k.num.toNat == num) || s.engineNums.any (fun e => e.num == num && e.started)

/-- A number that an engine of this package holds, as a started one of the Referee's table. -/
def engineKickoff (s : State) (e : EngineNumber) : Kickoff :=
  let ms := ((s.jobs.find? (fun j => j.cls == 3 && j.number == some e.num)).map (fun j => j.group.members)).getD []
  ⟨BitVec.ofNat 32 e.num, BitVec.ofNat 32 e.commid, BitVec.ofNat 32 e.key, ms, ms, [], 0, true, none⟩

/-- A list of numbers with another one, where it is not in it. -/
def addKickoff (l : List Kickoff) (k : Kickoff) : List Kickoff := if l.any (·.num == k.num) then l else l ++ [k]

/-- The numbers of the gap that run to completion: some engine of the pod holds START for each. -/
def gapNumbers (hw : Nat) (s : State) : List Kickoff :=
  let own := (s.engineNums.filter (fun (e : EngineNumber) => e.started)).map (engineKickoff s)
  let others := s.referee.held.map (fun (k : Kickoff) => { k with started := true, cancelled := none })
  ((own ++ others).filter (fun (k : Kickoff) => inGap hw k.num.toNat)).foldl addKickoff []

/-- The engines' numbers of the gap that no engine holds START for are cancelled. -/
def cancelGap (hw : Nat) (s : State) : State :=
  (s.engineNums.filter (fun e => inGap hw e.num && !startHeld s e.num)).foldl (fun s e => cancelAt e.num e.die s) s

/-- START for every number that runs on, at the engines of this package that have been sent it. -/
def restart (ks : List Kickoff) (s : State) : State :=
  { s with engineNums := s.engineNums.map (fun e => if ks.any (fun k => k.started && k.num.toNat == e.num) then { e with started := true } else e) }

/-- FAILOVER: the standby takes over after 1 ms of silence. -/
def execFailover (s : State) : Host.Outcome State Fault Refusal :=
  let r := s.referee
  if r.role != .standby || decide (s.cycle.toNat < r.heard + oneMs) then .next s
  else
    let kept := r.replica.map (fun k => if startHeld s k.num.toNat then { k with started := true } else k)
    let opens := kept ++ gapNumbers r.hw s
    let last := (r.hw + 2 ^ 16 - 1) % 2 ^ 32
    let s1 := restart opens (cancelGap r.hw s)
    .next { s1 with referee := { r with role := .primary, last := last, hw := last, acked := last, replica := [], held := [],
                                        opens := opens } }

end Sys2Proof.Machine
end

