-- ==== Sys2Proof/Machine/Save.lean ====
section
/-!
DEFINITION. Writing continuations back (R12, R318, R319, R322, R253) and the live-range table (R317).
-/
namespace Sys2Proof.Machine

/-- The slot's interface has a free forwarding entry (R253). -/
def forwardRoom (s : State) (t : Thread) : Bool :=
  t.replies == 0 || decide ((s.forwards.filter (fun f => f.quire == t.quire && f.core == t.core)).length < 256)

/-- The forwarding entry of a write-back with replies outstanding (R253). -/
def addForward (t : Thread) (s : State) : State :=
  if t.replies = 0 then s
  else { s with forwards := s.forwards ++ [⟨t.quire, t.core, t.slot, t.serial, t.launch, t.tid⟩] }

/-- What a forced save abandons of an instruction that has taken its operand: the wait of CBADV or TLBI (R322, R347). -/
def Thread.abandons (t : Thread) : Option Stall :=
  match t.stall with
  | some (.cbadv p n w k) => some (.cbadv p n w k)
  | some (.tlbi v) => some (.tlbi v)
  | _ => t.abandoned

/-- What a saved thread keeps outside its record and frame. -/
def Thread.parked (t : Thread) (now : Nat) : Thread :=
  { t with dirty := 0, preempt := none, phase := none, readyAt := now, turn := none, parkedAt := none, trapMark := false
           abandoned := t.abandons
           stall := match t.stall with
             | some .exit => some .exit
             | _ => none }

/-- A thread whose write-back faults becomes faulted with that cause, and its gang breaks (R29, R312, R320, R321). -/
def saveFaulted (c : Cause) (v : Word) (s : State) : State :=
  becomeFaulted s.th.pc (((breakAround s.th s).up (trapRegs s.cycle.toNat c false v s.th.pc)).setStat s.th.ctx 17)

/-- The thread in focus written back as `t`, and its slot free (R12): the general registers that DIRTY marks
and everything else of the frame. Nothing where the write-back has to keep the slot: a parked walk, or no
forwarding entry. -/
def writeBack (t : Thread) (s : State) : Option State :=
  if !forwardRoom s t then none
  else
    match poolFault s t, poolPark s t with
    | some (c, v), _ => some (saveFaulted c v s)
    | none, some _ => none
    | none, none =>
      match storeFrame t (fun n => t.dirty.getLsbD n) s with
      | none => some (saveFaulted .pageFault 0 s)
      | some s1 =>
        match storeRecord { t with dirty := 0 } s1 with
        | none => some (saveFaulted .pageFault 0 s)
        | some s2 =>
          some { (addForward t s2).ran t.quire t.ctx with
            th := Thread.empty
            conts := s2.conts ++ [{ t.parked s.cycle.toNat with savedAt := s2.stamp }] }

/-- A thread that its write-back keeps in its slot, where a page of its pool entry parks: since when is noted (R138). -/
def keptThread (t : Thread) (s : State) : Thread :=
  match poolPark s t with
  | some va => t.noteParked va s.cycle.toNat
  | none => { t with parkedAt := none }

/-- The thread in focus noted so. -/
def keepSlot (s : State) : State := s.up (fun t => keptThread t s)

/-- Why a write-back keeps its slot: a parked walk, else no forwarding entry. -/
def keepWhy (s : State) : Why :=
  match poolPark s s.th with
  | some va => .poolWalk s.th.ctx va
  | none => .drain

/-- A write-back that may keep its slot: the instruction waits and issues again. -/
def writeBackOr (t : Thread) (s : State) : State :=
  (writeBack t s).getD ((keepSlot s).up (fun t => { t with stall := some (.retry (keepWhy s)) }))

/-! ## Live ranges (R317) -/

/-- A range of a live-range table entry: unused, usable within `n` bytes, or bad. -/
def rangeOf (w n : Nat) : Option (Option (Nat × Nat)) :=
  let off := bits w 31 0
  let len := bits w 63 32
  if len = 0 then some none
  else if off % 64 ≠ 0 || len % 64 ≠ 0 || n < off + len then none
  else some (some (off, len))

/-- The used ranges of an entry's eight words; nothing where one is bad. -/
def rangesOf (n : Nat) : List Nat → Option (List (Nat × Nat))
  | [] => some []
  | w :: r =>
    match rangeOf w n, rangesOf n r with
    | some (some x), some l => some (x :: l)
    | some none, some l => some l
    | _, _ => none

/-- The live set of save(N): where an entry is bad or cannot be read, the whole region, and LRTBAD (R317,
assumption 16). -/
def liveRanges (n : Nat) (s : State) : List (Nat × Nat) × State :=
  let t := s.th
  match (ctxWords s t.ctx ((t.lrtbase.addr + 64 * n) % 2 ^ 64) 8).bind (rangesOf t.privLen) with
  | some l => (l, s)
  | none => ([(0, t.privLen)], s.setStat t.ctx 16)

/-- save(N) of the thread in focus (R318): the continuation is ready, with PC at the word after CKPT. -/
def saveAt (n : Nat) (s : State) : Option State :=
  let (l, s1) := liveRanges n s
  writeBack { s1.th with pc := s1.th.pc + 4, code := .ready, stall := none, liveSet := some l, wait := 0 } s1

end Sys2Proof.Machine
end

