-- ==== Sys2Proof/Machine/Threads.lean ====
section
/-!
DEFINITION. Threads, huddles and gangs (R16 to R30, R316, R365, R377, R380, R386 to R388, R392, R424, R430,
R431, R435, R450).
-/
namespace Sys2Proof.Machine

/-! ## SPAWN (R17, R424) -/

/-- SPAWN also reads g1 and g5: it waits for a pending one, and an uncorrectable one traps (R17, R252, R326). -/
def inherited (s : State) : Ev Unit :=
  match ([1, 5] : List RegField).find? (regEcc s) with
  | some r => .error (.trap .eccUncorrected (zext64 r))
  | none =>
    match ([1, 5] : List RegField).find? (awaits s) with
    | some r => again (.register r)
    | none => .ok ()

/-- SPAWN in both forms. -/
def spawnInstr (i : Instr) (d a b : RegField) (prio : Option Nat) (s : State) : Host.Outcome State Fault Refusal :=
  finish s (do
    let (xs, s1) ← operands i [a, b] (some d) s
    inherited s1
    acquired s1
    drained s1
    let cap := nth xs 0
    capCheck cap cap.addr 4 permExec
    aligned cap.addr 4
    performedAll s1
    match spawnPark (nth xs 1) s1 with
    | some va =>
      return s.up (fun t => { t.noteParked va s.cycle.toNat with stall := some (.retry (.poolWalk t.ctx va)) })
    | none =>
      match spawnThread (prio.getD s1.th.prio) cap (nth xs 1) s1 with
      | (some id, s2) => return (writeData d (BitVec.ofNat 64 id) s2).advance 4
      | (none, s2) =>
        let s3 := if spawnFaults (nth xs 1) s1 then s2.setStat s1.th.ctx 17 else s2
        return (writeData d (BitVec.allOnes 64) s3).advance 4)

/-- SPAWN (R17). -/
def execSpawn (d a b : RegField) (s : State) : Host.Outcome State Fault Refusal := spawnInstr (.spawn d a b) d a b none s

/-- SPAWN.p (R17). -/
def execSpawnP (d a b : RegField) (p : BitVec 7) (s : State) : Host.Outcome State Fault Refusal :=
  spawnInstr (.spawnP d a b p) d a b (some p.toNat) s

/-! ## SUSP (R430, R431) -/

/-- SUSP.mbox. -/
def execSuspMbox (s : State) : Host.Outcome State Fault Refusal :=
  finish s (do
    let (_, s1) ← operands .suspMbox [] none s
    suspendPoint (mkWait 0 0 0) s1)

/-- SUSP.cnt. -/
def execSuspCnt (a : RegField) (k : BitVec 8) (s : State) : Host.Outcome State Fault Refusal :=
  finish s (do
    let i : Instr := .suspCnt a k
    let (xs, s1) ← operands i [a] none s
    let v := (nth xs 0).data.toNat
    if (counterOf s s.th.ctx k.toNat).isNone || 2 ^ 53 ≤ v then illegal i
    else suspendPoint (mkWait 1 k.toNat v) s1)

/-- SUSP.job. -/
def execSuspJob (a : RegField) (s : State) : Host.Outcome State Fault Refusal :=
  finish s (do
    let i : Instr := .suspJob a
    let (xs, s1) ← operands i [a] none s
    let v := (nth xs 0).data.toNat
    if 2 ^ 32 ≤ v then illegal i else suspendPoint (mkWait 2 0 v) s1)

/-- SUSP.strm: a read binding. -/
def execSuspStrm (n : BitVec 3) (s : State) : Host.Outcome State Fault Refusal :=
  finish s (do
    let (_, s1) ← operands (.suspStrm n) [] none s
    match s.th.stream n.toNat with
    | none => .error (.trap .streamUnbound (BitVec.ofNat 64 (56 + n.toNat)))
    | some b =>
      if b.kind == .tx then .error (.trap .streamUnbound (BitVec.ofNat 64 (56 + n.toNat)))
      else suspendPoint (mkWait 3 n.toNat 0) s1)

/-- SUSP.time. -/
def execSuspTime (a : RegField) (s : State) : Host.Outcome State Fault Refusal :=
  finish s (do
    let i : Instr := .suspTime a
    let (xs, s1) ← operands i [a] none s
    let v := (nth xs 0).data.toNat
    if 2 ^ 53 ≤ v then illegal i else suspendPoint (mkWait 4 0 v) s1)

/-- SUSP.reply. -/
def execSuspReply (s : State) : Host.Outcome State Fault Refusal :=
  finish s (do
    let (_, s1) ← operands .suspReply [] none s
    suspendPoint (mkWait 5 0 0) s1)

/-! ## YIELD and EXIT (R19, R365, R450) -/

/-- The thread in focus, or a member of its gang, which yields as one unit, is in an open phase (R296, R450,
assumption 35). -/
def unitInPhase (s : State) : Bool :=
  s.th.phase.isSome || (s.th.ganged && (s.gangOf s.th.launch s.th.tid).any (fun g =>
    g.members.any (fun m => (s.find g.launch m).any (·.phase.isSome))))

/-- YIELD: the thread is written back ready; in an open phase it has no effect (R296). -/
def execYield (s : State) : Host.Outcome State Fault Refusal :=
  finish s (do
    let (_, s1) ← operands .yield [] none s
    drained s1
    if unitInPhase s1 then return s1.advance 4
    else return writeBackOr { s1.th with pc := s1.th.pc + 4, code := .ready, stall := none, wait := 0, liveSet := none } s1)

/-- The thread in focus ends (R19, R365). -/
def endThread (s : State) : State :=
  let t := { s.th with pc := s.th.pc + 4, code := .exited, stall := none }
  let s1 := (abortStreams t.launch t.tid (sfreeAll t.launch t.tid s)).leaveAll t.launch t.tid
  let s2 := (storeRecord t s1).getD s1
  let s3 := (freeThread t s2).onLaunch t.launch (fun l => { l with live := l.live - 1 })
  { s3.ran t.quire t.ctx with
    th := Thread.empty
    gangs := (s3.gangs.map (fun g => if g.launch == t.launch then { g with members := g.members.filter (· != t.tid) } else g)).filter
      (fun g => !g.members.isEmpty)
    ecc := s3.ecc.filter (fun x => match x with
      | .general l n _ => !(l == t.launch && n == t.tid)
      | .vector l n _ => !(l == t.launch && n == t.tid)
      | _ => true) }

/-- EXIT: it awaits every outstanding reply first, and discards them (R19); in a gang every member ends with the
others (R28). -/
def execExit (s : State) : Host.Outcome State Fault Refusal :=
  finish s (do
    let (_, s1) ← operands .exit [] none s
    drained s1
    if s1.th.replies = 0 ∧ s1.th.ganged = false then return endThread s1
    else return s1.up (fun t => { t with stall := some .exit }))

/-! ## Huddles (R20 to R25, R313) -/

/-- HUDDLE. -/
def huddleFault {α : Type} (num culprit : Nat) : Ev α := .error (.trap .huddle (huddleTval num culprit))

/-- The thread is a member of the huddle. -/
def inHuddle (s : State) (num : Nat) : Bool := (s.huddle s.th.launch num).any (fun h => h.members.contains s.th.tid)

/-- A broken huddle's culprit. -/
def brokenBy (s : State) (num : Nat) : Option Nat :=
  match s.huddle s.th.launch num with
  | some h => if h.broken then some h.culprit else none
  | none => none

/-- The thread added to a huddle, which is created if needed (R22). -/
def joinHuddle (num : Nat) (s : State) : State :=
  match s.huddle s.th.launch num with
  | some _ => s.onHuddle s.th.launch num (fun h => if h.members.contains s.th.tid then h else { h with members := h.members ++ [s.th.tid] })
  | none => { s with huddles := s.huddles ++ [⟨s.th.launch, num, [s.th.tid], 0, [], false, 0⟩] }

/-- What forbids a JOIN (R25, R313). -/
def joinFault (num : Nat) (s : State) : Option (Nat × Nat) :=
  if 4096 ≤ num then some (num, 0)
  else
    match s.huddle s.th.launch num with
    | none => if 4096 ≤ s.huddles.length then some (num, 0) else none
    | some h =>
      if h.broken then some (num, h.culprit)
      else if h.members.contains s.th.tid then none
      else if h.members.length ≥ (if num = 0 then 2 ^ 32 - 1 else 24576) then some (num, 0)
      else none

/-- Once the thread has left a huddle, every remaining member has arrived. -/
def leaveReleases (num : Nat) (s : State) : Bool :=
  (s.huddle s.th.launch num).any (fun h =>
    let rest := h.members.filter (· != s.th.tid)
    !h.broken && h.members.contains s.th.tid && !rest.isEmpty && rest.all (fun m => h.arrived.contains m))

/-- JOIN (R22, R386). -/
def execJoin (a : RegField) (s : State) : Host.Outcome State Fault Refusal :=
  finish s (do
    let (xs, s1) ← operands (.join a) [a] none s
    let num := (nth xs 0).data.toNat
    match joinFault num s1 with
    | some (n, c) => huddleFault n c
    | none => return (joinHuddle num s1).advance 4)

/-- A LEAVE that completes a release acts as the generation's last arrival, a release (R24, R392). -/
def lastArrival (num : Nat) (s : State) : Ev Unit :=
  if leaveReleases num s then do
    acquired s
    drained s
    performedAll s
  else .ok ()

/-- LEAVE (R22, R392). -/
def execLeave (a : RegField) (s : State) : Host.Outcome State Fault Refusal :=
  finish s (do
    let (xs, s1) ← operands (.leave a) [a] none s
    let num := (nth xs 0).data.toNat
    if 4096 ≤ num then huddleFault num 0
    else
      lastArrival num s1
      return (s1.leave s1.th.launch s1.th.tid num).advance 4)

/-- HBAR's checks that all forms share (R25, R313). -/
def huddleUsable (num : Nat) (s : State) : Ev Unit :=
  if 4096 ≤ num then huddleFault num 0
  else
    match brokenBy s num with
    | some c => huddleFault num c
    | none => if inHuddle s num then .ok () else huddleFault num 0

/-- The arrival recorded, and the release decided (R23). -/
def arriveAt (num : Nat) (s : State) : State :=
  (s.up (fun t => { t with arrived := true, huddle := num })).onHuddle s.th.launch num
    (fun h => { h with arrived := s.th.tid :: h.arrived })

/-- The arrive of HBAR fn 0 and fn 1: a release (R24). -/
def hbarArrive (num : Nat) (s : State) : Ev State := do
  acquired s
  drained s
  huddleUsable num s
  if s.th.arrived then huddleFault num 0 else pure ()
  performedAll s
  return arriveAt num s

/-- The wait of HBAR fn 0 and fn 2, of the arrival made `here` or before: ARRIVED is cleared when the generation has
released. In a gang it returns with every member's (R381). -/
def hbarAwait (here : Bool) (s : State) : State :=
  let w := mkWait 6 0 0
  if waitHolds s s.th w && !s.th.ganged then s.up (·.afterWait w)
  else s.up (fun t => { t with stall := some (.suspend w), arrivedHere := here })

/-- HBAR (R380). -/
def execHbar (a : RegField) (s : State) : Host.Outcome State Fault Refusal :=
  finish s (do
    let (xs, s1) ← operands (.hbar a) [a] none s
    let s2 ← hbarArrive (nth xs 0).data.toNat s1
    return hbarAwait true s2)

/-- HBAR.arrive (R380). -/
def execHbarArrive (a : RegField) (s : State) : Host.Outcome State Fault Refusal :=
  finish s (do
    let (xs, s1) ← operands (.hbarArrive a) [a] none s
    let s2 ← hbarArrive (nth xs 0).data.toNat s1
    return s2.advance 4)

/-- HBAR.wait (R380): of the recorded arrival. -/
def execHbarWait (a : RegField) (s : State) : Host.Outcome State Fault Refusal :=
  finish s (do
    let (xs, s1) ← operands (.hbarWait a) [a] none s
    let num := (nth xs 0).data.toNat
    drained s1
    huddleUsable num s1
    if !s1.th.arrived || s1.th.huddle != num then huddleFault num 0
    else return hbarAwait false s1)

/-! ## Gangs (R26, R27, R377, R378) -/

/-- The thread that waits in the rendezvous in a slot. -/
def waiterAt (s : State) (quire core slot : Nat) : Option GangWait :=
  s.gangWaits.find? (fun w => w.quire == quire && w.core == core && w.slot == slot)

/-- A waiting follower that a leader may claim (R378). -/
def freeFollower (lead w : GangWait) : Bool :=
  w.n == 0 && w.claimed.isNone && w.launch == lead.launch && w.quire == lead.quire && w.slot == lead.slot &&
    (let k := (w.core + 8 - lead.core) % 8
     decide (1 ≤ k) && decide (k < lead.n))

/-- A leader's claims (R378). -/
def claimFor (lead : GangWait) (ws : List GangWait) : List GangWait :=
  ws.map (fun w => if freeFollower lead w then { w with claimed := some lead.tid } else w)

/-- Every waiting leader claims, in the order received (R378). -/
def claimAll (ws : List GangWait) : List GangWait := (ws.filter (fun w => w.n != 0)).foldl (fun ws l => claimFor l ws) ws

/-- The followers of a leader, by position, where all have arrived. -/
def gangMembers (ws : List GangWait) (lead : GangWait) : Option (List Nat) :=
  (List.range (lead.n - 1)).foldr (fun k acc =>
    match acc, ws.find? (fun w => w.claimed == some lead.tid && w.launch == lead.launch && w.core == (lead.core + k + 1) % 8) with
    | some l, some w => some (w.tid :: l)
    | _, _ => none) (some [])

/-- A member of a gang that forms at the leader's PC (R26). -/
def Thread.enterGang (t : Thread) (size pos : Nat) (pc : Word) (cap : Reg) : Thread :=
  { t with ganged := true, gsize := size - 1, gpos := pos, pc := pc, fetchCap := cap,
           trapMark := false }

/-- A gang forms (R26): the leader `lead` and its followers. -/
def formGang (lead : GangWait) (members : List Nat) (s : State) : State :=
  let l := (s.find lead.launch lead.tid).getD Thread.empty
  let s1 := members.zipIdx.foldl (fun s (t, k) =>
    s.onThread lead.launch t (fun x => x.enterGang members.length k l.pc l.fetchCap)) s
  { s1 with
    gangs := s1.gangs ++ [⟨s1.nextGang, lead.launch, members, none, []⟩]
    nextGang := s1.nextGang + 1
    gangWaits := s1.gangWaits.filter (fun w => !(w.launch == lead.launch && members.contains w.tid)) }

/-- Every gang whose leader and followers have arrived forms. -/
def formGangs (s : State) : State :=
  (s.gangWaits.filter (fun w => w.n != 0)).foldl (fun s l =>
    match gangMembers s.gangWaits l with
    | some ms => formGang l (l.tid :: ms) s
    | none => s) s

/-- GANG in both forms: the rendezvous, and the wait of kind 7. -/
def gangInstr (i : Instr) (n : Nat) (s : State) : Host.Outcome State Fault Refusal :=
  finish s (do
    let (_, s1) ← operands i [] none s
    drained s1
    if s1.th.ganged then illegal i
    else
      let w : GangWait := ⟨s1.th.launch, s1.th.tid, s1.th.quire, s1.th.core, s1.th.slot, n, none⟩
      let s2 := formGangs { s1 with gangWaits := claimAll (s1.gangWaits ++ [w]) }
      let k := mkWait 7 0 0
      if waitHolds s2 s2.th k then return s2.up (·.afterWait k)
      else return s2.up (fun t => { t with stall := some (.suspend k) }))

/-- GANG n (R26). -/
def execGang (n : BitVec 3) (s : State) : Host.Outcome State Fault Refusal := gangInstr (.gang n) (n.toNat + 1) s

/-- GANG.f (R26). -/
def execGangF (s : State) : Host.Outcome State Fault Refusal := gangInstr .gangF 0 s

/-- UNGANG: the gang is disbanded (R28); outside a gang it has no effect. -/
def execUngang (s : State) : Host.Outcome State Fault Refusal :=
  finish s (do
    let (_, s1) ← operands .ungang [] none s
    match s1.gangOf s1.th.launch s1.th.tid with
    | some g => return (disband g s1).advance 4
    | none => return s1.advance 4)

/-! ## Jobs (R387, R388) -/

/-- JWAIT: a suspension point of kind 2; an id that names no job is as DONE. -/
def execJwait (a : RegField) (s : State) : Host.Outcome State Fault Refusal :=
  finish s (do
    let (xs, s1) ← operands (.jwait a) [a] none s
    let id := (nth xs 0).data.toNat
    suspendPoint (mkWait 2 0 (if 2 ^ 27 ≤ id then 2 ^ 27 else id)) s1)

/-- JPOLL. -/
def execJpoll (d a : RegField) (s : State) : Host.Outcome State Fault Refusal :=
  finish s (do
    let (xs, s1) ← operands (.jpoll d a) [a] (some d) s
    acquired s1
    return (writeData d (BitVec.ofNat 64 (jobStatus s1 s1.th.ctx (nth xs 0).data.toNat)) s1).advance 4)

/-! ## CKPT (R316 to R318, R352) -/

/-- Pre-emption of the thread's slot, or of any member's slot of its gang, is pending. -/
def preemptPending (s : State) : Bool :=
  s.th.preempt.isSome ||
    (match s.gangOf s.th.launch s.th.tid with
     | some g => g.members.any (fun t => (s.find g.launch t).any (·.preempt.isSome))
     | none => false)

/-- A pre-emption of one member's slot is one of the whole gang (R28, R325). -/
def spreadPreempt (s : State) : State :=
  match s.gangOf s.th.launch s.th.tid with
  | some g => g.members.foldl (fun s t => s.onThread g.launch t (fun x => { x with preempt := some (x.preempt.getD s.cycle.toNat) })) s
  | none => s

/-- CKPT. -/
def execCkpt (i : BitVec 20) (s : State) : Host.Outcome State Fault Refusal :=
  finish s (do
    let (_, s1) ← operands (.ckpt i) [] none s
    drained s1
    let t := s1.th
    capCheck t.lrtbase ((t.lrtbase.addr + 64 * i.toNat) % 2 ^ 64) 64 permLoad
    let s2 := if t.phase.isSome then s1 else s1.up (fun t => { t with ckptAt := s1.cycle.toNat })
    if t.phase.isNone && preemptPending s2 then
      return (saveAt i.toNat (spreadPreempt s2)).getD ((keepSlot s).up (fun t => { t with stall := some (.retry (keepWhy s)) }))
    else return s2.advance 4)

end Sys2Proof.Machine
end

