-- ==== Sys2Proof/Machine/VecUnit.lean ====
section
/-!
DEFINITION. What vector words do to the vector registers, m and FSTAT (R48, R124, R160, R166, R168, R436 to
R446), and the registers they name.
-/
namespace Sys2Proof.Machine

/-- Vector register `n`. -/
def Thread.vreg (t : Thread) (n : Nat) : BitVec 1024 := if h : n < 16 then t.v[n] else 0

/-- Vector register `n` written. -/
def Thread.setV (t : Thread) (n : Nat) (x : BitVec 1024) : Thread := if h : n < 16 then { t with v := t.v.set n x h } else t

/-- The element width of an et code. -/
def etWidth (e : BitVec 2) : Nat := 8 * 2 ^ e.toNat

/-- The floating format of a class and et (R86). -/
def classFmt (c e : BitVec 2) : Nat := if c == 2 then 5 else if e == 2 then 3 else 4

/-- A floating class. -/
def floatClass (c : BitVec 2) : Bool := c == 1 || c == 2

/-- Element `i` of a vector register. -/
def Thread.lane (t : Thread) (w n i : Nat) : Nat := elemOf w (t.vreg n).toNat i

/-- Element `i` takes part: below VL and the element count, and unmasked or with its bit of m set (R160). -/
def laneActive (t : Thread) (w vl : Nat) (masked : Bool) (i : Nat) : Bool :=
  decide (i < min vl (1024 / w)) && (!masked || t.m.getLsbD i)

/-- A register with its active elements computed, and the flags they raise (R436). -/
def vmap (t : Thread) (w vl : Nat) (masked : Bool) (d : Nat) (f : Nat → Nat → Nat × Nat) : Thread :=
  let rs := (List.range (1024 / w)).map (fun i =>
    if laneActive t w vl masked i then f i (t.lane w d i) else (t.lane w d i, 0))
  { t.setV d (BitVec.ofNat 1024 (ofElems w (rs.map (·.1)))) with
    fstat := t.fstat ||| BitVec.ofNat 64 (rs.foldl (fun fl r => joinFlags fl r.2) 0) }

/-- The second operand of an element: the scalar, or an element of a register. -/
def yLane (t : Thread) (w b : Nat) (scalar : Bool) (y : Word) (i : Nat) : Nat :=
  if scalar then y.toNat % 2 ^ w else t.lane w b i

/-! ## Element operations (R437) -/

/-- a op y on integers of `w` bits. -/
def wrapAdd (w a y : Nat) : Nat := (a + y) % 2 ^ w
def wrapSub (w a y : Nat) : Nat := (a + 2 ^ w - y) % 2 ^ w
def wrapMul (w a y : Nat) : Nat := a * y % 2 ^ w

/-- a < y in a class: signed but for class 3. -/
def classLt (c : BitVec 2) (w a y : Nat) : Bool := if c == 3 then decide (a < y) else decide (toSigned w a < toSigned w y)

/-- An operation of an integer kind and a floating kind. -/
def byClass (c e : BitVec 2) (i : Nat → Nat → Nat) (f : Nat → Nat → Nat → Nat × Nat) (a y : Nat) : Nat × Nat :=
  if floatClass c then f (classFmt c e) a y else (i a y, 0)

/-- The lesser or greater element. -/
def classMinMax (c e : BitVec 2) (greater : Bool) (a y : Nat) : Nat × Nat :=
  byClass c e (fun a y => if classLt c (etWidth e) a y != greater then a else y) (fun f a y => minMaxFloat f greater a y) a y

/-- Shifts by y mod w; right shifts copy the sign in class 0. -/
def laneShl (w a y : Nat) : Nat := a * 2 ^ (y % w) % 2 ^ w
def laneShr (c : BitVec 2) (w a y : Nat) : Nat :=
  if c == 3 then a / 2 ^ (y % w) else ofSigned w (toSigned w a / ((2 ^ (y % w) : Nat) : Int))

/-- VSET's comparison, with the flags it raises (R446). -/
def laneSet (cond : BitVec 4) (c e : BitVec 2) (a y : Nat) : Bool × Nat :=
  if floatClass c then
    let x := decodeFloat (classFmt c e) a
    let z := decodeFloat (classFmt c e) y
    let quiet := nvIf (x.isSignalling || z.isSignalling)
    let loud := nvIf (x.isNaN || z.isNaN)
    match cond.toNat with
    | 0 => (eqNum x z, quiet)
    | 1 => (!eqNum x z, quiet)
    | 2 => (ltNum x z, loud)
    | _ => (!x.isNaN && !z.isNaN && !ltNum x z, loud)
  else
    match cond.toNat with
    | 0 => (a == y, 0)
    | 1 => (a != y, 0)
    | 2 => (classLt c (etWidth e) a y, 0)
    | _ => (!classLt c (etWidth e) a y, 0)

/-! ## Reductions (R124, R444) -/

/-- One level of the pairwise tree, with the flags raised. -/
def pairUp (op : Nat → Nat → Nat × Nat) : List Nat → List Nat × Nat
  | a :: b :: r =>
    let (x, fl) := op a b
    let (xs, gl) := pairUp op r
    (x :: xs, joinFlags fl gl)
  | l => (l, 0)

/-- The tree, in at most `k` levels. -/
def treeReduce (op : Nat → Nat → Nat × Nat) : Nat → List Nat → List Nat × Nat
  | 0, l => (l, 0)
  | k + 1, l =>
    if l.length ≤ 1 then (l, 0)
    else
      let (m, fl) := pairUp op l
      let (r, gl) := treeReduce op k m
      (r, joinFlags fl gl)

/-- The result where no element is active (R124). -/
def emptyReduce (kind : Nat) (c e : BitVec 2) : Nat :=
  let w := etWidth e
  if kind = 0 then 0
  else if floatClass c then infPattern (classFmt c e) (kind == 2)
  else if c == 3 then (if kind = 1 then 2 ^ w - 1 else 0)
  else (if kind = 1 then 2 ^ (w - 1) - 1 else 2 ^ (w - 1))

/-- What VRED combines with: 0 add, 1 min, 2 max. -/
def reduceOp (kind : Nat) (c e : BitVec 2) (rm : Nat) (a b : Nat) : Nat × Nat :=
  if kind = 0 then byClass c e (wrapAdd (etWidth e)) (fun f a y => fpAdd f rm a y) a b
  else classMinMax c e (kind == 2) a b

/-- VRED: element 0 of the destination is written, the others are not (R168). DEDUCED (assumption 60): one active element
alone passes through, a NaN with its bits and no flag (R124). -/
def vreduce (kind : Nat) (d a : Nat) (e m c : BitVec 2) (vl rm : Nat) (t : Thread) : Thread :=
  let w := etWidth e
  let xs := ((List.range (1024 / w)).filter (laneActive t w vl (m == 1))).map (t.lane w a)
  let (r, fl) := treeReduce (reduceOp kind c e rm) 8 xs
  let x := match r with | y :: _ => y | [] => emptyReduce kind c e
  let old := (t.vreg d).toNat
  { t.setV d (BitVec.ofNat 1024 (old / 2 ^ w * 2 ^ w + x % 2 ^ w)) with fstat := t.fstat ||| BitVec.ofNat 64 fl }

/-! ## Conversion (R440) -/

/-- The slot width of a format in a vector register. -/
def slotWidth (f : Nat) : Nat := if f = 2 ∨ f = 3 then 32 else if f = 4 ∨ f = 5 then 16 else 8

/-- VCVT. -/
def vconvert (d a : Nat) (src dst : Nat) (masked : Bool) (vl rm : Nat) (t : Thread) : Thread :=
  let wide := max (slotWidth src) (slotWidth dst)
  let w := slotWidth dst
  let rs := (List.range (1024 / w)).map (fun i =>
    if decide (i < min vl (1024 / wide)) && (!masked || t.m.getLsbD i) then
      convert dst src rm (t.lane (slotWidth src) a i % 2 ^ fmtWidth src)
    else (t.lane w d i, 0))
  { t.setV d (BitVec.ofNat 1024 (ofElems w (rs.map (·.1)))) with
    fstat := t.fstat ||| BitVec.ofNat 64 (rs.foldl (fun fl r => joinFlags fl r.2) 0) }

/-! ## m (R168, R443, R446) -/

/-- VSET: the bits of active elements are written. -/
def vcompare (cond : BitVec 4) (a b : Nat) (e : BitVec 2) (masked scalar : Bool) (c : BitVec 2) (y : Word) (vl : Nat)
    (t : Thread) : Thread :=
  let w := etWidth e
  let rs := (List.range 128).map (fun i =>
    if laneActive t w vl masked i then laneSet cond c e (t.lane w a i) (yLane t w b scalar y i) else (t.m.getLsbD i, 0))
  { t with
    m := BitVec.ofNat 128 (ofElems 1 (rs.map (fun r => b2n r.1)))
    fstat := t.fstat ||| BitVec.ofNat 64 (rs.foldl (fun fl r => joinFlags fl r.2) 0) }

/-- VMOVG's kinds that write the vector state (R443). -/
def vmoveIn (kind d : Nat) (w : Nat) (y : Word) (t : Thread) : Thread :=
  match kind with
  | 0 => { t with m := BitVec.ofNat 128 (t.m.toNat / 2 ^ 64 * 2 ^ 64 + y.toNat) }
  | 1 => { t with m := BitVec.ofNat 128 (t.m.toNat % 2 ^ 64 + y.toNat * 2 ^ 64) }
  | 4 => t.setV d (BitVec.ofNat 1024 ((t.vreg d).toNat / 2 ^ w * 2 ^ w + y.toNat % 2 ^ w))
  | _ => t

/-- What VMOVG's other kinds write to a general register. -/
def vmoveOut (kind d : Nat) (w : Nat) (t : Thread) : Word :=
  match kind with
  | 2 => BitVec.ofNat 64 t.m.toNat
  | 3 => BitVec.ofNat 64 (t.m.toNat / 2 ^ 64)
  | _ => BitVec.ofNat 64 (t.lane w d 0)

/-! ## The effect of a word of opcode 0x38 or 0x39 -/

/-- An element-wise form with two operands. -/
def vbin (d a b : Nat) (w vl : Nat) (masked scalar : Bool) (y : Word) (f : Nat → Nat → Nat → Nat × Nat) (t : Thread) : Thread :=
  vmap t w vl masked d (fun i old => f (t.lane w a i) (yLane t w b scalar y i) old)

/-- The effect of a vector word on a thread, with what was captured at its push: the scalar, VL and RM
(R436 to R446). Other words have none here. -/
def vecEffect (i : Instr) (y : Word) (vl rm : Nat) (t : Thread) : Thread :=
  match i with
  | .vadd d a b e m s _ _ c => vbin d.toNat a.toNat b.toNat (etWidth e) vl (m == 1) (s == 1) y
      (fun a y _ => byClass c e (wrapAdd (etWidth e)) (fun f a y => fpAdd f rm a y) a y) t
  | .vsub d a b e m s _ _ c => vbin d.toNat a.toNat b.toNat (etWidth e) vl (m == 1) (s == 1) y
      (fun a y _ => byClass c e (wrapSub (etWidth e)) (fun f a y => fpSub f rm a y) a y) t
  | .vmul d a b e m s _ _ c => vbin d.toNat a.toNat b.toNat (etWidth e) vl (m == 1) (s == 1) y
      (fun a y _ => byClass c e (wrapMul (etWidth e)) (fun f a y => fpMul f rm a y) a y) t
  | .vfma d a b e m s _ _ c => vbin d.toNat a.toNat b.toNat (etWidth e) vl (m == 1) (s == 1) y
      (fun a y old => fpFma (classFmt c e) rm a y old) t
  | .vmin d a b e m s _ _ c => vbin d.toNat a.toNat b.toNat (etWidth e) vl (m == 1) (s == 1) y
      (fun a y _ => classMinMax c e false a y) t
  | .vmax d a b e m s _ _ c => vbin d.toNat a.toNat b.toNat (etWidth e) vl (m == 1) (s == 1) y
      (fun a y _ => classMinMax c e true a y) t
  | .vand d a b e m s _ _ _ => vbin d.toNat a.toNat b.toNat (etWidth e) vl (m == 1) (s == 1) y (fun a y _ => (Nat.land a y, 0)) t
  | .vor d a b e m s _ _ _ => vbin d.toNat a.toNat b.toNat (etWidth e) vl (m == 1) (s == 1) y (fun a y _ => (Nat.lor a y, 0)) t
  | .vxor d a b e m s _ _ _ => vbin d.toNat a.toNat b.toNat (etWidth e) vl (m == 1) (s == 1) y (fun a y _ => (Nat.xor a y, 0)) t
  | .vshl d a b e m s _ _ _ => vbin d.toNat a.toNat b.toNat (etWidth e) vl (m == 1) (s == 1) y
      (fun a y _ => (laneShl (etWidth e) a y, 0)) t
  | .vshr d a b e m s _ _ c => vbin d.toNat a.toNat b.toNat (etWidth e) vl (m == 1) (s == 1) y
      (fun a y _ => (laneShr c (etWidth e) a y, 0)) t
  | .vsel d a b e m s _ _ _ => vmap t (etWidth e) vl (m == 1) d.toNat (fun i _ =>
      (if t.m.getLsbD i then t.lane (etWidth e) a.toNat i else yLane t (etWidth e) b.toNat (s == 1) y i, 0))
  | .vset cond a b e m s _ _ k => vcompare cond a.toNat b.toNat e (m == 1) (s == 1) k y vl t
  | .vexp d a e m _ c => vmap t (etWidth e) vl (m == 1) d.toNat (fun i _ => fpExp (classFmt c e) (t.lane (etWidth e) a.toNat i))
  | .vrcp d a e m _ c => vmap t (etWidth e) vl (m == 1) d.toNat (fun i _ => fpRcp (classFmt c e) (t.lane (etWidth e) a.toNat i))
  | .vrsq d a e m _ c => vmap t (etWidth e) vl (m == 1) d.toNat (fun i _ => fpRsq (classFmt c e) (t.lane (etWidth e) a.toNat i))
  | .vredAdd d a e m _ c => vreduce 0 d.toNat a.toNat e (m.setWidth 2) c vl rm t
  | .vredMin d a e m _ c => vreduce 1 d.toNat a.toNat e (m.setWidth 2) c vl rm t
  | .vredMax d a e m _ c => vreduce 2 d.toNat a.toNat e (m.setWidth 2) c vl rm t
  | .vperm d a b e m s _ _ => vmap t (etWidth e) vl (m == 1) d.toNat (fun i _ =>
      (t.lane (etWidth e) a.toNat (yLane t (etWidth e) b.toNat (s == 1) y i % (1024 / etWidth e)), 0))
  | .vbcast d a _ e m s _ _ _ => vmap t (etWidth e) vl (m == 1) d.toNat (fun _ _ =>
      (if s == 1 then y.toNat % 2 ^ etWidth e else t.lane (etWidth e) a.toNat 0, 0))
  | .vidx d e m _ => vmap t (etWidth e) vl (m == 1) d.toNat (fun i _ => (i % 2 ^ etWidth e, 0))
  | .vmovg d k _ e _ _ => vmoveIn k.toNat d.toNat (etWidth e) y t
  | .vcvt d a src m _ dst => vconvert d.toNat a.toNat src.toNat dst.toNat (m == 1) vl rm t
  | _ => t

/-! ## The registers that a word names (R33, R164, R166) -/

/-- m as a register number. -/
def mReg : Nat := 16

/-- m where an instruction is masked. -/
def mIf (m : BitVec 1) : List Nat := if m == 1 then [mReg] else []

/-- vb where it names a register. -/
def bIf (s : BitVec 1) (b : BitVec 4) : List Nat := if s == 1 then [] else [b.toNat]

/-- The registers read, m as 16. A destination that keeps elements is read too. -/
def vecReads : Instr → List Nat
  | .vadd d a b _ m s _ _ _ => d.toNat :: a.toNat :: bIf s b ++ mIf m
  | .vsub d a b _ m s _ _ _ => d.toNat :: a.toNat :: bIf s b ++ mIf m
  | .vmul d a b _ m s _ _ _ => d.toNat :: a.toNat :: bIf s b ++ mIf m
  | .vfma d a b _ m s _ _ _ => d.toNat :: a.toNat :: bIf s b ++ mIf m
  | .vmin d a b _ m s _ _ _ => d.toNat :: a.toNat :: bIf s b ++ mIf m
  | .vmax d a b _ m s _ _ _ => d.toNat :: a.toNat :: bIf s b ++ mIf m
  | .vand d a b _ m s _ _ _ => d.toNat :: a.toNat :: bIf s b ++ mIf m
  | .vor d a b _ m s _ _ _ => d.toNat :: a.toNat :: bIf s b ++ mIf m
  | .vxor d a b _ m s _ _ _ => d.toNat :: a.toNat :: bIf s b ++ mIf m
  | .vshl d a b _ m s _ _ _ => d.toNat :: a.toNat :: bIf s b ++ mIf m
  | .vshr d a b _ m s _ _ _ => d.toNat :: a.toNat :: bIf s b ++ mIf m
  | .vsel d a b _ _ s _ _ _ => d.toNat :: a.toNat :: mReg :: bIf s b
  | .vset _ a b _ _ s _ _ _ => a.toNat :: mReg :: bIf s b
  | .vexp d a _ m _ _ => d.toNat :: a.toNat :: mIf m
  | .vrcp d a _ m _ _ => d.toNat :: a.toNat :: mIf m
  | .vrsq d a _ m _ _ => d.toNat :: a.toNat :: mIf m
  | .vredAdd d a _ m _ _ => d.toNat :: a.toNat :: mIf m
  | .vredMin d a _ m _ _ => d.toNat :: a.toNat :: mIf m
  | .vredMax d a _ m _ _ => d.toNat :: a.toNat :: mIf m
  | .vperm d a b _ m s _ _ => d.toNat :: a.toNat :: bIf s b ++ mIf m
  | .vbcast d a _ _ m s _ _ _ => d.toNat :: (if s == 1 then [] else [a.toNat]) ++ mIf m
  | .vidx d _ m _ => d.toNat :: mIf m
  | .vmovg d k _ _ _ _ => if k.toNat ≤ 3 then [mReg] else [d.toNat]
  | .vcvt d a _ m _ _ => d.toNat :: a.toNat :: mIf m
  | .vld d _ _ _ m => d.toNat :: mIf m
  | .vst d _ _ _ m => d.toNat :: mIf m
  | .vldShape d _ _ _ _ m => d.toNat :: mIf m
  | .vstShape d _ _ _ _ m => d.toNat :: mIf m
  | _ => []

/-- The registers written, m as 16. -/
def vecWrites : Instr → List Nat
  | .vset _ _ _ _ _ _ _ _ _ => [mReg]
  | .vmovg d k _ _ _ _ => if k.toNat ≤ 1 then [mReg] else if k == 4 then [d.toNat] else []
  | .vst _ _ _ _ _ => []
  | .vstShape _ _ _ _ _ _ => []
  | i => (vecReads i).take 1

/-- The vector registers that a word names, m left out. -/
def vecNames (i : Instr) : List Nat := (vecReads i ++ vecWrites i).filter (· != mReg)

/-- The stagger bit (R166). -/
def staggered : Instr → Bool
  | .vadd _ _ _ _ _ _ t _ _ => t == 1
  | .vsub _ _ _ _ _ _ t _ _ => t == 1
  | .vmul _ _ _ _ _ _ t _ _ => t == 1
  | .vfma _ _ _ _ _ _ t _ _ => t == 1
  | .vmin _ _ _ _ _ _ t _ _ => t == 1
  | .vmax _ _ _ _ _ _ t _ _ => t == 1
  | .vand _ _ _ _ _ _ t _ _ => t == 1
  | .vor _ _ _ _ _ _ t _ _ => t == 1
  | .vxor _ _ _ _ _ _ t _ _ => t == 1
  | .vshl _ _ _ _ _ _ t _ _ => t == 1
  | .vshr _ _ _ _ _ _ t _ _ => t == 1
  | .vsel _ _ _ _ _ _ t _ _ => t == 1
  | .vset _ _ _ _ _ _ t _ _ => t == 1
  | .vexp _ _ _ _ t _ => t == 1
  | .vrcp _ _ _ _ t _ => t == 1
  | .vrsq _ _ _ _ t _ => t == 1
  | .vredAdd _ _ _ _ t _ => t == 1
  | .vredMin _ _ _ _ t _ => t == 1
  | .vredMax _ _ _ _ t _ => t == 1
  | .vperm _ _ _ _ _ _ t _ => t == 1
  | .vbcast _ _ _ _ _ _ t _ _ => t == 1
  | .vidx _ _ _ t => t == 1
  | .vmovg _ _ _ _ t _ => t == 1
  | .vcvt _ _ _ _ t _ => t == 1
  | _ => false

/-- v((n + p) mod 16) in place of vn (R166). -/
def rot (p : Nat) (n : BitVec 4) : BitVec 4 := n + BitVec.ofNat 4 p

/-- vb where it names a register, rotated. -/
def rotB (p : Nat) (s : BitVec 1) (b : BitVec 4) : BitVec 4 := if s == 1 then b else rot p b

/-- A staggered word as pass `p` runs it (R166): its vector registers rotated, but not its scalar, VSET's
condition or VMOVG's kind. -/
def rotated (p : Nat) : Instr → Instr
  | .vadd d a b e m s t h c => .vadd (rot p d) (rot p a) (rotB p s b) e m s t h c
  | .vsub d a b e m s t h c => .vsub (rot p d) (rot p a) (rotB p s b) e m s t h c
  | .vmul d a b e m s t h c => .vmul (rot p d) (rot p a) (rotB p s b) e m s t h c
  | .vfma d a b e m s t h c => .vfma (rot p d) (rot p a) (rotB p s b) e m s t h c
  | .vmin d a b e m s t h c => .vmin (rot p d) (rot p a) (rotB p s b) e m s t h c
  | .vmax d a b e m s t h c => .vmax (rot p d) (rot p a) (rotB p s b) e m s t h c
  | .vand d a b e m s t h c => .vand (rot p d) (rot p a) (rotB p s b) e m s t h c
  | .vor d a b e m s t h c => .vor (rot p d) (rot p a) (rotB p s b) e m s t h c
  | .vxor d a b e m s t h c => .vxor (rot p d) (rot p a) (rotB p s b) e m s t h c
  | .vshl d a b e m s t h c => .vshl (rot p d) (rot p a) (rotB p s b) e m s t h c
  | .vshr d a b e m s t h c => .vshr (rot p d) (rot p a) (rotB p s b) e m s t h c
  | .vsel d a b e m s t h c => .vsel (rot p d) (rot p a) (rotB p s b) e m s t h c
  | .vset k a b e m s t h c => .vset k (rot p a) (rotB p s b) e m s t h c
  | .vexp d a e m t c => .vexp (rot p d) (rot p a) e m t c
  | .vrcp d a e m t c => .vrcp (rot p d) (rot p a) e m t c
  | .vrsq d a e m t c => .vrsq (rot p d) (rot p a) e m t c
  | .vredAdd d a e m t c => .vredAdd (rot p d) (rot p a) e m t c
  | .vredMin d a e m t c => .vredMin (rot p d) (rot p a) e m t c
  | .vredMax d a e m t c => .vredMax (rot p d) (rot p a) e m t c
  | .vperm d a b e m s t h => .vperm (rot p d) (rot p a) (rotB p s b) e m s t h
  | .vbcast d a b e m s t h c => .vbcast (rot p d) (if s == 1 then a else rot p a) b e m s t h c
  | .vidx d e m t => .vidx (rot p d) e m t
  | .vmovg d k b e t h => .vmovg (if k.toNat ≤ 3 then d else rot p d) k b e t h
  | .vcvt d a s m t e => .vcvt (rot p d) (rot p a) s m t e
  | i => i

/-- A body word as pass `p` runs it. -/
def inPass (p : Nat) (i : Instr) : Instr := if staggered i then rotated p i else i

/-- The scalar register of a word, where it has one (R436). -/
def scalarOf : Instr → Option RegField
  | .vadd _ _ b _ _ s _ h _ => if s == 1 then some (scalarReg h b) else none
  | .vsub _ _ b _ _ s _ h _ => if s == 1 then some (scalarReg h b) else none
  | .vmul _ _ b _ _ s _ h _ => if s == 1 then some (scalarReg h b) else none
  | .vfma _ _ b _ _ s _ h _ => if s == 1 then some (scalarReg h b) else none
  | .vmin _ _ b _ _ s _ h _ => if s == 1 then some (scalarReg h b) else none
  | .vmax _ _ b _ _ s _ h _ => if s == 1 then some (scalarReg h b) else none
  | .vand _ _ b _ _ s _ h _ => if s == 1 then some (scalarReg h b) else none
  | .vor _ _ b _ _ s _ h _ => if s == 1 then some (scalarReg h b) else none
  | .vxor _ _ b _ _ s _ h _ => if s == 1 then some (scalarReg h b) else none
  | .vshl _ _ b _ _ s _ h _ => if s == 1 then some (scalarReg h b) else none
  | .vshr _ _ b _ _ s _ h _ => if s == 1 then some (scalarReg h b) else none
  | .vsel _ _ b _ _ s _ h _ => if s == 1 then some (scalarReg h b) else none
  | .vset _ _ b _ _ s _ h _ => if s == 1 then some (scalarReg h b) else none
  | .vperm _ _ b _ _ s _ h => if s == 1 then some (scalarReg h b) else none
  | .vbcast _ _ b _ _ s _ h _ => if s == 1 then some (scalarReg h b) else none
  | .vmovg _ k b _ _ h => if k == 0 || k == 1 || k == 4 then some (scalarReg h b) else none
  | _ => none

/-- A word of opcode 0x38 or 0x39 (R165). -/
def bodyWord (i : Instr) : Bool :=
  !(vecReads i).isEmpty && (match i with
    | .vld _ _ _ _ _ => false
    | .vst _ _ _ _ _ => false
    | .vldShape _ _ _ _ _ _ => false
    | .vstShape _ _ _ _ _ _ => false
    | _ => true)

end Sys2Proof.Machine
end

