-- ==== Sys2Proof/Machine/Fused.lean ====
section
/-!
DEFINITION. The fused softmax sequence as the decoder finds it (R169, R170, R447), and the instruction at PC with it.
-/
namespace Sys2Proof.Machine

/-- The eight words of the sequence. -/
def softmaxWords (vx vy vt vs : BitVec 4) (e : BitVec 2) (m : BitVec 1) (c : BitVec 2) : List Instr :=
  [.vredMax vt vx e m 0 c, .vbcast vt vt 0 e m 0 0 0 c, .vsub vy vx vt e m 0 0 0 c, .vexp vy vy e m 0 c,
   .vredAdd vs vy e m 0 c, .vrcp vs vs e m 0 c, .vbcast vs vs 0 e m 0 0 0 c, .vmul vy vy vs e m 0 0 0 c]

/-- vd of a VSUB or a VRED_ADD, else `r`. -/
def destOr (r : BitVec 4) : Option Instr → BitVec 4
  | some (.vsub d _ _ _ _ _ _ _ _) => d
  | some (.vredAdd d _ _ _ _ _) => d
  | _ => r

/-- The first words of the sequence, as far as they alone can be judged (R169, R170). -/
def softmaxPrefix (ws : List Instr) : Bool :=
  match ws.head? with
  | some (.vredMax vt vx e m _ c) =>
    let vy := destOr vx ws[2]?
    let vs := destOr vx ws[4]?
    floatClass c && vt != vx && (softmaxWords vx vy vt vs e m c).take ws.length == ws &&
      (ws.length < 3 || vy != vt) && (ws.length < 5 || (vs != vx && vs != vt && vs != vy))
  | _ => false

/-- The control word at a virtual address. -/
def codeWord (va : Nat) (s : State) : Ev (Nat × State) := do
  let (bs, s1) ← fetchBytes 4 (s.up (fun t => { t with pc := BitVec.ofNat 64 va }))
  return (ofBytesLE bs, s1.up (fun t => { t with pc := s.th.pc }))

/-- A code word that cannot be fetched is FETCH_FAULT at the instruction that examines it (R165, R170). -/
def codeFault (va : Nat) : Halt → Halt
  | .trap .fetchFault v => .trap .fetchFault v
  | .trap _ _ => .trap .fetchFault (BitVec.ofNat 64 (va % 2 ^ 64))
  | h => h

/-- The same at a VSEQ, whose body word in error lies in the executable mapping (R165, R326). -/
def bodyFault (va : Nat) : Halt → Halt
  | .trap .eccUncorrected v => .trap .eccUncorrected v
  | h => codeFault va h

/-- What a code word decodes to; nothing for a word that is no instruction. -/
def wordInstr (w : Nat) : Option Instr :=
  match decodeControl w with
  | .ok i => if wellFormedInstr i then some i else none
  | .error _ => none

/-- The code word at an address, for an instruction that examines it. -/
def examined (va : Nat) (s : State) : Ev (Nat × State) :=
  match codeWord va s with
  | .error h => .error (codeFault va h)
  | .ok r => .ok r

/-- The body word at an address and what it decodes to. -/
def codeInstr (va : Nat) (s : State) : Ev (Option Instr × State) :=
  match codeWord va s with
  | .error h => .error (bodyFault va h)
  | .ok (w, s1) => .ok (wordInstr w, s1)

/-- A word of the sequence without what R169 does not name and what makes it ILLEGAL (R437, R439, R444; assumption 25): its
stagger bit outside a VSEQ body, bit 8, fn[7:6], vb where the word has none, and the scalar bit where it must be 0. VBCAST
with a scalar is another form, and stays as it is. -/
def softmaxClean (body : Bool) (w : Nat) : Nat :=
  let unary := (bits w 31 26 == 0x38 && (bits w 3 0 == 13 || bits w 3 0 == 14)) ||
    (bits w 31 26 == 0x39 && (bits w 3 0 == 0 || bits w 3 0 == 2))
  let spread := bits w 31 26 == 0x39 && bits w 3 0 == 5
  if spread && bitOf w 10 then w
  else
    w - bits w 8 6 * 2 ^ 6 - (if body then 0 else bits w 9 9 * 2 ^ 9) -
      (if unary || spread then bits w 17 14 * 2 ^ 14 else 0) - (if unary then bits w 10 10 * 2 ^ 10 else 0)

/-- The first word of a list that names a register at or above VREGS. -/
def offending (t : Thread) (ws : List Instr) : Option Nat :=
  ws.findIdx? (fun i => (vecNames i).any (fun n => decide (t.vregs ≤ n)))

/-- The words that follow `ws` while they match the sequence: all eight, or nothing. `bad` is the first word that is
ILLEGAL for what `softmaxClean` takes away: with all eight there, the first offending word is ILLEGAL at word 1 (R170).
The first `body` words lie in a VSEQ body. -/
def softmaxScanIn (body va : Nat) : Nat → List Instr → Option Nat → State → Ev (Option (List Instr) × State)
  | 0, ws, bad, s =>
    match bad with
    | none => .ok (some ws, s)
    | some k => .error (.trap .illegal (BitVec.ofNat 64 (va + 4 * min k ((offending s.th ws).getD k))))
  | n + 1, ws, bad, s => do
    let (w, s1) ← examined (va + 4 * ws.length) s
    let v := softmaxClean (decide (ws.length < body)) w
    match wordInstr v with
    | some j =>
      if softmaxPrefix (ws ++ [j]) then softmaxScanIn body va n (ws ++ [j]) (bad <|> if v = w then none else some ws.length) s1
      else return (none, s1)
    | none => return (none, s1)

/-- The scan outside a VSEQ body. -/
def softmaxScan (va : Nat) : Nat → List Instr → Option Nat → State → Ev (Option (List Instr) × State) := softmaxScanIn 0 va

/-- VRED_MAX without its stagger bit. -/
def unstaggered : Instr → Instr
  | .vredMax d a e m _ c => .vredMax d a e m 0 c
  | i => i

/-- The sequence at a word, if it starts there. -/
def softmaxAt (va : Nat) (i : Instr) (s : State) : Ev (Option (List Instr) × State) :=
  if softmaxPrefix [unstaggered i] then softmaxScan va 7 [unstaggered i] (if unstaggered i = i then none else some 0) s
  else .ok (none, s)

/-- The VRED_MAX that an undefined word is but for its reserved fields, where the sequence may start with it. -/
def softmaxStart (w : Nat) : Option Instr :=
  match wordInstr (softmaxClean false w) with
  | some i => if softmaxPrefix [i] then some i else none
  | none => none

/-- The instruction at PC as the decoder takes it: an undefined word that starts the sequence has the sequence's
fault (R170). -/
def fetchNext (s : State) : Ev (Instr × State) :=
  match fetch s with
  | .error (.trap .illegal v) =>
    match softmaxStart v.toNat with
    | some i =>
      match softmaxScan s.th.pc.toNat 7 [i] (some 0) s with
      | .error h => .error h
      | .ok _ => .error (.trap .illegal v)
    | none => .error (.trap .illegal v)
  | r => r

end Sys2Proof.Machine
end

