-- ==== Sys2Proof/Machine/Vector.lean ====
section
/-!
DEFINITION. The vector family: the sequencer (R161 to R167), the vector words (R436 to R446), VSEQ and VSETL,
the fused softmax sequence (R169, R170, R447), and the arbiter's steps (R164).
-/
namespace Sys2Proof.Machine

/-! ## The sequencer (R161, R164) -/

/-- Entries of a core's sequencer that are taken (R161). -/
def seqUsed (s : State) (quire core : Nat) : Nat :=
  ((s.seqs.filter (fun e => e.quire == quire && e.core == core)).map (·.held)).sum

/-- A push of `n` entries waits while the sequencer has no room for them (R161). -/
def seqRoom (n : Nat) (s : State) : Ev Unit :=
  if 16 < seqUsed s s.th.quire s.th.core + n then again .sequencer else .ok ()

/-- The focus thread has a replay in the sequencer, or words behind one: what it pushes now takes effect after them, with
its entry's completion (R165). -/
def behind (s : State) : Bool := s.entries.any (fun e => e.replay.isSome || e.work.isSome)

/-- A vector register in uncorrectable error that an instruction reads (R326). -/
def vecEcc (rs : List Nat) (s : State) : Ev Unit :=
  match rs.find? (fun r => s.ecc.contains (.vector s.th.launch s.th.tid r)) with
  | some r => .error (.trap .eccUncorrected (BitVec.ofNat 64 r))
  | none => .ok ()

/-- An entry of the focus thread appended: the words `is`, `n` entries of the sequencer. -/
def pushEntry (is : List Instr) (gdest : Option (RegField × Word)) (bytes : List (Nat × Nat)) (n : Nat)
    (work : Option VecWork) (rp : Option Replay) (s : State) : State :=
  { s with seqs := s.seqs ++
      [⟨s.th.quire, s.th.core, s.th.launch, s.th.tid, (is.flatMap vecReads).eraseDups, (is.flatMap vecWrites).eraseDups, gdest,
        bytes, none, n, work, rp⟩] }

/-- ILLEGAL at the word: a vector register at or above VREGS, or stagger outside a VSEQ body (R33, R166). -/
def vecLegal (i : Instr) (t : Thread) : Ev Unit :=
  if staggered i || (vecNames i).any (fun n => decide (t.vregs ≤ n)) then illegal i else .ok ()

/-- FSTAT.RM as a push captures it (R55, R161). -/
def Thread.rm (t : Thread) : Nat := bits t.fstat.toNat 9 8

/-- What a VMOVG of kind 2, 3 or 5 will write. -/
def vecResult (i : Instr) (t : Thread) : Option (RegField × Word) :=
  match i with
  | .vmovg d k _ e _ _ => (vecGdest i).map (fun r => (r, vmoveOut k.toNat d.toNat (etWidth e) t))
  | _ => none

/-- The register that a VMOVG writes, where it stops the word: beyond the count, or awaiting a reply (R33, R252). -/
def vecDest (i : Instr) (s : State) : Option RegField := (vecGdest i).filter (fun r => beyond s.th r || awaitsReply s r)

/-- Words with their scalars pushed as one entry (R161): their effect on the vector state is that of program order, at once
or behind what the sequencer still holds. -/
def pushWords (ws : List (Instr × Word)) (s : State) : State :=
  if behind s then pushEntry (ws.map (·.1)) none [] 1 (some ⟨ws, s.th.vl, s.th.rm, []⟩) none s
  else
    (pushEntry (ws.map (·.1)) ((ws.head?).bind (fun x => vecResult x.1 s.th)) [] 1 none none s).up
      (fun t => ws.foldl (fun u x => vecEffect x.1 x.2 s.th.vl s.th.rm u) t)

/-- A word of opcode 0x38 or 0x39 outside a body (R161, R436). -/
def vecWord (i : Instr) (s : State) : Ev State := do
  vecLegal i s.th
  let (xs, s1) ← operands i (scalarOf i).toList (vecDest i s) s
  vecEcc (vecReads i) s
  seqRoom 1 s
  return (pushWords [(i, (nth xs 0).data)] s1).advance 4

/-- A vector word's outcome. -/
def vecExec (i : Instr) (s : State) : Host.Outcome State Fault Refusal := finish s (vecWord i s)

/-! ## The words of opcodes 0x38 and 0x39 -/

/-- VADD (R437). -/
def execVadd (d a b : BitVec 4) (e : BitVec 2) (m s t : BitVec 1) (h c : BitVec 2) (x : State) :
    Host.Outcome State Fault Refusal :=
  vecExec (.vadd d a b e m s t h c) x

/-- VSUB (R437). -/
def execVsub (d a b : BitVec 4) (e : BitVec 2) (m s t : BitVec 1) (h c : BitVec 2) (x : State) :
    Host.Outcome State Fault Refusal :=
  vecExec (.vsub d a b e m s t h c) x

/-- VMUL (R437). -/
def execVmul (d a b : BitVec 4) (e : BitVec 2) (m s t : BitVec 1) (h c : BitVec 2) (x : State) :
    Host.Outcome State Fault Refusal :=
  vecExec (.vmul d a b e m s t h c) x

/-- VFMA (R437). -/
def execVfma (d a b : BitVec 4) (e : BitVec 2) (m s t : BitVec 1) (h c : BitVec 2) (x : State) :
    Host.Outcome State Fault Refusal :=
  vecExec (.vfma d a b e m s t h c) x

/-- VMIN (R437). -/
def execVmin (d a b : BitVec 4) (e : BitVec 2) (m s t : BitVec 1) (h c : BitVec 2) (x : State) :
    Host.Outcome State Fault Refusal :=
  vecExec (.vmin d a b e m s t h c) x

/-- VMAX (R437). -/
def execVmax (d a b : BitVec 4) (e : BitVec 2) (m s t : BitVec 1) (h c : BitVec 2) (x : State) :
    Host.Outcome State Fault Refusal :=
  vecExec (.vmax d a b e m s t h c) x

/-- VAND (R437). -/
def execVand (d a b : BitVec 4) (e : BitVec 2) (m s t : BitVec 1) (h c : BitVec 2) (x : State) :
    Host.Outcome State Fault Refusal :=
  vecExec (.vand d a b e m s t h c) x

/-- VOR (R437). -/
def execVor (d a b : BitVec 4) (e : BitVec 2) (m s t : BitVec 1) (h c : BitVec 2) (x : State) :
    Host.Outcome State Fault Refusal :=
  vecExec (.vor d a b e m s t h c) x

/-- VXOR (R437). -/
def execVxor (d a b : BitVec 4) (e : BitVec 2) (m s t : BitVec 1) (h c : BitVec 2) (x : State) :
    Host.Outcome State Fault Refusal :=
  vecExec (.vxor d a b e m s t h c) x

/-- VSHL (R437). -/
def execVshl (d a b : BitVec 4) (e : BitVec 2) (m s t : BitVec 1) (h c : BitVec 2) (x : State) :
    Host.Outcome State Fault Refusal :=
  vecExec (.vshl d a b e m s t h c) x

/-- VSHR (R437). -/
def execVshr (d a b : BitVec 4) (e : BitVec 2) (m s t : BitVec 1) (h c : BitVec 2) (x : State) :
    Host.Outcome State Fault Refusal :=
  vecExec (.vshr d a b e m s t h c) x

/-- VSEL (R438). -/
def execVsel (d a b : BitVec 4) (e : BitVec 2) (m s t : BitVec 1) (h c : BitVec 2) (x : State) :
    Host.Outcome State Fault Refusal :=
  vecExec (.vsel d a b e m s t h c) x

/-- VSET (R446). -/
def execVset (c a b : BitVec 4) (e : BitVec 2) (m s t : BitVec 1) (h k : BitVec 2) (x : State) :
    Host.Outcome State Fault Refusal :=
  vecExec (.vset c a b e m s t h k) x

/-- VEXP (R437). -/
def execVexp (d a : BitVec 4) (e : BitVec 2) (m t : BitVec 1) (c : BitVec 2) (x : State) :
    Host.Outcome State Fault Refusal :=
  vecExec (.vexp d a e m t c) x

/-- VRCP (R437). -/
def execVrcp (d a : BitVec 4) (e : BitVec 2) (m t : BitVec 1) (c : BitVec 2) (x : State) :
    Host.Outcome State Fault Refusal :=
  vecExec (.vrcp d a e m t c) x

/-- VRSQ (R437). -/
def execVrsq (d a : BitVec 4) (e : BitVec 2) (m t : BitVec 1) (c : BitVec 2) (x : State) :
    Host.Outcome State Fault Refusal :=
  vecExec (.vrsq d a e m t c) x

/-- VRED_ADD (R444). -/
def execVredAdd (d a : BitVec 4) (e : BitVec 2) (m t : BitVec 1) (c : BitVec 2) (x : State) :
    Host.Outcome State Fault Refusal :=
  vecExec (.vredAdd d a e m t c) x

/-- VRED_MIN (R444). -/
def execVredMin (d a : BitVec 4) (e : BitVec 2) (m t : BitVec 1) (c : BitVec 2) (x : State) :
    Host.Outcome State Fault Refusal :=
  vecExec (.vredMin d a e m t c) x

/-- VPERM (R439). -/
def execVperm (d a b : BitVec 4) (e : BitVec 2) (m s t : BitVec 1) (h : BitVec 2) (x : State) :
    Host.Outcome State Fault Refusal :=
  vecExec (.vperm d a b e m s t h) x

/-- VBCAST (R439). -/
def execVbcast (d a b : BitVec 4) (e : BitVec 2) (m s t : BitVec 1) (h c : BitVec 2) (x : State) :
    Host.Outcome State Fault Refusal :=
  vecExec (.vbcast d a b e m s t h c) x

/-- VIDX (R439). -/
def execVidx (d : BitVec 4) (e : BitVec 2) (m t : BitVec 1) (x : State) :
    Host.Outcome State Fault Refusal :=
  vecExec (.vidx d e m t) x

/-- VMOVG (R443). -/
def execVmovg (d k b : BitVec 4) (e : BitVec 2) (t : BitVec 1) (h : BitVec 2) (x : State) :
    Host.Outcome State Fault Refusal :=
  vecExec (.vmovg d k b e t h) x

/-- VCVT (R440). -/
def execVcvt (d a s : BitVec 4) (m t : BitVec 1) (e : BitVec 4) (x : State) :
    Host.Outcome State Fault Refusal :=
  vecExec (.vcvt d a s m t e) x

/-! ## The fused softmax sequence (R169, R170, R447) -/

/-- The eight words as one entry (R447): a fault of any of them is taken at word 1, with its address. -/
def softmaxRun (ws : List Instr) (s : State) : Ev State := do
  match offending s.th ws with
  | some k => .error (.trap .illegal (s.th.pc + BitVec.ofNat 64 (4 * k)))
  | none => pure ()
  vecEcc (ws.flatMap vecReads) s
  seqRoom 1 s
  return (pushWords (ws.map (fun i => (i, 0))) s).advance 32

/-- VRED_MAX (R444), which may start the fused softmax sequence (R169). -/
def execVredMax (d a : BitVec 4) (e : BitVec 2) (m t : BitVec 1) (c : BitVec 2) (x : State) :
    Host.Outcome State Fault Refusal :=
  finish x (do
    let (ws, x1) ← softmaxAt x.th.pc.toNat (.vredMax d a e m t c) x
    match ws with
    | some l => softmaxRun l x1
    | none => vecWord (.vredMax d a e m t c) x1)

/-! ## VLD and VST (R88, R163, R441, R442) -/

/-- The thread's slice of shape record `n`, read at the word (R38, R441). -/
def sliceOf (i : Instr) (n : Nat) (s : State) : Ev (Slice × State) := do
  if s.th.nshape ≤ n then illegal i else pure ()
  let va := (s.th.shapebase.addr + 128 * n) % 2 ^ 64
  capCheck s.th.shapebase va 128 permLoad
  accessWaits false false va 128 s
  let (bs, s1) ← loadBytesAt va 128 s
  match readShape (ofBytesLE bs) with
  | some sh => return (sh.slice s.th.tid, s1)
  | none => .error (.trap .formatFault (BitVec.ofNat 64 va))

/-- a.address + off6 × 128. -/
def vmBase (a : Reg) (o : BitVec 6) : Int := (a.addr : Int) + o.toInt * 128

/-- An address as 64 bits. -/
def wrapAddr (x : Int) : Nat := (x % (2 ^ 64 : Int)).toNat

/-- The active elements of a contiguous form with their addresses. -/
def contiguous (t : Thread) (w : Nat) (masked : Bool) (base : Int) : List (Nat × Nat) :=
  ((List.range (1024 / w)).filter (laneActive t w t.vl masked)).map (fun i => (i, wrapAddr (base + (i * (w / 8) : Nat))))

/-- The active elements of a shape-strided form with their addresses: those of the slice. -/
def strided (t : Thread) (w : Nat) (masked : Bool) (base : Int) (sl : Slice) : List (Nat × Nat) :=
  ((List.range (1024 / w)).filter (fun i => laneActive t w t.vl masked i && decide (i < sl.total))).map
    (fun i => (i, wrapAddr (base + sl.at i)))

/-- How an access ends, as a halt or nothing. -/
def haltOf {α : Type} : Ev α → Option Halt
  | .ok _ => none
  | .error h => some h

/-- Where a halt stands among others: the causes in the order of R44, then the lowest address; a wait
comes last. -/
def haltKey (va : Nat) : Halt → Nat × Nat
  | .trap c _ => (c.num, va)
  | .stall _ => (256, va)

/-- The first of two halts. -/
def firstHalt (a b : Nat × Halt) : Nat × Halt :=
  let x := haltKey a.1 a.2
  let y := haltKey b.1 b.2
  if x.1 < y.1 || (x.1 == y.1 && x.2 ≤ y.2) then a else b

/-- The halt of a list of accesses, each with its address. -/
def accessHalt : List (Nat × Option Halt) → Option (Nat × Halt)
  | [] => none
  | (va, h) :: r =>
    match h, accessHalt r with
    | none, y => y
    | some x, none => some (va, x)
    | some x, some y => some (firstHalt (va, x) y)

/-- An element's access before it is made (R44, R326): what stops it, and its physical address; each page is translated
once (R137). -/
def elemPlace (c : Reg) (n : Nat) (store : Bool) (va : Nat) (s : State) : Ev (Nat × State) := do
  capCheck c va n (if store then permStore else permLoad)
  aligned va n
  let (pa, s1) ← xlatePiece va (if store then .store else .load) s
  if !inMmio pa && (if store then eccPartial s1 pa n else eccAt s1 pa n) then .error (.trap .eccUncorrected (BitVec.ofNat 64 va))
  else return (pa, s1)

/-- The elements' places: element, virtual address, and the physical address or what stops it. -/
def elemPlaces (c : Reg) (n : Nat) (store : Bool) : List (Nat × Nat) → State → List (Nat × Nat × Except Halt Nat) × State
  | [], s => ([], s)
  | (i, va) :: r, s =>
    match elemPlace c n store va s with
    | .ok (pa, s1) => let x := elemPlaces c n store r s1; ((i, va, .ok pa) :: x.1, x.2)
    | .error h => let x := elemPlaces c n store r s; ((i, va, .error h) :: x.1, x.2)

/-- The halt of a place. -/
def placeHalt : Nat × Nat × Except Halt Nat → Nat × Option Halt
  | (_, va, .ok _) => (va, none)
  | (_, va, .error h) => (va, some h)

/-- An element and its physical address, where it has one. -/
def placeOf : Nat × Nat × Except Halt Nat → Option (Nat × Nat)
  | (i, _, .ok pa) => some (i, pa)
  | _ => none

/-- The checks of every active element pass before any takes effect (R163): the elements with their physical addresses. -/
def elementChecks (c : Reg) (n : Nat) (store : Bool) (els : List (Nat × Nat)) (s : State) : Ev (List (Nat × Nat) × State) :=
  let x := elemPlaces c n store els s
  match accessHalt (x.1.map placeHalt) with
  | some (_, h) => .error h
  | none => .ok (x.1.filterMap placeOf, x.2.chunksDone)

/-- The `n` bytes at a physical address that passed its checks. -/
def loadPa (n pa : Nat) (s : State) : Nat := if inMmio pa then mmioLoad pa n s else s.loadNat pa n

/-- `n` bytes stored there. -/
def storePa (n x pa : Nat) (s : State) : State := if inMmio pa then mmioStore pa n x s else s.storeNat s.th.ctx pa n x

/-- The element stores in order. -/
def storeElems (n : Nat) (f : Nat → Nat) (els : List (Nat × Nat)) (s : State) : State :=
  els.foldl (fun s e => storePa n (f e.1) e.2 s) s

/-- A register with some elements replaced. -/
def putElems (t : Thread) (w d : Nat) (xs : List (Nat × Nat)) : Thread :=
  t.setV d (BitVec.ofNat 1024 (ofElems w ((List.range (1024 / w)).map (fun i =>
    ((xs.find? (fun x => x.1 == i)).map (·.2)).getD (t.lane w d i)))))

/-- The elements loaded into vd of the thread in focus, or stored from it. -/
def moveElems (store : Bool) (w d : Nat) (els : List (Nat × Nat)) (s : State) : State :=
  if store then storeElems (w / 8) (s.th.lane w d) els s
  else if s.racing == .off then s.up (fun t => putElems t w d (els.map (fun e => (e.1, loadPa (w / 8) e.2 s))))
  else
    let after := fun k => s.drawnEach ((els.take k).map (·.2)) (w / 8)
    (after els.length).up (fun t => putElems t w d (els.zipIdx.map (fun (e, k) => (e.1, loadPa (w / 8) e.2 (after k)))))

/-- What a vector access waits for (R155, R161, R162, R146, R292). A masked access waits for its mask: the checks of its
active elements come before any later instruction (R163). -/
def vecWaits (i : Instr) (n : Nat) (els : List (Nat × Nat)) (s : State) : Ev Unit := do
  acquired s
  if (vecReads i).contains mReg && behind s && s.entries.any (·.writes.contains mReg) then again .drain else pure ()
  seqRoom 1 s
  match accessHalt (els.map (fun e => (e.2, haltOf (do remoteFree e.2 n s; sendRead e.2 n s)))) with
  | some (_, h) => .error h
  | none => return ()

/-- VLD or VST of the active elements `els` of vd (R163): at once, or behind what the sequencer still holds. -/
def vecMove (i : Instr) (store : Bool) (c : Reg) (d : BitVec 4) (w : Nat) (els : List (Nat × Nat)) (whole : Bool)
    (s : State) : Ev State := do
  vecWaits i (w / 8) els s
  vecEcc (if whole then [] else vecReads i) s
  let (ps, s1) ← elementChecks c (w / 8) store els s
  let bytes := els.map (fun e => (e.2, w / 8))
  let s2 := if whole then { s1 with ecc := s1.ecc.filter (· != EccSite.vector s.th.launch s.th.tid d.toNat) } else s1
  if behind s then return (pushEntry [i] none bytes 1 (some ⟨[(i, 0)], s.th.vl, s.th.rm, ps⟩) none s2).advance 4
  else return (moveElems store w d.toNat ps (pushEntry [i] none bytes 1 none none s2)).advance 4

/-- Every element of a register of width `w` is written. -/
def writesWhole (t : Thread) (w : Nat) (m : BitVec 1) (els : List (Nat × Nat)) : Bool := m == 0 && decide (1024 / w ≤ t.vl) && els.length == 1024 / w

/-- VLD (R441, R442). -/
def execVld (d : BitVec 4) (a : RegField) (e : BitVec 2) (o : BitVec 6) (m : BitVec 1) (s : State) :
    Host.Outcome State Fault Refusal :=
  finish s (do
    vecLegal (.vld d a e o m) s.th
    let (xs, s1) ← operands (.vld d a e o m) [a] none s
    let els := contiguous s.th (etWidth e) (m == 1) (vmBase (nth xs 0) o)
    vecMove (.vld d a e o m) false (nth xs 0) d (etWidth e) els (writesWhole s.th (etWidth e) m els) s1)

/-- VST (R441, R442). -/
def execVst (d : BitVec 4) (a : RegField) (e : BitVec 2) (o : BitVec 6) (m : BitVec 1) (s : State) :
    Host.Outcome State Fault Refusal :=
  finish s (do
    vecLegal (.vst d a e o m) s.th
    let (xs, s1) ← operands (.vst d a e o m) [a] none s
    vecMove (.vst d a e o m) true (nth xs 0) d (etWidth e) (contiguous s.th (etWidth e) (m == 1) (vmBase (nth xs 0) o)) false s1)

/-- VLD through a shape record (R163, R441). -/
def execVldShape (d : BitVec 4) (a : RegField) (e : BitVec 2) (o : BitVec 6) (n : BitVec 5) (m : BitVec 1) (s : State) :
    Host.Outcome State Fault Refusal :=
  finish s (do
    vecLegal (.vldShape d a e o n m) s.th
    let (xs, s1) ← operands (.vldShape d a e o n m) [a] none s
    let (sl, s2) ← sliceOf (.vldShape d a e o n m) n.toNat s1
    let els := strided s.th (etWidth e) (m == 1) (vmBase (nth xs 0) o) sl
    vecMove (.vldShape d a e o n m) false (nth xs 0) d (etWidth e) els (writesWhole s.th (etWidth e) m els) s2)

/-- VST through a shape record (R163, R441). -/
def execVstShape (d : BitVec 4) (a : RegField) (e : BitVec 2) (o : BitVec 6) (n : BitVec 5) (m : BitVec 1) (s : State) :
    Host.Outcome State Fault Refusal :=
  finish s (do
    vecLegal (.vstShape d a e o n m) s.th
    let (xs, s1) ← operands (.vstShape d a e o n m) [a] none s
    let (sl, s2) ← sliceOf (.vstShape d a e o n m) n.toNat s1
    vecMove (.vstShape d a e o n m) true (nth xs 0) d (etWidth e) (strided s.th (etWidth e) (m == 1) (vmBase (nth xs 0) o) sl) false s2)

/-! ## VSETL and VSEQ (R160, R165, R166, R445) -/

/-- VSETL. -/
def execVsetl (b : BitVec 4) (h : BitVec 2) (s : State) : Host.Outcome State Fault Refusal :=
  finish s (do
    let (xs, s1) ← operands (.vsetl b h) [scalarReg h b] none s
    return (s1.up (fun t => { t with vl := min (nth xs 0).data.toNat 128 })).advance 4)

/-- A body word may be replayed for `k` passes: well formed, of opcode 0x38 or 0x39, and its registers below VREGS in every
pass that is executed (R165, R166). -/
def bodyCheck (k : Nat) (i : Option Instr) (t : Thread) : Bool :=
  match i with
  | none => false
  | some j => bodyWord j && (List.range (min k 16)).all (fun p => (vecNames (inPass p j)).all (fun n => decide (n < t.vregs)))

/-- A body word must not start the fused sequence, which counts as recognised where one of its words is ILLEGAL or
cannot be fetched (R165, R170). `n` words of the body are left, and a staggered one is none of the sequence (R166). -/
def bodyStart (whole : Instr) (n va : Nat) (i : Option Instr) (s : State) : Ev Unit :=
  match i with
  | none => .ok ()
  | some j =>
    if softmaxPrefix [j] then
      match softmaxScanIn n va 7 [j] none s with
      | .ok (none, _) => .ok ()
      | .error (.stall w) => .error (.stall w)
      | _ => illegal whole
    else .ok ()

/-- The body of a VSEQ (R165): `l` words from `va`, to run `k` passes. -/
def readBody (whole : Instr) (k : Nat) : Nat → Nat → State → Ev (List Instr × State)
  | 0, _, s => .ok ([], s)
  | l + 1, va, s => do
    let (i, s1) ← codeInstr va s
    if bodyCheck k i s1.th then pure () else illegal whole
    bodyStart whole (l + 1) va i s1
    let (is, s2) ← readBody whole k l (va + 4) s1
    return (i.toList ++ is, s2)

/-- Each body word's scalar, from the operands popped in order. -/
def bodyVals : List Instr → List Reg → List Word
  | [], _ => []
  | i :: is, xs => if (scalarOf i).isSome then (nth xs 0).data :: bodyVals is xs.tail else 0 :: bodyVals is xs

/-- The body's words as the passes run them, each form once. -/
def replayWords (passes : Nat) (body : List Instr) : List Instr :=
  (List.range (min passes 16)).flatMap (fun p => body.map (inPass p))

/-- VSEQ (R165). With zero passes the body is examined and skipped. -/
def execVseq (l b : BitVec 4) (h : BitVec 2) (s : State) : Host.Outcome State Fault Refusal :=
  let i := Instr.vseq l b h
  let n := l.toNat + 1
  finish s (do
    let (c, _) ← operands i [scalarReg h b] none s
    let passes := (nth c 0).data.toNat
    let (body, s1) ← readBody i passes n (s.th.pc.toNat + 4) s
    if passes = 0 then
      let (_, s2) ← operands i [scalarReg h b] none s1
      return s2.advance (4 + 4 * n)
    if (body.filterMap vecGdest).any (beyond s.th) then illegal i else pure ()
    let (xs, s2) ← operands i (scalarReg h b :: body.filterMap scalarOf) ((body.filterMap vecGdest).find? (awaitsReply s)) s1
    vecEcc (body.flatMap vecReads) s
    seqRoom n s
    let rp : Replay := { addr := (s.th.pc.toNat + 4) % 2 ^ 64, len := n, left := passes, pass := 0, word := 0, body := body,
                         vals := bodyVals body xs.tail, vl := s.th.vl, rm := s.th.rm }
    return (pushEntry (replayWords passes body) none [] n none (some rp) s2).advance (4 + 4 * n))

/-! ## The arbiter (R164) -/

/-- Two lists have a common member. -/
def meets (a b : List Nat) : Bool := a.any (fun x => b.contains x)

/-- The general registers that an entry's VMOVG writes, numbered after the vector registers and m. -/
def SeqEntry.gWrites (e : SeqEntry) : List Nat :=
  ((e.gdest.map (·.1)).toList ++ (e.work.map (fun w => w.words.filterMap (fun x => vecGdest x.1))).getD []).map (fun r => 32 + r.toNat)

/-- `e` waits for an earlier entry `f` of its thread that is bound and not complete (R164). -/
def SeqEntry.waitsFor (e f : SeqEntry) : Bool :=
  f.launch == e.launch && f.tid == e.tid && f.lane.isSome &&
    (meets e.reads f.writes || meets e.writes f.reads || meets e.writes f.writes || meets e.gWrites f.gWrites)

/-- The next word that a replay binds, as an entry of its own; any other entry itself. -/
def SeqEntry.next (e : SeqEntry) : SeqEntry :=
  match e.replay with
  | none => e
  | some rp =>
    match (rp.body.zip rp.vals)[rp.word]? with
    | none => e
    | some (i, y) =>
      { e with reads := vecReads (inPass rp.pass i), writes := vecWrites (inPass rp.pass i), held := 0, replay := none,
               work := some ⟨[(inPass rp.pass i, y)], rp.vl, rp.rm, []⟩ }

/-- A replay whose next word is bound. -/
def Replay.advance (r : Replay) : Replay :=
  if r.body.length ≤ r.word + 1 then { r with word := 0, left := r.left - 1, pass := r.pass + 1 } else { r with word := r.word + 1 }

/-- An entry of a core that is not bound, or not all of whose passes are. -/
def unbound (quire core : Nat) (e : SeqEntry) : Bool :=
  e.quire == quire && e.core == core && e.lane.isNone && e.replay.all (fun r => decide (0 < r.left))

/-- The head of a core's sequencer, where it is ready: the oldest unbound entry, if it waits for no bound one (R164). -/
def readyHead (s : State) (quire core : Nat) : Option SeqEntry :=
  (s.seqs.find? (unbound quire core)).filter (fun e => !s.seqs.any (fun f => e.next.waitsFor f))

/-- The weight of a core's head: 1 + PRIO div 16 of its thread (R164). -/
def headWeight (s : State) (e : SeqEntry) : Nat := 1 + ((s.find e.launch e.tid).map (·.prio)).getD 0 / 16

/-- Whose turn it is at a quire's lane groups, and how many entries it has bound in this turn; core 0's before any
(assumption 55). -/
def vecTurn (s : State) (quire : Nat) : Nat × Nat := ((s.vecTurns.find? (fun x => x.1 == quire)).map (·.2)).getD (0, 0)

/-- The core that binds next, with what it has bound in this turn: the one whose turn it is while its weight lasts, else
the next one in order that has a ready head (R164). -/
def nextTurn (s : State) (quire : Nat) : Option (Nat × Nat) :=
  let (c, k) := vecTurn s quire
  if (readyHead s quire c).any (fun e => decide (k < headWeight s e)) then some (c, k)
  else (((List.range 8).map (fun j => (c + 1 + j) % 8)).find? (fun d => (readyHead s quire d).isSome)).map (fun d => (d, 0))

/-- The first entry that `p` picks bound: itself, or the next word of a replay before the rest of it. -/
def bindFirst (p : SeqEntry → Bool) (lane : Nat) : List SeqEntry → List SeqEntry
  | [] => []
  | e :: r =>
    if p e then
      match e.replay with
      | none => { e with lane := some lane } :: r
      | some rp => { e.next with lane := some lane } :: { e with replay := some rp.advance } :: r
    else e :: bindFirst p lane r

/-- VECTOR_ENTRY_BIND: a free lane group binds the ready head of the core whose turn it is. -/
def execVectorEntryBind (quire core lane : Nat) (s : State) : Host.Outcome State Fault Refusal :=
  let taken := s.seqs.any (fun e => e.quire == quire && e.lane == some lane)
  match nextTurn s quire with
  | none => .next s
  | some (c, k) =>
    if 4 ≤ lane || taken || c ≠ core then .next s
    else .next { s with seqs := bindFirst (unbound quire core) lane s.seqs
                        vecTurns := (quire, core, k + 1) :: s.vecTurns.filter (fun x => x.1 != quire) }

/-! ## Completion -/

/-- A VMOVG's result written on its thread. -/
def writeMoved (e : SeqEntry) (r : RegField) (w : Word) (s : State) : State :=
  let s1 := s.onThread e.launch e.tid (fun t => t.setReg r.toNat (Reg.ofData w))
  { s1 with ecc := s1.ecc.filter (· != .general e.launch e.tid r) }

/-- One word's effect on its thread. -/
def lateWord (e : SeqEntry) (w : VecWork) (s : State) (x : Instr × Word) : State :=
  match s.find e.launch e.tid with
  | none => s
  | some t =>
    match vecResult x.1 t with
    | some (r, y) => writeMoved e r y s
    | none => s.onThread e.launch e.tid (vecEffect x.1 x.2 w.vl w.rm)

/-- Whether a word is a VLD or VST, with its direction, width and register. -/
def vecMoves : Instr → Option (Bool × Nat × Nat)
  | .vld d _ e _ _ => some (false, etWidth e, d.toNat)
  | .vldShape d _ e _ _ _ => some (false, etWidth e, d.toNat)
  | .vst d _ e _ _ => some (true, etWidth e, d.toNat)
  | .vstShape d _ e _ _ _ => some (true, etWidth e, d.toNat)
  | _ => none

/-- The words of an entry whose effect comes with its completion. -/
def runWork (e : SeqEntry) (w : VecWork) (s : State) : State :=
  match w.words.head?.bind (fun x => vecMoves x.1), s.find e.launch e.tid with
  | some (store, width, d), some t =>
    let u := moveElems store width d w.elems { s with th := t }
    { u with th := s.th }.onThread e.launch e.tid (fun _ => u.th)
  | some _, none => s
  | none, _ => w.words.foldl (lateWord e w) s

/-- What a bound entry does when it completes. -/
def completeEntry (e : SeqEntry) (s : State) : State :=
  match e.work, e.gdest with
  | some w, _ => runWork e w s
  | none, some (r, w) => writeMoved e r w s
  | none, none => s

/-- Replays that are over, gone: every pass is bound, and no word that it bound stands before it any more (R165). -/
def dropReplays : Bool → List SeqEntry → List SeqEntry
  | _, [] => []
  | bound, e :: r =>
    if !bound && e.replay.any (fun rp => rp.left == 0) then dropReplays false r else e :: dropReplays (decide (e.held = 0)) r

/-- The sequencers without the first entry that `p` picks. -/
def withoutEntry (p : SeqEntry → Bool) (l : List SeqEntry) : List SeqEntry := dropReplays false (l.eraseP p)

/-- VECTOR_ENTRY_COMPLETION: the entry bound to a lane group completes and frees it. -/
def execVectorEntryCompletion (quire lane : Nat) (s : State) : Host.Outcome State Fault Refusal :=
  let here := fun (e : SeqEntry) => e.quire == quire && e.lane == some lane
  match s.seqs.find? here with
  | none => .next s
  | some e => .next { completeEntry e s with seqs := withoutEntry here (completeEntry e s).seqs }

end Sys2Proof.Machine
end

