-- ==== Sys2Proof/Machine/Sched.lean ====
section
/-!
DEFINITION. How slots go on: the ends of stalls and suspensions (R12, R13, R46, R292, R293, R347), pending traps
(R30, R254, R311, R313), write-back, pick-up, pre-emption and forced saves (R167, R253, R306 to R309, R316 to R325, R378).
-/
namespace Sys2Proof.Machine

/-! ## SLOT_STALL_END (R12, R46) -/

/-- What an instruction waits for is there. -/
def whyGone (w : Why) (s : State) : Bool :=
  match w with
  | .drain => s.entries.isEmpty
  | .register r => !awaits s r
  | .pop r => hasElement s s.th (qNum r)
  | .inject => !injectFull s
  | .sequencer => decide (seqUsed s s.th.quire s.th.core < 16)
  | .replies n => decide (s.th.replies < n)
  | .queue cls unit => !queueFull cls unit s
  | .bytes lo hi => !entryTouches s lo (hi - lo) && !s.issued.any (holdsBytes s lo (hi - lo))
  | .acks => s.issued.all (·.performed)
  | .acquire => !s.mine.any (·.acq)
  | .counter q k v => decide (v.toNat ≤ (s.counter q k).toNat)
  | .idle => !s.th.mbox.isEmpty || s.th.preempt.isSome
  | .phase => s.th.phase.isNone
  | .walk c va w _ => walk s c va (if w then .store else .load) != .park
  | .spillWalk c va _ => walk s c va .store != .park
  | .poolWalk c va => walk s c va .store != .park || s.th.waitedOut va s.cycle.toNat
  | .noPhase => !phaseOpen s
  | .sendBytes => true
  | .walkSlot since => !walkHeld s (dieOf s.th.quire) since

/-- The turn of a thread that has waited for a walk, or whose parked walk has come to its end (R136, R138). -/
def turnAfter (w : Why) (t : Thread) : Option Nat :=
  match w with
  | .walkSlot n => some n
  | .walk _ _ _ _ => some 0
  | .spillWalk _ _ _ => some 0
  | .poolWalk _ _ => some 0
  | _ => t.turn

/-- What the stream register that an instruction pops from takes from its holder. -/
def refillFor (w : Why) (s : State) : State :=
  match w with
  | .pop r => refill (qNum r) s
  | _ => s

/-- SRECV ends: OUT_OF_SLOT reason 5 where a cycle of its window captured nothing (R293). -/
def endSrecv (w : Window) (s0 : State) : State :=
  let s := storeHeld w s0
  if w.full then s.advance 4
  else takeTrap .outOfSlot false (slotTval 5 ((s.th.phase.map (·.domain)).getD 0) w.index) s.th.pc false s

/-- The remaining passes of a replay and the words that stood behind it back in the sequencer, once it has room for them:
fetch restarts after them (R161, R167). -/
def resumeReplay (s : State) : State :=
  let rp := s.th.replay.filter (fun r => decide (0 < r.left))
  let held := ((rp.map (·.len)).getD 0) + (s.th.vecBehind.map (·.held)).sum
  if rp.isNone && s.th.vecBehind.isEmpty then s.up (fun t => { t with replay := none })
  else if (seqRoom held s).toBool then
    let s1 := match rp with | some r => pushEntry (replayWords 16 r.body) none [] r.len none (some r) s | none => s
    let s2 := { s1 with seqs := s1.seqs ++ s.th.vecBehind.map (fun (e : SeqEntry) => { e with quire := s.th.quire, core := s.th.core }) }
    s2.up (fun t => { t with replay := none, vecBehind := [], stall := some (.retry .drain) })
  else s.up (fun t => { t with stall := some (.retry .sequencer) })

/-- The thread in focus after its stall, where it can end; an instruction that has had no effect issues again. At a
suspension point whose condition did not hold only a thread in an open phase goes on in its slot; any other is written
back first (R12, R296). -/
def endStall (s : State) : State :=
  match s.th.stall with
  | none => s
  | some (.retry w) => if whyGone w s then resumeReplay ((refillFor w s).up (fun t => { t with stall := none, turn := turnAfter w t })) else s
  | some (.suspend w) => if s.th.phase.isSome && waitHolds s s.th w then s.up (·.afterWait w) else s
  | some (.cbadv p n w _) => if cbadvDone p n w s then s.advance 4 else s
  | some (.ssend _) => if s.th.phase.all (ssendDone s.cycle.toNat) then s.advance 4 else s
  | some (.srecv _) =>
    match s.th.phase with
    | none => s.advance 4
    | some p => match (srecvWindow s.cycle.toNat p).filter (fun w => !w.waits s) with
      | some w => endSrecv w s
      | none => s
  | some .exit => if s.th.replies = 0 then endThread s else s
  | some (.whistle _ _) => s
  | some (.tlbi _) => s

/-- SLOT_STALL_END. A gang's members go on together, as the gang issues (R28). -/
def execSlotStallEnd (s : State) : Host.Outcome State Fault Refusal := .next (if s.th.ganged then s else endStall s)

/-! ## TRAP_ENTRY (R30, R254, R311) -/

/-- The wait of kind 7 of a thread withdrawn, if it has one: a leader's claims, or the claim on a follower, are void; the
followers that are free again are claimed by the leaders that wait, and a gang forms that is complete then (R378). -/
def withdrawWait (launch tid : Nat) (s : State) : State :=
  if !s.gangWaits.any (fun w => w.launch == launch && w.tid == tid) then s
  else
    let kept := s.gangWaits.filter (fun w => !(w.launch == launch && w.tid == tid))
    formGangs { s with gangWaits := claimAll (kept.map (fun w =>
      if w.launch == launch && w.claimed == some tid then { w with claimed := none } else w)) }

/-- The thread in focus takes the trap that waits for this instruction boundary: one that its instruction raised or a
gang's job first, then the oldest remote fault. One that waits in the rendezvous of GANG leaves it (R378). -/
def takePending (s0 : State) : State :=
  if !s0.th.trapPending then s0
  else
    let s := withdrawWait s0.th.launch s0.th.tid s0
    match s.th.pendTraps.find? (·.due s.th), s.th.rfq with
    | some p, _ =>
      if p.dead then becomeFaulted s.th.pc (s.up (trapRegs s.cycle.toNat p.cause false p.tval s.th.pc))
      else takeTrap p.cause p.job p.tval s.th.pc false (s.up (fun t => { t with pendTraps := t.pendTraps.erase p }))
    | none, v :: r => takeTrap .remoteFault false v s.th.pc false (s.up (fun t => { t with rfq := r }))
    | none, [] => s

/-- TRAP_ENTRY. A gang's members take their traps as the gang issues, which breaks it (R29). -/
def execTrapEntry (s : State) : Host.Outcome State Fault Refusal := .next (if s.th.ganged then s else takePending s)

/-! ## Gangs in their slots -/

/-- The wait descriptor of a thread at a suspension point. -/
def Thread.suspendedAt (t : Thread) : Option Word :=
  match t.stall with
  | some (.suspend w) => some w
  | _ => none

/-- The thread waits in the rendezvous of GANG, in its slot. -/
def Thread.inRendezvous (t : Thread) : Bool := t.suspendedAt.any (fun w => waitKind w == 7)

/-- The gang of the thread in focus, or the thread alone. -/
def unitOf (s : State) : List Nat := if s.th.inRendezvous then [s.th.tid] else pushers s

/-- `f` for each of several threads of a launch, each brought into focus; nothing where one fails. Where a gang breaks
on the way, the rest of it is left in its slots (R29). -/
def eachFocus (f : State → Option State) (launch : Nat) : List Nat → State → Option State
  | [], s => some s
  | t :: r, s =>
    match f (s.focusOn launch t) with
    | none => none
    | some s1 => if s.th.ganged && s1.gangs.length != s.gangs.length then some s1 else eachFocus f launch r s1

/-- Every one of several threads of a launch, each brought into focus, meets `p`. -/
def allFocus (p : State → Bool) (launch : Nat) (ts : List Nat) (s : State) : Bool :=
  ts.all (fun t => (s.focusOn launch t).th.is launch t && p (s.focusOn launch t))

/-! ## WRITE_BACK (R12, R13, R28, R378) -/

/-- A thread may be written back at its suspension point. -/
def mayWriteBack (s : State) : Bool :=
  s.th.code == .running && s.th.phase.isNone && s.entries.isEmpty && !s.th.trapPending && s.th.suspendedAt.isSome

/-- The thread's record after a write-back at its suspension point. -/
def Thread.atSuspension (t : Thread) : Thread :=
  match t.suspendedAt with
  | some w => { t with code := .suspended, wait := w, liveSet := none }
  | none => t

/-- The saved threads that are resumed together with one: its gang, which is suspended as one unit, or the thread alone,
which a waiter in the rendezvous is (R28, R378). -/
def wakeUnit (t : Thread) (s : State) : List Nat :=
  if waitKind t.wait == 7 then [t.tid] else ((s.gangOf t.launch t.tid).map (·.members)).getD [t.tid]

/-- A saved thread is suspended, and its condition holds. -/
def wakes (launch tid : Nat) (s : State) : Bool :=
  (s.conts.find? (·.is launch tid)).any (fun t => t.code == .suspended && waitHolds s t t.wait)

/-- The instruction at which a thread's gang waits is over (R28, R30). -/
def waitEnds (launch tid : Nat) (s : State) : State :=
  { s with gangs := s.gangs.map (fun g => if g.launch == launch && g.members.contains tid then { g with waits := none, popped := [] } else g) }

/-- A saved thread whose condition holds, at the test after the write-back or later, is ready past its suspension point
(R13); a gang once every member's does (R28). -/
def retest (launch tid : Nat) (s : State) : State :=
  match s.conts.find? (·.is launch tid) with
  | none => s
  | some t =>
    if (wakeUnit t s).all (fun m => wakes launch m s) then
      let s1 := if waitKind t.wait == 7 then s else waitEnds launch tid s
      (wakeUnit t s).foldl (fun s m => saveRecord launch m (s.onThread launch m (makeReady true s.cycle.toNat))) s1
    else s

/-- A thread that waits in the rendezvous while its pre-emption is pending. -/
def preemptedWait (t : Thread) : Bool := t.preempt.isSome && t.inRendezvous && !t.ganged

/-- The thread in focus written back at its suspension point. -/
def suspendThread (s : State) : Option State :=
  let t := s.th
  if preemptedWait t then
    writeBack { t with code := .ready, wait := 0, liveSet := none, stall := none } (withdrawWait t.launch t.tid s)
  else (writeBack t.atSuspension s).map (fun r =>
    if (r.conts.find? (·.is t.launch t.tid)).any (·.code == .suspended) then retest t.launch t.tid r else withdrawWait t.launch t.tid r)

/-- Several threads of a launch that keep their slots, noted where a page of their pool entries parks (R138). -/
def keepSlots (launch : Nat) (ts : List Nat) (s : State) : State :=
  ts.foldl (fun x t => x.onThread launch t (fun u => keptThread u s)) s

/-- WRITE_BACK: the thread in focus, or its gang as one unit. -/
def execWriteBack (s : State) : Host.Outcome State Fault Refusal :=
  let ts := unitOf s
  let launch := s.th.launch
  if !allFocus mayWriteBack launch ts s || !ts.any (fun t => (s.focusOn launch t).th.suspendedAt.isSome) then .next s
  else .next ((eachFocus suspendThread launch ts s).getD (keepSlots launch ts s))

/-! ## WAKE_UP (R13, R313) -/

/-- A saved thread becomes faulted, and never runs; its gang breaks (R10, R29, R312, R320, R326). -/
def faultSaved (c : Cause) (v : Word) (t : Thread) (s : State) : State :=
  let sb := withdrawWait t.launch t.tid (breakAround t s)
  let s0 := { sb with conts := sb.conts.filter (fun x => !x.is t.launch t.tid), others := sb.slots }
  let s1 := becomeFaulted t.pc { s0 with th := { trapRegs s.cycle.toNat c false v t.pc t with code := .running } }
  if s.th.code == .running then s1.focus s.th.quire s.th.core s.th.slot else { s1 with th := s.th }

/-- WAKE_UP: a saved thread whose condition holds is ready past its suspension point; one with a trap pending is
ready at it, and its gang breaks (R29, R381). One whose save area has faulted becomes faulted (R320). -/
def execWakeUp (launch tid : Nat) (s : State) : Host.Outcome State Fault Refusal :=
  match s.conts.find? (·.is launch tid) with
  | none => .next s
  | some t =>
    match t.pendTraps.find? (·.dead) with
    | some p => .next (faultSaved p.cause p.tval t s)
    | none =>
    if t.code != .suspended then .next s
    else if t.pendTraps.any (·.now) then
      .next (saveRecord launch tid ((withdrawWait launch tid (breakAround t s)).onThread launch tid (makeReady false s.cycle.toNat)))
    else .next (retest launch tid s)

/-! ## Slots (R11, R304, R331, R378) -/

/-- A saved thread to which a slot is reserved. -/
def reserves (q c k : Nat) (t : Thread) : Bool := t.inSlot q c k && (t.code == .suspended || t.code == .ready) && waitKind t.wait == 7

/-- A saved thread that holds a slot reserved. -/
def State.reserver (s : State) (q c k : Nat) : Option Thread := s.conts.find? (reserves q c k)

/-- The slot holds no thread, and its quire is in service. -/
def slotFree (s : State) (q c k : Nat) : Bool :=
  decide (q < quireCount) && decide (c < 8) && decide (k < 8) && !s.boot.disabled.contains q && !s.slots.any (·.inSlot q c k)

/-- A saved thread may run in a slot: its home, its pin and reservations allow it. -/
def mayUse (s : State) (t : Thread) (q c k : Nat) : Bool :=
  t.quire == q && t.pin.all (fun p => p == (c, k)) &&
    (match s.reserver q c k with
     | some r => r.is t.launch t.tid
     | none => waitKind t.wait != 7 || t.inSlot q c k)

/-- A saved thread that could be picked up. -/
def readyNow (s : State) (t : Thread) : Bool :=
  t.code == .ready && !t.transit && t.replies == 0 && !t.pendTraps.any (·.dead) && tierWeight s.tierw t.tier != 0

/-- The members of a saved thread's gang with the slot each would take from core `c` on, or the thread itself; none
where it is no leader or a member is not ready (R28). A member that comes from the rendezvous takes its own slot (R378). -/
def placesFrom (s : State) (t : Thread) (q c k : Nat) : Option (List (Thread × Nat)) :=
  if !t.ganged || waitKind t.wait == 7 then some [(t, c)]
  else
    match s.gangOf t.launch t.tid with
    | none => some [(t, c)]
    | some g =>
      if g.members.head? != some t.tid then none
      else
        g.members.zipIdx.mapM (fun (m, i) => (s.conts.find? (·.is t.launch m)).bind (fun u =>
          if readyNow s u && mayUse s u q ((c + i) % 8) k then some (u, (c + i) % 8) else none))

/-- A saved thread, with its gang, fits the free slots from a slot on. -/
def fits (s : State) (q c k : Nat) (t : Thread) : Bool :=
  readyNow s t && mayUse s t q c k && (placesFrom s t q c k).any (fun l => l.all (fun x => slotFree s q x.2 k))

/-! ## The order of pick-up (R301, R307) -/

/-- The quire charge of a tier. -/
def State.quireCharge (s : State) (tier q : Nat) : Nat := sparseGet 0 s.quireCharges (chargeKey tier q)

/-- Tier `a`'s ratio on a quire is below tier `b`'s. -/
def ratioBelow (s : State) (q a b : Nat) : Bool :=
  decide (s.quireCharge a q * tierWeight s.tierw b < s.quireCharge b q * tierWeight s.tierw a)

/-- Deadline `a` comes before `b`: 0 after every other. -/
def deadlineBelow (a b : Word) : Bool := a != 0 && (b == 0 || decide (a.toNat < b.toNat))

/-- Thread `a` comes before `b` (R307). -/
def pickedBefore (s : State) (q : Nat) (a b : Thread) : Bool :=
  if ratioBelow s q a.tier b.tier then true
  else if ratioBelow s q b.tier a.tier then false
  else if a.prio ≠ b.prio then decide (b.prio < a.prio)
  else if deadlineBelow a.deadline b.deadline then true
  else if deadlineBelow b.deadline a.deadline then false
  else decide (a.readyAt < b.readyAt)

/-- The first of several threads. -/
def firstPicked (s : State) (q : Nat) : List Thread → Option Thread
  | [] => none
  | t :: r =>
    match firstPicked s q r with
    | none => some t
    | some u => if pickedBefore s q u t then some u else some t

/-! ## Restoring (R323) -/

/-- Why a thread cannot be picked up now: a page whose walk meets MIG = 1, or a fault. -/
abbrev PickHalt := Nat ⊕ (Cause × Word)

/-- The image of a line read: its bytes, the fault with its cause, or the page whose walk meets MIG = 1, or that the image
itself waits to be written to (R138, R320). -/
def readLineImage (t : Thread) (n : Nat) (s : State) : Except PickHalt (List Byte) :=
  let va := saveVa s t.ctx (64 * n)
  if s.images.any (fun i => i.ctx == t.ctx && i.num == n) then .error (.inl va)
  else
    match walk s t.ctx va .load with
    | .fault v => .error (.inr (.pageFault, v))
    | .bad => .error (.inr (.eccUncorrected, BitVec.ofNat 64 va))
    | .park => .error (.inl va)
    | .ok pa _ _ _ _ => if eccAt s pa 64 then .error (.inr (.eccUncorrected, BitVec.ofNat 64 va)) else .ok (s.mem.readBytes pa 64)

/-- A lost line restored for a thread, or its bytes unbounded. -/
def restoreOne (t : Thread) (l : Line) (s : State) : Except PickHalt State :=
  if restoreLine s t l.num = some true then
    (readLineImage t l.num s).map (fun bs => s.store t.ctx (64 * l.num) bs)
  else
    .ok ({ s with free := s.free + 64 }.store t.ctx (64 * l.num) ((List.range 64).map (fun k => Config.freeByte (s.free + k))))

/-- The lost lines of the home slice restored. -/
def restoreLines (t : Thread) : List Line → State → Except PickHalt State
  | [], s => .ok s
  | l :: r, s =>
    match restoreOne t l s with
    | .ok s1 => restoreLines t r s1
    | .error e => .error e

/-- The slice data of a thread that is picked up. -/
def restoreSlice (t : Thread) (s : State) : Except PickHalt State := restoreLines t (s.lines.filter (lineLost s t)) s

/-! ## PICKUP (R10, R12, R253, R307, R326) -/

/-- The key under which a slot's continuation serials are counted, beside those of the engines. -/
def slotKey (q c k : Nat) : Nat := 4096 + 64 * q + 8 * c + k

/-- How many serials a slot has taken. -/
def slotSerials (s : State) (q c k : Nat) : Nat := ((s.serials.find? (fun x => x.1 == slotKey q c k)).map (·.2)).getD 0

/-- A forwarding entry of the core's interface holds the serial. -/
def serialHeld (s : State) (q c n : Nat) : Bool := s.forwards.any (fun f => f.quire == q && f.core == c && f.serial.toNat == n % 4096)

/-- The slot's next serial (R253). -/
def nextSlotSerial (s : State) (q c k : Nat) : Nat :=
  ((List.range 257).map (fun i => slotSerials s q c k + i)).find? (fun n => !serialHeld s q c n) |>.getD 0

/-- A serial taken by a slot. -/
def takeSlotSerial (q c k n : Nat) (s : State) : State :=
  { s with serials := (slotKey q c k, n + 1) :: s.serials.filter (fun x => x.1 != slotKey q c k) }

/-- Why a record or frame cannot be picked up. DESIGN CHOICE (assumption 40): TVAL of ILLEGAL is 0 for a record with a
reserved CODE or bit, for which R10 names no word. -/
def pickupFault (t : Thread) (s : State) : Cause × Word :=
  match poolFault s t with
  | some f => f
  | none =>
    match ctxWords s t.ctx (recordVa s t.ctx t.pool) 8 with
    | none => (.eccUncorrected, BitVec.ofNat 64 (recordVa s t.ctx t.pool))
    | some _ => if (loadRecord s t).isNone then (.illegal, 0) else (.eccUncorrected, BitVec.ofNat 64 (frameVa s t.ctx t.pool))

/-- The thread as its record and frame give it. -/
def loadThread (t : Thread) (s : State) : Option Thread := (loadRecord s t).bind (loadFrame s)

/-- The launch has a thread that ran; LATE where that was after the deadline (R305). -/
def markStarted (now : Nat) (l : Launch) : Launch :=
  if l.started then l else { l with started := true, late := l.deadline != 0 && decide (l.deadline.toNat < now) }

/-- A loaded thread in its slot, in focus. -/
def enterSlot (t : Thread) (c k : Nat) (s : State) : State :=
  let n := nextSlotSerial s t.quire c k
  let u := { t with code := .running, core := c, slot := k, serial := BitVec.ofNat 12 n, wait := 0, preempt := none,
                    ckptAt := s.cycle.toNat, parkedAt := none, requeued := false }
  let s1 := { takeSlotSerial t.quire c k n s with
    th := u
    others := s.slots
    conts := s.conts.filter (fun x => !x.is t.launch t.tid)
    icache := s.icache.filter (fun l =>
      !(l.quire == t.quire && l.core == c && l.ctx == t.ctx && t.synced.contains (l.va / 4096))) }
  resumeReplay (((storeRecord u s1).getD s1).onLaunch t.launch (markStarted s.now))

/-- A thread that has not run, with the tier and priority that its queue gave it before its launch started (R300). -/
def asQueued (t : Thread) (u : Thread) : Thread :=
  if t.requeued then { u with tier := t.tier, queuePrio := t.queuePrio, prio := t.prio } else u

/-- A saved thread that a page of its own keeps from its pick-up, noted (R138). -/
def parkSaved (t : Thread) (va : Nat) (s : State) : State := s.onThread t.launch t.tid (·.noteParked va s.cycle.toNat)

/-- One continuation picked up; one that cannot be becomes faulted, at once or after 10 ms of MIG = 1 (R138, R320, R321). -/
def pickThread (c k : Nat) (t : Thread) (s : State) : State :=
  match poolFault s t, poolPark s t with
  | none, some va => parkSaved t va s
  | _, _ =>
    match (loadThread t s).map (asQueued t) with
    | none => let f := pickupFault t s; faultSaved f.1 f.2 t s
    | some u =>
      if u.code != .ready then s
      else
        match restoreSlice u s with
        | .error (.inr f) => faultSaved f.1 f.2 t (s.setStat t.ctx 17)
        | .error (.inl va) =>
          if t.waitedOut va s.cycle.toNat then faultSaved .pageFault (migrationTval s t.ctx va) t (s.setStat t.ctx 17)
          else parkSaved t va s
        | .ok s1 => enterSlot u c k s1

/-- The threads of a unit picked up, each as the saved one is by then; where the gang breaks on the way, the rest stays
saved (R29). -/
def pickAll (k : Nat) : List (Thread × Nat) → State → State
  | [], s => s
  | (t, c) :: r, s =>
    match s.conts.find? (·.is t.launch t.tid) with
    | none => pickAll k r s
    | some u => if u.ganged == t.ganged then pickAll k r (pickThread c k u s) else s

/-- PICKUP: a free slot picks up the first of the ready continuations that fit it. -/
def execPickup (quire core slot : Nat) (s : State) : Host.Outcome State Fault Refusal :=
  if !slotFree s quire core slot then .next s
  else
    match firstPicked s quire (s.conts.filter (fits s quire core slot)) with
    | none => .next s
    | some t => .next (pickAll slot ((placesFrom s t quire core slot).getD []) s)

/-! ## PREEMPTION_REQUEST (R307, R378) -/

/-- Who holds a slot. -/
def holder (s : State) (q c k : Nat) : Option Thread :=
  match s.slots.find? (·.inSlot q c k) with
  | some t => some t
  | none => s.reserver q c k

/-- The slots that a saved thread may use. -/
def usableSlots (s : State) (t : Thread) : List (Nat × Nat) :=
  ((List.range 8).flatMap (fun c => (List.range 8).map (fun k => (c, k)))).filter (fun (c, k) =>
    t.pin.all (fun p => p == (c, k)) && (waitKind t.wait != 7 || t.inSlot t.quire c k) && !s.boot.disabled.contains t.quire)

/-- A ready thread finds every slot held by tiers with greater ratios. -/
def crowdedOut (s : State) (t : Thread) : Bool :=
  readyNow s t && !(usableSlots s t).isEmpty &&
    (usableSlots s t).all (fun (c, k) => (holder s t.quire c k).any (fun h => ratioBelow s t.quire t.tier h.tier))

/-- `v` holds a slot of a thread that is crowded out, and no such slot's tier has a greater ratio. -/
def victim (s : State) (t v : Thread) : Bool :=
  (usableSlots s t).any (fun (c, k) => (holder s t.quire c k).any (fun h => h.is v.launch v.tid)) &&
    (usableSlots s t).all (fun (c, k) => (holder s t.quire c k).all (fun h => !ratioBelow s t.quire v.tier h.tier))

/-- The request reaches a thread: a saved one that waits in the rendezvous gives up its wait (R378). -/
def requestPreempt (v : Thread) (s : State) : State :=
  if s.isSaved v.launch v.tid then
    (if v.code == .suspended && !v.ganged then
      saveRecord v.launch v.tid ((withdrawWait v.launch v.tid s).onThread v.launch v.tid (fun t =>
        { t with code := .ready, wait := 0, readyAt := s.cycle.toNat }))
     else s)
  else s.onThread v.launch v.tid (fun t => { t with preempt := some (t.preempt.getD s.cycle.toNat) })

/-- PREEMPTION_REQUEST. -/
def execPreemptionRequest (launch tid : Nat) (s : State) : Host.Outcome State Fault Refusal :=
  match s.find launch tid with
  | none => .next s
  | some v => if s.conts.any (fun t => crowdedOut s t && victim s t v) then .next (requestPreempt v s) else .next s

/-! ## FORCED_SAVE (R167, R297, R322) -/

/-- 500 µs in core cycles. -/
def overrunLimit : Nat := 600000

/-- No phase, and no arrival in a domain, holds the thread (R297). -/
def Thread.unheld (t : Thread) : Bool :=
  t.phase.isNone && (match t.stall with | some (.whistle _ _) => false | _ => true)

/-- A slot's thread has not reached a checkpoint in time. -/
def overran (now : Nat) (t : Thread) : Bool := t.unheld && t.preempt.any (fun p => decide (p + overrunLimit ≤ now))

/-- The thread in focus can be saved now: nothing of it is in flight, and what is left of it in the sequencer is a replay
between passes, with what was pushed behind it (R167, assumption 55). -/
def mayForce (s : State) : Bool :=
  s.th.code == .running && s.th.unheld && !s.th.trapPending && s.entries.all (·.lane.isNone) &&
    s.entries.head?.all (fun e => e.replay.any (·.word == 0))

/-- The thread in focus with its replay, and what stands behind it, out of the sequencer (R167). -/
def endReplay (s : State) : State :=
  match s.entries with
  | [] => s
  | e :: r =>
    { s with
      th := { s.th with replay := e.replay.filter (fun x => decide (0 < x.left)), vecBehind := r }
      seqs := s.seqs.filter (fun e => !(e.launch == s.th.launch && e.tid == s.th.tid)) }

/-- The thread in focus force-saved: a stalled instruction is abandoned, and issues again on resume. -/
def forceThread (s : State) : Option State :=
  let s1 := endReplay s
  match s1.th.suspendedAt with
  | some _ => suspendThread s1
  | none => writeBack { s1.th with code := .ready, wait := 0, liveSet := none } s1

/-- CTXSTAT after a forced save: OVERRUNS saturates, and LASTCAUSE is 0x0F (R320, R322). -/
def overrunStat (w : Word) : Word :=
  let n := min (bits w.toNat 15 0 + 1) 65535
  BitVec.ofNat 64 (n + bits w.toNat 23 16 * 2 ^ 16 + 0x0F * 2 ^ 24)

/-- FORCED_SAVE: of the first slot that is due, with its gang. -/
def execForcedSave (s : State) : Host.Outcome State Fault Refusal :=
  match s.slots.find? (overran s.cycle.toNat) with
  | none => .next s
  | some t =>
    let s1 := s.focusOn t.launch t.tid
    let ts := unitOf s1
    if !allFocus mayForce t.launch ts s1 then .next s
    else
      match eachFocus forceThread t.launch ts s1 with
      | none => .next (keepSlots t.launch ts s)
      | some s2 => .next (s2.setCtx t.ctx (fun c => { c with stat := overrunStat c.stat }))

/-! ## ACCOUNTING_ROUND (R307) -/

/-- ACCOUNTING_ROUND: charges return to zero at the boundary, which the cycles that pass beyond it do as well. -/
def execAccountingRound (s : State) : Host.Outcome State Fault Refusal :=
  if s.cycle.toNat < s.roundAt + roundLength then .next s
  else
    .next { s with charges := Vector.replicate 8 0, quireCharges := []
                   roundAt := s.roundAt + (s.cycle.toNat - s.roundAt) / roundLength * roundLength }

end Sys2Proof.Machine
end

