-- ==== Sys2Proof/Machine/Dispatch.lean ====
section
/-!
DEFINITION. One arm per constructor of Instr: a direct call of its meaning.
-/
namespace Sys2Proof.Machine
open Sys2Proof

/-- The meaning of an instruction, control word, tile command, routine slot or device step, in a state. -/
def exec (i : Instr) (s : State) : Host.Outcome State Fault Refusal :=
  match i with
  | .add d a b => Sys2Proof.Machine.execAdd d a b s
  | .sub d a b => Sys2Proof.Machine.execSub d a b s
  | .mul d a b => Sys2Proof.Machine.execMul d a b s
  | .mulh d a b => Sys2Proof.Machine.execMulh d a b s
  | .mulhU d a b => Sys2Proof.Machine.execMulhU d a b s
  | .div d a b => Sys2Proof.Machine.execDiv d a b s
  | .divU d a b => Sys2Proof.Machine.execDivU d a b s
  | .rem d a b => Sys2Proof.Machine.execRem d a b s
  | .remU d a b => Sys2Proof.Machine.execRemU d a b s
  | .and d a b => Sys2Proof.Machine.execAnd d a b s
  | .andn d a b => Sys2Proof.Machine.execAndn d a b s
  | .or d a b => Sys2Proof.Machine.execOr d a b s
  | .xor d a b => Sys2Proof.Machine.execXor d a b s
  | .shl d a b => Sys2Proof.Machine.execShl d a b s
  | .shr d a b => Sys2Proof.Machine.execShr d a b s
  | .shrA d a b => Sys2Proof.Machine.execShrA d a b s
  | .rot d a b => Sys2Proof.Machine.execRot d a b s
  | .min d a b => Sys2Proof.Machine.execMin d a b s
  | .minU d a b => Sys2Proof.Machine.execMinU d a b s
  | .max d a b => Sys2Proof.Machine.execMax d a b s
  | .maxU d a b => Sys2Proof.Machine.execMaxU d a b s
  | .sel d a b => Sys2Proof.Machine.execSel d a b s
  | .clz d a => Sys2Proof.Machine.execClz d a s
  | .ctz d a => Sys2Proof.Machine.execCtz d a s
  | .popc d a => Sys2Proof.Machine.execPopc d a s
  | .set d a b c => Sys2Proof.Machine.execSet d a b c s
  | .addsh d a b s0 => Sys2Proof.Machine.execAddsh d a b s0 s
  | .addi d a i0 => Sys2Proof.Machine.execAddi d a i0 s
  | .nop => Sys2Proof.Machine.execNop s
  | .andi d a i0 => Sys2Proof.Machine.execAndi d a i0 s
  | .ori d a i0 => Sys2Proof.Machine.execOri d a i0 s
  | .xori d a i0 => Sys2Proof.Machine.execXori d a i0 s
  | .shi d a k s0 => Sys2Proof.Machine.execShi d a k s0 s
  | .seti d a c i0 => Sys2Proof.Machine.execSeti d a c i0 s
  | .movi d i0 => Sys2Proof.Machine.execMovi d i0 s
  | .movhi d i0 => Sys2Proof.Machine.execMovhi d i0 s
  | .muli d a i0 => Sys2Proof.Machine.execMuli d a i0 s
  | .fadd d a b t r => Sys2Proof.Machine.execFadd d a b t r s
  | .fsub d a b t r => Sys2Proof.Machine.execFsub d a b t r s
  | .fmul d a b t r => Sys2Proof.Machine.execFmul d a b t r s
  | .fdiv d a b t r => Sys2Proof.Machine.execFdiv d a b t r s
  | .fsqrt d a t r => Sys2Proof.Machine.execFsqrt d a t r s
  | .fmin d a b t => Sys2Proof.Machine.execFmin d a b t s
  | .fmax d a b t => Sys2Proof.Machine.execFmax d a b t s
  | .fsetEq d a b t => Sys2Proof.Machine.execFsetEq d a b t s
  | .fsetLt d a b t => Sys2Proof.Machine.execFsetLt d a b t s
  | .fsetLe d a b t => Sys2Proof.Machine.execFsetLe d a b t s
  | .fsetUn d a b t => Sys2Proof.Machine.execFsetUn d a b t s
  | .fclass d a t => Sys2Proof.Machine.execFclass d a t s
  | .fneg d a t => Sys2Proof.Machine.execFneg d a t s
  | .fabs d a t => Sys2Proof.Machine.execFabs d a t s
  | .fmaFp32 d a b c r => Sys2Proof.Machine.execFmaFp32 d a b c r s
  | .fmaFp16 d a b c r => Sys2Proof.Machine.execFmaFp16 d a b c r s
  | .fcvt d a s0 e r => Sys2Proof.Machine.execFcvt d a s0 e r s
  | .cbnd d a b => Sys2Proof.Machine.execCbnd d a b s
  | .cbndX d a b => Sys2Proof.Machine.execCbndX d a b s
  | .cprm d a b => Sys2Proof.Machine.execCprm d a b s
  | .cgetBase d a => Sys2Proof.Machine.execCgetBase d a s
  | .cgetLen d a => Sys2Proof.Machine.execCgetLen d a s
  | .cgetPerm d a => Sys2Proof.Machine.execCgetPerm d a s
  | .cgetTag d a => Sys2Proof.Machine.execCgetTag d a s
  | .cclr d a => Sys2Proof.Machine.execCclr d a s
  | .cadd d a b => Sys2Proof.Machine.execCadd d a b s
  | .ldC d a b => Sys2Proof.Machine.execLdC d a b s
  | .stC d a b => Sys2Proof.Machine.execStC d a b s
  | .caddi d a i0 => Sys2Proof.Machine.execCaddi d a i0 s
  | .b a b c o => Sys2Proof.Machine.execB a b c o s
  | .j o => Sys2Proof.Machine.execJ o s
  | .jal d i0 => Sys2Proof.Machine.execJal d i0 s
  | .jr d a i0 => Sys2Proof.Machine.execJr d a i0 s
  | .ld d a s0 o c f => Sys2Proof.Machine.execLd d a s0 o c f s
  | .st d a s0 o c f => Sys2Proof.Machine.execSt d a s0 o c f s
  | .ldX d a s0 o c i0 => Sys2Proof.Machine.execLdX d a s0 o c i0 s
  | .stX d a s0 o c i0 => Sys2Proof.Machine.execStX d a s0 o c i0 s
  | .amo d a b p o z => Sys2Proof.Machine.execAmo d a b p o z s
  | .cas d a b o z => Sys2Proof.Machine.execCas d a b o z s
  | .fence b a s0 => Sys2Proof.Machine.execFence b a s0 s
  | .pref a s0 f => Sys2Proof.Machine.execPref a s0 f s
  | .sbind d a k => Sys2Proof.Machine.execSbind d a k s
  | .sfree d => Sys2Proof.Machine.execSfree d s
  | .send a b c => Sys2Proof.Machine.execSend a b c s
  | .rld d a s0 o c f => Sys2Proof.Machine.execRld d a s0 o c f s
  | .rst d a s0 o c f => Sys2Proof.Machine.execRst d a s0 o c f s
  | .ramo d a b p o z => Sys2Proof.Machine.execRamo d a b p o z s
  | .mwait => Sys2Proof.Machine.execMwait s
  | .mpop d => Sys2Proof.Machine.execMpop d s
  | .cntw a k h => Sys2Proof.Machine.execCntw a k h s
  | .cntr d k h => Sys2Proof.Machine.execCntr d k h s
  | .cnts a k h => Sys2Proof.Machine.execCnts a k h s
  | .cnta a k h => Sys2Proof.Machine.execCnta a k h s
  | .cbadvP a n => Sys2Proof.Machine.execCbadvP a n s
  | .cbadvC a n => Sys2Proof.Machine.execCbadvC a n s
  | .spawn d a b => Sys2Proof.Machine.execSpawn d a b s
  | .spawnP d a b p => Sys2Proof.Machine.execSpawnP d a b p s
  | .suspMbox => Sys2Proof.Machine.execSuspMbox s
  | .suspCnt a k => Sys2Proof.Machine.execSuspCnt a k s
  | .suspJob a => Sys2Proof.Machine.execSuspJob a s
  | .suspStrm n => Sys2Proof.Machine.execSuspStrm n s
  | .suspTime a => Sys2Proof.Machine.execSuspTime a s
  | .suspReply => Sys2Proof.Machine.execSuspReply s
  | .yield => Sys2Proof.Machine.execYield s
  | .exit => Sys2Proof.Machine.execExit s
  | .join a => Sys2Proof.Machine.execJoin a s
  | .leave a => Sys2Proof.Machine.execLeave a s
  | .hbar a => Sys2Proof.Machine.execHbar a s
  | .hbarArrive a => Sys2Proof.Machine.execHbarArrive a s
  | .hbarWait a => Sys2Proof.Machine.execHbarWait a s
  | .gang n => Sys2Proof.Machine.execGang n s
  | .gangF => Sys2Proof.Machine.execGangF s
  | .ungang => Sys2Proof.Machine.execUngang s
  | .jwait a => Sys2Proof.Machine.execJwait a s
  | .jpoll d a => Sys2Proof.Machine.execJpoll d a s
  | .whistle a => Sys2Proof.Machine.execWhistle a s
  | .ssend a => Sys2Proof.Machine.execSsend a s
  | .srecv a => Sys2Proof.Machine.execSrecv a s
  | .vadd d a b e m s0 t h c => Sys2Proof.Machine.execVadd d a b e m s0 t h c s
  | .vsub d a b e m s0 t h c => Sys2Proof.Machine.execVsub d a b e m s0 t h c s
  | .vmul d a b e m s0 t h c => Sys2Proof.Machine.execVmul d a b e m s0 t h c s
  | .vfma d a b e m s0 t h c => Sys2Proof.Machine.execVfma d a b e m s0 t h c s
  | .vmin d a b e m s0 t h c => Sys2Proof.Machine.execVmin d a b e m s0 t h c s
  | .vmax d a b e m s0 t h c => Sys2Proof.Machine.execVmax d a b e m s0 t h c s
  | .vand d a b e m s0 t h c => Sys2Proof.Machine.execVand d a b e m s0 t h c s
  | .vor d a b e m s0 t h c => Sys2Proof.Machine.execVor d a b e m s0 t h c s
  | .vxor d a b e m s0 t h c => Sys2Proof.Machine.execVxor d a b e m s0 t h c s
  | .vshl d a b e m s0 t h c => Sys2Proof.Machine.execVshl d a b e m s0 t h c s
  | .vshr d a b e m s0 t h c => Sys2Proof.Machine.execVshr d a b e m s0 t h c s
  | .vsel d a b e m s0 t h c => Sys2Proof.Machine.execVsel d a b e m s0 t h c s
  | .vset c a b e m s0 t h k => Sys2Proof.Machine.execVset c a b e m s0 t h k s
  | .vexp d a e m t c => Sys2Proof.Machine.execVexp d a e m t c s
  | .vrcp d a e m t c => Sys2Proof.Machine.execVrcp d a e m t c s
  | .vrsq d a e m t c => Sys2Proof.Machine.execVrsq d a e m t c s
  | .vredAdd d a e m t c => Sys2Proof.Machine.execVredAdd d a e m t c s
  | .vredMin d a e m t c => Sys2Proof.Machine.execVredMin d a e m t c s
  | .vredMax d a e m t c => Sys2Proof.Machine.execVredMax d a e m t c s
  | .vperm d a b e m s0 t h => Sys2Proof.Machine.execVperm d a b e m s0 t h s
  | .vbcast d a b e m s0 t h c => Sys2Proof.Machine.execVbcast d a b e m s0 t h c s
  | .vidx d e m t => Sys2Proof.Machine.execVidx d e m t s
  | .vmovg d k b e t h => Sys2Proof.Machine.execVmovg d k b e t h s
  | .vcvt d a s0 m t e => Sys2Proof.Machine.execVcvt d a s0 m t e s
  | .vld d a e o m => Sys2Proof.Machine.execVld d a e o m s
  | .vst d a e o m => Sys2Proof.Machine.execVst d a e o m s
  | .vldShape d a e o n m => Sys2Proof.Machine.execVldShape d a e o n m s
  | .vstShape d a e o n m => Sys2Proof.Machine.execVstShape d a e o n m s
  | .vseq l b h => Sys2Proof.Machine.execVseq l b h s
  | .vsetl b h => Sys2Proof.Machine.execVsetl b h s
  | .ckpt i0 => Sys2Proof.Machine.execCkpt i0 s
  | .csrr d n => Sys2Proof.Machine.execCsrr d n s
  | .csrw a n => Sys2Proof.Machine.execCsrw a n s
  | .csrx d a n => Sys2Proof.Machine.execCsrx d a n s
  | .trap c => Sys2Proof.Machine.execTrap c s
  | .eret => Sys2Proof.Machine.execEret s
  | .idle => Sys2Proof.Machine.execIdle s
  | .synci a => Sys2Proof.Machine.execSynci a s
  | .tlbi a => Sys2Proof.Machine.execTlbi a s
  | .mma c => Sys2Proof.Machine.execMma c s
  | .accrd c => Sys2Proof.Machine.execAccrd c s
  | .accrel c => Sys2Proof.Machine.execAccrel c s
  | .outer c => Sys2Proof.Machine.execOuter c s
  | .fold c => Sys2Proof.Machine.execFold c s
  | .scan c => Sys2Proof.Machine.execScan c s
  | .zip c => Sys2Proof.Machine.execZip c s
  | .copy c => Sys2Proof.Machine.execCopy c s
  | .get c => Sys2Proof.Machine.execGet c s
  | .put c => Sys2Proof.Machine.execPut c s
  | .putAdd c => Sys2Proof.Machine.execPutAdd c s
  | .pack c => Sys2Proof.Machine.execPack c s
  | .compact c => Sys2Proof.Machine.execCompact c s
  | .qfence c => Sys2Proof.Machine.execQfence c s
  | .lookup c => Sys2Proof.Machine.execLookup c s
  | .coll c => Sys2Proof.Machine.execColl c s
  | .rmov t a => Sys2Proof.Machine.execRmov t a s
  | .radd t a b => Sys2Proof.Machine.execRadd t a b s
  | .rsub t a b => Sys2Proof.Machine.execRsub t a b s
  | .rmul t a b => Sys2Proof.Machine.execRmul t a b s
  | .rfma t a b => Sys2Proof.Machine.execRfma t a b s
  | .rmin t a b => Sys2Proof.Machine.execRmin t a b s
  | .rmax t a b => Sys2Proof.Machine.execRmax t a b s
  | .rneg t a => Sys2Proof.Machine.execRneg t a s
  | .rabs t a => Sys2Proof.Machine.execRabs t a s
  | .rcmplt t a b => Sys2Proof.Machine.execRcmplt t a b s
  | .rcmpeq t a b => Sys2Proof.Machine.execRcmpeq t a b s
  | .rsel t a b => Sys2Proof.Machine.execRsel t a b s
  | .rand t a b => Sys2Proof.Machine.execRand t a b s
  | .ror t a b => Sys2Proof.Machine.execRor t a b s
  | .rxor t a b => Sys2Proof.Machine.execRxor t a b s
  | .rshl t a b => Sys2Proof.Machine.execRshl t a b s
  | .rshr t a b m => Sys2Proof.Machine.execRshr t a b m s
  | .rcvt t a g => Sys2Proof.Machine.execRcvt t a g s
  | .rexp t a => Sys2Proof.Machine.execRexp t a s
  | .rconst l t => Sys2Proof.Machine.execRconst l t s
  | .rret => Sys2Proof.Machine.execRret s
  | .slotStallEnd => Sys2Proof.Machine.execSlotStallEnd s
  | .vectorEntryBind quire core lane => Sys2Proof.Machine.execVectorEntryBind quire core lane s
  | .trapEntry => Sys2Proof.Machine.execTrapEntry s
  | .writeBack => Sys2Proof.Machine.execWriteBack s
  | .wakeUp launch tid => Sys2Proof.Machine.execWakeUp launch tid s
  | .pickup quire core slot => Sys2Proof.Machine.execPickup quire core slot s
  | .preemptionRequest launch tid => Sys2Proof.Machine.execPreemptionRequest launch tid s
  | .forcedSave => Sys2Proof.Machine.execForcedSave s
  | .accountingRound => Sys2Proof.Machine.execAccountingRound s
  | .jobStart cls unit core => Sys2Proof.Machine.execJobStart cls unit core s
  | .ticketGrant job => Sys2Proof.Machine.execTicketGrant job s
  | .srcFree job => Sys2Proof.Machine.execSrcFree job s
  | .visible job => Sys2Proof.Machine.execVisible job s
  | .jobDone job => Sys2Proof.Machine.execJobDone job s
  | .copyStreamElement job member => Sys2Proof.Machine.execCopyStreamElement job member s
  | .messageArrival ctx chan quire core payload => Sys2Proof.Machine.execMessageArrival ctx chan quire core payload s
  | .remoteRequest n => Sys2Proof.Machine.execRemoteRequest n s
  | .rldReply n data => Sys2Proof.Machine.execRldReply n data s
  | .rstAcknowledgement n => Sys2Proof.Machine.execRstAcknowledgement n s
  | .ramoReply n data => Sys2Proof.Machine.execRamoReply n data s
  | .faultReply n reason => Sys2Proof.Machine.execFaultReply n reason s
  | .remoteTimeout n => Sys2Proof.Machine.execRemoteTimeout n s
  | .flitReceive port flit => Sys2Proof.Machine.execFlitReceive port flit s
  | .linkRetrain port ok => Sys2Proof.Machine.execLinkRetrain port ok s
  | .routeChange pkg route => Sys2Proof.Machine.execRouteChange pkg route s
  | .timeSync reference held => Sys2Proof.Machine.execTimeSync reference held s
  | .tlbiAcknowledgement => Sys2Proof.Machine.execTlbiAcknowledgement s
  | .parkedWalkRetry => Sys2Proof.Machine.execParkedWalkRetry s
  | .migrationTimeout => Sys2Proof.Machine.execMigrationTimeout s
  | .doorbell fn queue value => Sys2Proof.Machine.execDoorbell fn queue value s
  | .launchPacket queue => Sys2Proof.Machine.execLaunchPacket queue s
  | .counterWait queue => Sys2Proof.Machine.execCounterWait queue s
  | .valueWrite queue => Sys2Proof.Machine.execValueWrite queue s
  | .noOp queue => Sys2Proof.Machine.execNoOp queue s
  | .launchStatusWrite launch => Sys2Proof.Machine.execLaunchStatusWrite launch s
  | .qctlEnable fn queue value => Sys2Proof.Machine.execQctlEnable fn queue value s
  | .qschedWrite fn queue value => Sys2Proof.Machine.execQschedWrite fn queue value s
  | .tierwWrite fn value => Sys2Proof.Machine.execTierwWrite fn value s
  | .resmapMark value => Sys2Proof.Machine.execResmapMark value s
  | .resmapUnmark value => Sys2Proof.Machine.execResmapUnmark value s
  | .resmapSetQuota value => Sys2Proof.Machine.execResmapSetQuota value s
  | .cntwinWrite value => Sys2Proof.Machine.execCntwinWrite value s
  | .asidctlWrite value => Sys2Proof.Machine.execAsidctlWrite value s
  | .rankcntWrite value => Sys2Proof.Machine.execRankcntWrite value s
  | .bdtabWrite value => Sys2Proof.Machine.execBdtabWrite value s
  | .prioWrite value => Sys2Proof.Machine.execPrioWrite value s
  | .registerWrite fn pa value => Sys2Proof.Machine.execRegisterWrite fn pa value s
  | .collcanWrite fn value => Sys2Proof.Machine.execCollcanWrite fn value s
  | .attestationGo fn value => Sys2Proof.Machine.execAttestationGo fn value s
  | .attestationReport => Sys2Proof.Machine.execAttestationReport s
  | .pwrctlStateWrite fn island value => Sys2Proof.Machine.execPwrctlStateWrite fn island value s
  | .pwrctlFstepWrite fn island value => Sys2Proof.Machine.execPwrctlFstepWrite fn island value s
  | .dvfsChange island => Sys2Proof.Machine.execDvfsChange island s
  | .throttle island step => Sys2Proof.Machine.execThrottle island step s
  | .rasCounterClear fn k => Sys2Proof.Machine.execRasCounterClear fn k s
  | .scrub pa => Sys2Proof.Machine.execScrub pa s
  | .boot => Sys2Proof.Machine.execBoot s
  | .registration commid key members who deadline => Sys2Proof.Machine.execRegistration commid key members who deadline s
  | .start die => Sys2Proof.Machine.execStart die s
  | .blockFinal job source => Sys2Proof.Machine.execBlockFinal job source s
  | .numberClose num => Sys2Proof.Machine.execNumberClose num s
  | .deadlineCancel num => Sys2Proof.Machine.execDeadlineCancel num s
  | .cancelClose num => Sys2Proof.Machine.execCancelClose num s
  | .failover => Sys2Proof.Machine.execFailover s
  | .domainRelease domain => Sys2Proof.Machine.execDomainRelease domain s
  | .phaseClose domain => Sys2Proof.Machine.execPhaseClose domain s
  | .releaseTimeout domain => Sys2Proof.Machine.execReleaseTimeout domain s
  | .scheduledElement quire core port payload => Sys2Proof.Machine.execScheduledElement quire core port payload s
  | .vectorEntryCompletion quire lane => Sys2Proof.Machine.execVectorEntryCompletion quire lane s
  | .scheduledElementSend quire core => Sys2Proof.Machine.execScheduledElementSend quire core s
  | .windowVisible job => Sys2Proof.Machine.execWindowVisible job s
  | .ownerCancel commid key => Sys2Proof.Machine.execOwnerCancel commid key s
  | .packageFailure pkg => Sys2Proof.Machine.execPackageFailure pkg s
  | .hwReplication => Sys2Proof.Machine.execHwReplication s

end Sys2Proof.Machine
end

