-- ==== Sys2Proof/Machine/Gang.lean ====
section
/-!
DEFINITION. Gangs in lockstep (R26, R28, R29): one instruction of the leader's stream, taken by every member or by none;
the traps of members; and the waits, which end for the gang as one unit.
-/
namespace Sys2Proof.Machine

/-! ## Members -/

/-- A member in a slot. -/
def memberIn (s : State) (launch m : Nat) : Option Thread := (s.find launch m).filter (·.code == .running)

/-- The mark of an earlier trap cleared on every member. -/
def clearMarks (g : Gang) (s : State) : State :=
  g.members.foldl (fun s m => s.onThread g.launch m (fun t => { t with trapMark := false })) s

/-- The members that trapped, in GPOS order. -/
def trappedIn (g : Gang) (s : State) : List Thread := g.members.filterMap (fun m => (s.find g.launch m).filter (·.trapMark))

/-- The stall of a member whose instruction has had no effect and issues again. -/
def Thread.retries (t : Thread) : Option Stall :=
  match t.stall with
  | some (.retry w) => some (.retry w)
  | _ => none

/-- `f` on every member in a slot, each in focus, in GPOS order. -/
def onMembers (f : State → Host.Outcome State Fault Refusal) (launch : Nat) :
    List Nat → State → Host.Outcome State Fault Refusal
  | [], s => .next s
  | m :: r, s =>
    match (if (memberIn s launch m).isSome then f (s.focusOn launch m) else .next s) with
    | .next s1 => onMembers f launch r s1
    | x => x

/-! ## Control flow (R26) -/

/-- One member runs the instruction, or takes the trap that waits for this boundary. A follower's own values move
nothing: B and JR leave it at the next word. -/
def memberRun (i : Instr) (s : State) : Host.Outcome State Fault Refusal :=
  if s.th.trapPending then .next (takePending s) else exec i s

/-- Every member goes on where the leader does, with its fetch capability; a member that trapped or waits stays. -/
def followLeader (g : Gang) (s : State) : State :=
  match s.leaderOf g with
  | none => s
  | some l =>
    if l.code != .running || l.trapMark || l.stall.isSome then s
    else g.members.foldl (fun s m => s.onThread g.launch m (fun t =>
      if t.code == .running && !t.trapMark && t.stall.isNone then { t with pc := l.pc, fetchCap := l.fetchCap } else t)) s

/-- Where the gang goes on after an instruction at `pc`: where its leader does, or at the next word where the leader
trapped or waits (assumption 35). -/
def goesOn (g : Gang) (pc : Word) (s : State) : Word :=
  match s.leaderOf g with
  | some l => if l.code == .running && !l.trapMark && l.stall.isNone then l.pc else pc + 4
  | none => pc + 4

/-! ## After the members have acted (R28, R29) -/

/-- The gang with its mark of an instruction that waits. -/
def setWaits (g : Gang) (w : Option Word) (popped : List (Nat × Nat × Word)) (s : State) : State :=
  { s with gangs := s.gangs.map (fun x => if x.num == g.num then { x with waits := w, popped := popped } else x) }

/-- A trap in a member breaks the gang (R29). -/
def gangTrapped (g : Gang) (trapped : List Thread) (pc : Word) (s : State) : State :=
  let s1 := followLeader g s
  breakFor g (trapped.map (·.tid)) ((trapped.head?.map (·.core)).getD 0) (goesOn g pc s) s1

/-- The source field of an instruction that waits after its effect. -/
def waitSource : Instr → Option RegField
  | .hbar a => some a
  | .hbarWait a => some a
  | .jwait a => some a
  | .suspCnt a _ => some a
  | .suspJob a => some a
  | .suspTime a => some a
  | .cbadvP a _ => some a
  | .cbadvC a _ => some a
  | .whistle a => some a
  | .ssend a => some a
  | .srecv a => some a
  | _ => none

/-- A member is at an instruction that a forced save abandoned after it took its operand (R322, R347). -/
def reissues (g : Gang) (s : State) : Bool := g.members.any (fun m => (memberIn s g.launch m).any (·.abandoned.isSome))

/-- The stream elements that the members pop: those that they popped before, where the instruction issues again. -/
def poppedBy (g : Gang) (i : Instr) (s : State) : List (Nat × Nat × Word) :=
  if reissues g s then g.popped
  else
  match waitSource i with
  | none => []
  | some r =>
    if isGeneral r then []
    else g.members.filterMap (fun m => (s.find g.launch m).bind (fun t => (t.stream (qNum r)).map (fun b => (m, qNum r, b.buf.headD 0))))

/-! ## Waits that end for the gang as one unit (R28, R296, R381) -/

/-- The wait of a member is over: at a suspension point, in the slot only in an open phase or as the instruction
issues (R12). -/
def waitOver (issuing : Bool) (at_ : Word) (s : State) : Bool :=
  match s.th.stall with
  | none => s.th.pc != at_
  | some (.retry _) => false
  | some (.suspend w) => (issuing || s.th.phase.isSome) && waitHolds s s.th w
  | some (.cbadv p n w _) => cbadvDone p n w s
  | some (.ssend _) => s.th.phase.all (ssendDone s.cycle.toNat)
  | some (.srecv _) => s.th.phase.all (fun p => (srecvWindow s.cycle.toNat p).any (fun w => !w.waits s))
  | some .exit => s.th.replies == 0
  | some (.whistle _ _) => false
  | some (.tlbi _) => false

/-- A member in focus goes on after its wait. -/
def endWait (s : State) : State :=
  match s.th.stall with
  | some (.suspend w) => s.up (·.afterWait w)
  | some _ => endStall s
  | none => s

/-- The gang's waiting instruction at `pc` completes in every member, once every wait is over. -/
def settleWaits (issuing : Bool) (g : Gang) (pc : Word) (s : State) : State :=
  if !g.members.all (fun m => (memberIn s g.launch m).isNone || waitOver issuing pc (s.focusOn g.launch m)) then s
  else
    let s1 := g.members.foldl (fun s m => if (memberIn s g.launch m).isSome then endWait (s.focusOn g.launch m) else s) s
    match trappedIn g s1 with
    | [] => setWaits g none [] s1
    | ts => gangTrapped g ts pc s1

/-- Members of a gang whose instruction waits take the traps that are due at it; the gang breaks. -/
def waitTraps (g : Gang) (pc : Word) (s : State) : Host.Outcome State Fault Refusal :=
  match onMembers (fun x => .next (if x.th.trapPending && x.th.pc == pc then takePending x else x)) g.launch g.members s with
  | .next s1 =>
    match trappedIn g s1 with
    | [] => .next (settleWaits false g pc s1)
    | ts => .next (gangTrapped g ts pc s1)
  | r => r

/-! ## One instruction of the gang -/

/-- SPAWN, which gives ids in GPOS order: no member traps or spawns while another waits (R17, R424). -/
def givesIds : Instr → Bool
  | .spawn _ _ _ => true
  | .spawnP _ _ _ _ => true
  | _ => false

/-- The members have run: a trap breaks the gang; where a member's instruction has had no effect yet, none has, and
that member holds its slot; else the gang goes on, or waits as one unit. -/
def settleRun (g : Gang) (i : Instr) (pc : Word) (s s1 : State) : State :=
  let waits := g.members.any (fun m => (memberIn s1 g.launch m).any (·.retries.isSome))
  match (if waits && givesIds i then [] else trappedIn g s1) with
  | t :: ts => gangTrapped g (t :: ts) pc s1
  | [] =>
    if waits then
      g.members.foldl (fun x m => x.onThread g.launch m (fun t =>
        { t with stall := (memberIn s1 g.launch m).bind (·.retries)
                 parkedAt := ((memberIn s1 g.launch m).map (·.parkedAt)).getD t.parkedAt })) s
    else if !s1.gangs.contains g then s1
    else if g.members.any (fun m => (memberIn s1 g.launch m).any (·.stall.isSome)) then
      settleWaits true g pc (setWaits g (some pc) (poppedBy g i s) s1)
    else followLeader g s1

/-- A fetch that fails: a fault of the fetch is the leader's, an undefined word every member's. -/
def gangFetchFailed (g : Gang) (h : Halt) (pc : Word) (s : State) : Host.Outcome State Fault Refusal :=
  let whole := match h with | .trap c _ => !fetchCause c | .stall _ => false
  match onMembers (fun x => .next (fetchFailed h x)) g.launch (if whole then g.members else g.members.take 1) s with
  | .next s1 =>
    match trappedIn g s1 with
    | [] => .next s1
    | ts => .next (breakFor g (ts.map (·.tid)) ((ts.head?.map (·.core)).getD 0) pc s1)
  | r => r

/-- The gang's next instruction: a tile command is one push, any other one runs in every member. -/
def gangRun (g : Gang) (s0 : State) : Host.Outcome State Fault Refusal :=
  let s := clearMarks g s0
  let leader := g.members.headD 0
  let l := s.focusOn g.launch leader
  match fetchNext l with
  | .error h => gangFetchFailed g h l.th.pc s
  | .ok (i, s1) =>
    if bitLength i = 256 && !g.members.any (fun m => (memberIn s1 g.launch m).any (·.trapPending)) then
      exec i (s1.focusOn g.launch leader)
    else
      match onMembers (if bitLength i = 256 then (fun x => .next (takePending x)) else memberRun i) g.launch g.members s1 with
      | .next s2 => .next (settleRun g i l.th.pc s1 s2)
      | r => r

/-! ## One act of a gang -/

/-- A member that waits in the rendezvous of a gang that has formed is written back first, but for one in an open phase
(R12, R296). -/
def stillAway (t : Thread) : Bool := t.inRendezvous && t.phase.isNone

/-- A member is saved: the gang runs once every member has its slot (R26, R28). -/
def gangAway (g : Gang) (s : State) : Bool :=
  g.members.any (fun m => s.conts.any (fun t => t.is g.launch m && (t.code == .ready || t.code == .suspended)) ||
    (memberIn s g.launch m).any stillAway)

/-- The members that hold their slots try to go on. -/
def retryMembers (g : Gang) (s : State) : Host.Outcome State Fault Refusal :=
  onMembers (fun x => .next (endStall x)) g.launch g.members s

/-- The gang acts: an instruction that waits first, then members that hold their slots, then the next instruction. -/
def gangAct (g : Gang) (s : State) : Host.Outcome State Fault Refusal :=
  if gangAway g s then .next s
  else
    match (if reissues g s then none else g.waits) with
    | some pc => waitTraps g pc (clearMarks g s)
    | none =>
      if g.members.any (fun m => (memberIn s g.launch m).any (·.stall.isSome)) then retryMembers g s
      else gangRun g s

/-- A member of a gang in focus issues for the gang. -/
def issueGang (g : Gang) (s : State) : Host.Outcome State Fault Refusal :=
  match gangAct g s with
  | .next s1 => .next (s1.focusOn s.th.launch s.th.tid)
  | r => r

end Sys2Proof.Machine
end

