-- ==== Sys2Proof/Machine/Inputs.lean ====
section
/-!
DEFINITION. What comes from outside the package (R11, R158, R247, R251, R269 to R275, R326, R330, R331).
-/
namespace Sys2Proof.Machine

/-- Bytes written into memory by the host: no context becomes the last writer of a line. -/
def hostWrite (pa : Nat) (bs : List Byte) (s : State) : State :=
  { s with mem := s.mem.writeBytes pa bs, ecc := clearEcc pa bs.length s.ecc }

/-- The bytes lie in the slices or in HBM (R132). -/
def deviceRange (pa n : Nat) : Bool := inSlices (pa + n - 1) || (inHbm pa && inHbm (pa + n - 1))

/-- The RAS counter of an error that appears (R336): none for one that can still be corrected. -/
def errorCounter : EccSite → Option Nat
  | .memory w => if inSlices (8 * w) then some 1 else if inHbm (8 * w) then some 3 else none
  | .correctable _ => none
  | .general _ _ _ => some 5
  | .vector _ _ _ => some 5
  | .accumulator _ _ => some 1

/-- An error appears. -/
def addError (x : EccSite) (s : State) : State :=
  if s.ecc.contains x then s
  else
    let s1 := { s with ecc := x :: s.ecc }
    match errorCounter x with
    | some k => countRas k 1 s1
    | none => s1

/-- The first message of a core that can leave for another package leaves (R249): one whose entry is in transit waits, and
holds none of another destination (R261). -/
def departMessage (quire core : Nat) (s : State) : State :=
  match s.inject.find? (fun p => p.quire == quire && p.core == core &&
      (let e := rankUsed s p.ctx p.rank; !rankLost s p.ctx p.rank && !rankBad e && rankState e != 2 && rankPkg e != s.pkgid)) with
  | none => s
  | some p =>
    let s1 := { s with inject := s.inject.erase p }
    (sendWire (messageWire p (rankUsed s p.ctx p.rank) s) s1).getD s1

/-- A member's report that a number is terminal for it. -/
def addReport (num : BitVec 32) (who : Member) (s : State) : State :=
  onKickoff num (fun k => if k.reported.contains who then k else { k with reported := k.reported ++ [who] }) s

/-- The referee's fields changed. -/
def onReferee (f : Referee → Referee) (s : State) : State := { s with referee := f s.referee }

/-- A held element of a channel that a moved thread has bound goes with the thread to its new coordinates (R261). -/
def carried (t : Thread) (quire core : Nat) (a : Arrival) : Arrival :=
  if a.quire == t.quire && a.core == t.core && a.ctx == t.ctx &&
      (List.range 8).any (fun n => (t.stream n).any (fun b => b.kind == .rx && b.word.toNat == a.chan.toNat)) then
    { a with quire := quire, core := core }
  else a

/-- System software moves a saved thread: TRANSIT is set, or cleared with the new coordinates (R11, R253, R261). -/
def moveThread (launch tid : Nat) (transit : Bool) (quire core : Nat) (s : State) : State :=
  match s.conts.find? (·.is launch tid) with
  | none => s
  | some t =>
    if t.replies != 0 || !t.live then s
    else
      let s1 := saveRecord launch tid (s.onThread launch tid (fun x =>
        { x with transit := transit, quire := if transit then x.quire else quire, core := if transit then x.core else core }))
      if transit then s1
      else { s1 with arrivals := s1.arrivals.map (carried t quire core), inbound := s1.inbound.map (carried t quire core) }

/-- An input takes effect. -/
def takeInput (x : Input) (s : State) : State :=
  match x with
  | .hostMemory o bs => if o + bs.length ≤ 2 ^ 47 then hostWrite (0x800000000000 + o) bs s else s
  | .deviceMemory pa bs => if deviceRange pa bs.length then hostWrite pa bs (s.wake (islandsOf pa)) else s
  | .request r => acceptRequest r s
  | .depart q c => departMessage q c s
  | .departRequest n => departRequest n s
  | .flitSend k => flitSend k s
  | .podRings c d => if 0 < c ∧ c ≤ 16 ∧ 0 < d ∧ d ≤ 32 then { s with rings := (c, d) } else s
  | .member p present => strand { s with absent := if present then s.absent.filter (· != p) else p :: s.absent.filter (· != p) }
  | .linkState p k ok =>
    strand { s with deadLinks := if ok then s.deadLinks.filter (· != (p, k)) else (p, k) :: s.deadLinks.filter (· != (p, k)) }
  | .contribution c => showContribution c s
  | .assigned die commid key num =>
    if s.referee.role == .primary then s else bindNumber die commid key num (tellEngine commid key num die s)
  | .startArrived die num => if s.referee.role == .primary then s else startAt num die s
  | .cancelArrived die num => if s.referee.role == .primary then s else cancelAt num die s
  | .report num who => addReport num who s
  | .replica hw opens =>
    if s.referee.role == .standby then
      onReferee (fun r => { r with hw := hw, replica := opens, heard := s.cycle.toNat }) s
    else s
  | .hwAck hw => onReferee (fun r => { r with acked := hw }) s
  | .held k => onReferee (fun r => { r with held := k :: r.held }) s
  | .cancelOutcome r =>
    if s.collcanst = 3 ∧ r ≠ 3 ∧ s.referee.role ≠ .primary then { s with collcanst := r.setWidth 64 } else s
  | .role r => onReferee (fun x => { x with role := r, heard := s.cycle.toNat }) s
  | .race _ => s
  | .softError e => addError e s
  | .corrected k => if k = 0 ∨ k = 2 ∨ k = 4 then countRas k 1 s else s
  | .residue n => { s with residue := some n }
  | .flash b bs => { s with boot := if b then { s.boot with flashB := bs } else { s.boot with flashA := bs } }
  | .quireTest q ok => { s with boot := { s.boot with
      failing := if ok then s.boot.failing.filter (· != q) else if s.boot.failing.contains q then s.boot.failing else q :: s.boot.failing } }
  | .recovery => { s with boot := { s.boot with recovery := true } }
  | .reportFault => if bits s.boot.attst.toNat 2 1 = 1 then setAttst 3 s else s
  | .move l t transit q c => moveThread l t transit q c s

end Sys2Proof.Machine
end

