-- ==== Sys2Proof/Machine/Place.lean ====
section
/-!
DEFINITION. Placing an instruction where the next step fetches it (assumption 12): a launch, which the
command processor makes from packets, stands behind it on the device.
-/
namespace Sys2Proof.Machine

/-- The routine unit with slots to run from the first one (R193). -/
def RoutineUnit.load (r : RoutineUnit) (slots : List Nat) : RoutineUnit :=
  { r with slots := slots, step := 0, active := true, fault := false }

/-- The address at which a word is placed where no thread runs. -/
def placeAddr : Nat := 0x010000000000

/-- A running thread of context 0 at the placed word, with a fetch capability over every address. -/
def placedThread : Thread :=
  { Thread.empty with
    code := .running, gran := 7, vregs := 16, pc := BitVec.ofNat 64 placeAddr,
    fetchCap := mkCap placeAddr 50 0 0 0x005 }

/-- Whether the focus thread can fetch `n` bytes at its PC, and from which physical address. -/
def fetchable (s : State) (n : Nat) : Option Nat :=
  if s.th.code != .running || s.th.pc.toNat % n ≠ 0 then none
  else
    match capCheck s.th.fetchCap s.th.pc.toNat n permExec with
    | .error _ => none
    | .ok _ => physOf s s.th.ctx s.th.pc.toNat .fetch

/-- The state with nothing in the way of the focus thread's next issue, and `n` bytes of `w` at `pa`. -/
def placeAt (pa n w : Nat) (s : State) : State :=
  { s with
    agenda := [], icache := [], ecc := [], tlb := []
    mem := s.mem.writeNat pa n w
    rt := { s.rt with active := false }
    th := { s.th with stall := none, turn := none, pendTraps := [], rfq := [], replay := none, vecBehind := [], ganged := false } }

/-- An instruction of `n` bytes placed where the focus thread fetches next. -/
def placeCode (n w : Nat) (s : State) : State :=
  match fetchable s n with
  | some pa => placeAt pa n w s
  | none => placeAt placeAddr n w ({ s with th := placedThread }.setCtx 0 (fun c => { c with enable := false }))

/-- An instruction of the opcode table placed where the next step takes it: routine slots in the routine
unit, control words and tile commands at PC. -/
def placeWord (s : State) (nbits w : Nat) : State :=
  if nbits = 16 then { s with agenda := [], rt := s.rt.load [w % 2 ^ 16] }
  else if nbits = 256 then placeCode 32 (w % 2 ^ 256) s
  else
    match decodeControl (w % 2 ^ 32) with
    | .ok _ => placeCode 4 (w % 2 ^ 32) s
    | .error _ =>
      if bits w 15 11 == 19 then { s with agenda := [], rt := s.rt.load [w % 2 ^ 16, w / 2 ^ 16 % 2 ^ 16] }
      else placeCode 4 (w % 2 ^ 32) s

end Sys2Proof.Machine
end

