-- ==== Sys2Proof/Machine/Issue.lean ====
section
/-!
DEFINITION. One act: the issue of the thread in focus, a step of the device, or an input (assumption 1).
-/
namespace Sys2Proof.Machine

/-- Where an instruction goes depends on the values that it reads. -/
def valueJump : Instr → Bool
  | .b _ _ _ _ => true
  | .jr _ _ _ => true
  | _ => false

/-- A member of a gang that broke completes the instruction in progress: its leader's values decide where a branch or
jump goes, and GANG_BROKEN follows (R26, R29). -/
def completeBroken (i : Instr) (before : Thread) (t : Thread) : Thread :=
  match before.pendTraps.find? (fun p => p.after.any (fun x => x.1 == before.pc)) with
  | none => t
  | some p =>
    if valueJump i && t.code == .running && t.stall.isNone && t.pendTraps.contains p then
      { t with pc := (p.after.map (·.2)).getD t.pc, fetchCap := before.fetchCap,
               pendTraps := { p with after := none } :: t.pendTraps.erase p }
    else t

/-- A member whose gang broke, completing a branch or jump as its followers do: its own values move nothing (R26, R29). -/
def Thread.asFollower (t : Thread) : Thread := { t with ganged := true, gpos := 1 }

/-- The thread has still to complete an instruction of a gang that broke, which goes where the leader's values say. -/
def completesJump (i : Instr) (t : Thread) : Bool := valueJump i && t.pendTraps.any (fun p => p.after.any (fun x => x.1 == t.pc))

/-- The island of the quire of the thread in focus wakes (R334). -/
def State.wakeQuire (s : State) : State :=
  if s.th.code == .running then s.wake [64 * dieOf s.th.quire + s.th.quire % 96 / 2] else s

/-- The thread in focus issues the instruction at PC (R71, R97). -/
def issueWord (s : State) : Host.Outcome State Fault Refusal :=
  match fetchNext s with
  | .ok (i, s1) =>
    if !completesJump i s.th then exec i s1
    else match exec i (s1.up (·.asFollower)) with
    | .next s2 => .next (s2.onThread s.th.launch s.th.tid (fun t =>
        completeBroken i s.th { t with ganged := s.th.ganged, gpos := s.th.gpos }))
    | r => r
  | .error h => .next (fetchFailed h s)

/-- A thread alone acts at an instruction boundary: it takes a pending trap (R30, R254), tries the
instruction it waits with (R46), or issues. -/
def issueAlone (s : State) : Host.Outcome State Fault Refusal :=
  if s.th.trapPending then exec .trapEntry s
  else if s.th.stall.isSome then exec .slotStallEnd s
  else issueWord s

/-- The gang of the thread in focus. -/
def focusGang (s : State) : Option Gang := if s.th.ganged then s.gangOf s.th.launch s.th.tid else none

/-- The thread in focus, or its gang in lockstep (R26). -/
def issueThread (s : State) : Host.Outcome State Fault Refusal :=
  if s.th.code != .running then .next s
  else
    match focusGang s with
    | some g => issueGang g s
    | none => issueAlone s

/-- The next slot of the routine unit runs (R194). -/
def issueSlot (s : State) : Host.Outcome State Fault Refusal :=
  match decodeSlot (s.rt.slots.getD s.rt.step 0 + 2 ^ 16 * s.rt.slots.getD (s.rt.step + 1) 0) with
  | .ok i => exec i s
  | .error _ => .next { s with rt := { s.rt with active := false, fault := true } }

/-- The routine unit's next slot, or the thread in focus. -/
def issueNow (s : State) : Host.Outcome State Fault Refusal :=
  if s.rt.active then issueSlot s else issueThread s

/-- An issue takes one core cycle. -/
def issue (s : State) : Host.Outcome State Fault Refusal :=
  if s.rt.active then issueSlot s else issueThread (s.tick 1).wakeQuire

/-- An act, but for what a race does to its accesses. -/
def plainAct (a : Act) (s : State) : Host.Outcome State Fault Refusal :=
  match a with
  | .event w i => if deviceStep i then exec i (s.tick w) else .next (s.tick w)
  | .issue w q c k => issueNow ((s.tick w).focus q c k).wakeQuire
  | .input w x => .next (takeInput x (s.tick w))

end Sys2Proof.Machine
end

