-- ==== Sys2Proof/Machine/Race.lean ====
section
/-!
DEFINITION. Data races (R4, R125, R156, R157): which accesses of acts that stand next to each other race, and what they
leave and return (assumption 50).
-/
namespace Sys2Proof.Machine

/-! ## The agents of an act and their accesses -/

/-- The state that an act leads to. -/
def afterAct (r : Host.Outcome State Fault Refusal) (s : State) : State :=
  match r with
  | .next t => t
  | _ => s

/-- A thread as an agent. -/
def threadAgent (launch tid : Nat) : Nat × Nat × Nat := (0, launch, tid)

/-- The atomic, the acquire load or the release store that an instruction is: its size, its scope, and the package, quire
and core of its thread (R80, R81, R156). -/
def syncOf (i : Instr) (pkg : Nat) (t : Thread) : Option (Nat × Nat × Nat × Nat × Nat) :=
  let at_ := (pkg, t.quire, t.core)
  match i with
  | .ld _ _ z o c _ => if o == 1 then some (sizeBytes z, c.toNat, at_) else none
  | .ldX _ _ z o c _ => if o == 1 then some (sizeBytes z, c.toNat, at_) else none
  | .st _ _ z o c _ => if o == 2 then some (sizeBytes z, c.toNat, at_) else none
  | .stX _ _ z o c _ => if o == 2 then some (sizeBytes z, c.toNat, at_) else none
  | .amo _ _ _ _ _ z => some (sizeBytes z, 2, at_)
  | .cas _ _ _ _ z => some (sizeBytes z, 2, at_)
  | _ => none

/-- The same of a request that is served (R155). -/
def requestSync (r : Request) : Option (Nat × Nat × Nat × Nat × Nat) :=
  let x := (r.size, r.scope.toNat, r.source.toNat, r.quire, r.core)
  match r.kind with
  | .rld => if r.acq then some x else none
  | .rst => if r.rel then some x else none
  | .ramo _ => some x

/-- A part that is a whole act. -/
def wholePart (a : Act) (agent : Nat × Nat × Nat) (sync : Option (Nat × Nat × Nat × Nat × Nat)) (adds : Bool) : RacePart :=
  ⟨agent, sync, adds, fun x => afterAct (plainAct a x) x⟩

/-- The next instruction of the thread in focus, where it can be fetched. -/
def nextInstr (s : State) : Option Instr := (fetchNext s).toOption.map (·.1)

/-- A member's part of a gang's instruction. -/
def memberPart (g : Gang) (i : Instr) (s : State) (m : Nat) : RacePart :=
  ⟨threadAgent g.launch m, (memberIn s g.launch m).bind (syncOf i s.pkgid.toNat), false, fun x =>
    match fetchNext (x.focusOn g.launch (g.members.headD 0)) with
    | .ok (i, y) => afterAct (exec i (y.focusOn g.launch m)) y
    | .error _ => x⟩

/-- The parts of an issue: a thread's, or one of each member of its gang. -/
def issueParts (a : Act) (s : State) : List RacePart :=
  if s.rt.active || s.th.code != .running then []
  else
    match focusGang s with
    | none => [wholePart a (threadAgent s.th.launch s.th.tid) ((nextInstr s).bind (fun i => syncOf i s.pkgid.toNat s.th)) false]
    | some g =>
      match nextInstr (s.focusOn g.launch (g.members.headD 0)) with
      | none => []
      | some i =>
        if bitLength i = 256 then [wholePart a (threadAgent g.launch (g.members.headD 0)) none false]
        else g.members.map (memberPart g i s)

/-- The job that a JOB_START starts. -/
def startedJob : List Job → State → Option Job
  | [], _ => none
  | j :: r, s => if (tryStart j s).1 then some j else startedJob r (tryStart j s).2

/-- The thread that captures a scheduled element. -/
def capturer (s : State) (quire core port : Nat) (payload : Word) : Option Thread :=
  (s.lanes.find? (fun x => x.due == s.cycle.toNat && x.core == packageCore quire core && x.port == port && x.payload == payload)).bind
    (fun x => s.slots.find? (fun t => t.quire == quire && t.core == core && t.phase.any (·.domain == x.domain)))

/-- The part of a step of the device that makes a thread's accesses or a job's. Steps of one collective are one agent, since
its messages order them. -/
def eventPart (a : Act) (i : Instr) (s : State) : Option RacePart :=
  let thread := fun (l t : Nat) => wholePart a (threadAgent l t) none false
  let job := fun (n : Nat) => wholePart a (1, n, 0) none false
  match i with
  | .jobStart cls unit core =>
    (startedJob (startOrder s cls unit core) s).map (fun j => wholePart a (1, j.id, 0) none (gatherAdd j))
  | .srcFree n => some (job n)
  | .visible n => some (job n)
  | .start die => (startableJob s die).map (fun x => wholePart a (2, x.2, 0) none false)
  | .blockFinal n _ => (s.jobOf n).bind (fun j => j.number.map (fun k => wholePart a (2, k, 0) none false))
  | .remoteRequest n => (s.request n).map (fun r =>
      wholePart a (if r.outside then (3, r.source.toNat, 32 * (8 * r.quire + r.core) + r.slot) else threadAgent r.launch r.tid) (requestSync r) false)
  | .vectorEntryCompletion quire lane =>
    (s.seqs.find? (fun e => e.quire == quire && e.lane == some lane)).map (fun e => thread e.launch e.tid)
  | .scheduledElementSend quire core =>
    (s.sends.find? (fun x => x.quire == quire && x.core == core && (x.now s.cycle.toNat).any (x.unread s.cycle.toNat))).map
      (fun x => thread x.launch x.tid)
  | .scheduledElement quire core port payload => (capturer s quire core port payload).map (fun t => thread t.launch t.tid)
  | _ => none

/-- The parts of an act. -/
def actParts (a : Act) (s : State) : List RacePart :=
  match a with
  | .issue w q c k => issueParts a ((s.tick w).focus q c k).wakeQuire
  | .event w i => (eventPart a i (s.tick w)).toList
  | .input _ _ => []

/-- The accesses of a part. -/
def accessesOf (p : RacePart) (s : State) : List (Nat × Nat × Bool) :=
  match (p.run { s with racing := .log [] }).racing with
  | .log l => l
  | _ => []

/-! ## Races (R156) -/

/-- The scope of `a` covers the agent of `b` (R143). -/
def syncCovers (a b : Nat × Nat × Nat × Nat × Nat) : Bool :=
  match a.2.1 with
  | 0 => a.2.2 == b.2.2
  | 1 => a.2.2.1 == b.2.2.1 && a.2.2.2.1 == b.2.2.2.1
  | 2 => a.2.2.1 == b.2.2.1
  | _ => true

/-- Both are atomics, acquire loads or release stores of one size, each within the other's scope: aligned, they have one
address where they meet. -/
def bothSync (p q : RacePart) : Bool :=
  match p.sync, q.sync with
  | some a, some b => a.1 == b.1 && syncCovers a b && syncCovers b a
  | _, _ => false

/-- Two accesses have a byte in common. -/
def accessesMeet (x y : Nat × Nat × Bool) : Bool := rangesMeet x.1 x.2.1 y.1 y.2.1

/-- An access to bytes that the same job writes, as to a row that PUT.add adds to. -/
def addedTo (l : List (Nat × Nat × Bool)) (x : Nat × Nat × Bool) : Bool := l.any (fun y => y.2.2 && accessesMeet x y)

/-- The accesses of two parts that race, from their states: conflicting ones, but for atomics and the additions of two
PUT.add jobs to one row (R156, R221). -/
def racesBetween (p : RacePart) (s : State) (q : RacePart) (t : State) : List (Nat × Nat × Bool) :=
  let lp := accessesOf p s
  let lq := accessesOf q t
  if p.agent == q.agent || bothSync p q then []
  else
    let race := fun (x y : Nat × Nat × Bool) => accessesMeet x y && (x.2.2 || y.2.2) &&
      !(p.adds && q.adds && addedTo lp x && addedTo lq y)
    lp.filter (fun x => lq.any (race x)) ++ lq.filter (fun y => lp.any (fun x => race x y))

/-- The job of a part was pushed since an earlier state, so the push orders it (R150). -/
def pushedSince (s : State) (q : RacePart) : Bool := q.agent.1 == 1 && (s.jobOf q.agent.2.1).isNone

/-- The racing accesses of one act's agents. -/
def racesWithin (a : Act) (s : State) : List (Nat × Nat × Bool) :=
  (actParts a s).flatMap (fun p => (actParts a s).flatMap (fun q => racesBetween p s q s))

/-- The racing accesses of two acts, one after the other. -/
def racesAcross (a b : Act) (s : State) : List (Nat × Nat × Bool) :=
  let t := afterAct (plainAct a s) s
  (actParts a s).flatMap (fun p => ((actParts b t).filter (fun q => !pushedSince s q)).flatMap (fun q => racesBetween p s q t))

/-! ## What a race leaves (R4, R157) -/

/-- `n` free bytes. -/
def unboundedBytes (k n : Nat) : List Byte := (List.range n).map (fun i => Config.freeByte (k + i))

/-- A store that raced leaves what it stored, or unbounded bytes without a tag. -/
def leaveUnbounded (x : Nat × Nat × Bool) (s : State) : State :=
  if x.2.2 && Config.freeBit s.free then
    { s with mem := s.mem.writeBytes x.1 (unboundedBytes s.free x.2.1), free := s.free + 1 }
  else { s with free := s.free + 1 }

/-- The acts of a race run: loads of its bytes have free values, and its stores leave unbounded bytes. -/
def runRace (l : List (Nat × Nat × Bool)) (acts : List Act) (s : State) : State :=
  let s1 := acts.foldl (fun s a => afterAct (plainAct a s) s) { s with racing := .race (l.map (fun x => (x.1, x.2.1))) }
  { l.foldl (fun s x => leaveUnbounded x s) s1 with racing := .off }

/-- The input that says that the next act's agents race, or the next two acts; where none do, those acts run as they are. -/
def raceAct (pair : Bool) (s : State) : State :=
  match pair, s.agenda with
  | false, a :: r =>
    match racesWithin a { s with agenda := r } with
    | [] => s
    | l => runRace l [a] { s with agenda := r }
  | true, a :: b :: r =>
    match racesAcross a b { s with agenda := r } with
    | [] => s
    | l => runRace l [a, b] { s with agenda := r }
  | _, _ => s

/-- One act of the agenda. -/
def act (a : Act) (s : State) : Host.Outcome State Fault Refusal :=
  match a with
  | .input w (.race pair) => .next (raceAct pair (s.tick w))
  | _ => plainAct a s

end Sys2Proof.Machine
end

