-- ==== Sys2Proof/Machine/Step.lean ====
section
/-!
DEFINITION. One step of the package: the head of the agenda, or the issue of the thread in focus
(assumption 1).
-/
namespace Sys2Proof.Machine

/-- One step; no access of an earlier one is in progress. -/
def step (s : State) : Host.Outcome State Fault Refusal :=
  match s.agenda with
  | [] => issue { s with racing := .off }
  | a :: r => act a { s with agenda := r, racing := .off }

/-- The state with an instruction of the opcode table placed where `step` takes its next one
(assumption 12). -/
def State.withFetchWord (s : State) (nbits w : Nat) : State := placeWord s nbits w

end Sys2Proof.Machine
end

