-- ==== Sys2Proof/Certificates/Slice0/Obligations.lean ====
section
/-!
DEFINITION. The statements for the provers, and the terms they are written in. Where a statement gives the
state after an instruction as a whole, it says with it everything the instruction leaves unchanged.
-/
namespace Sys2Proof.Claims
open Machine

/-! ## Terms -/

/-- The operands that the source fields give, and the state after their pops (R46). -/
def vals (srcs : List RegField) (s : State) : List Reg := (popAll srcs s).1
def popped (srcs : List RegField) (s : State) : State := (popAll srcs s).2

/-- The data view of operand `n`. -/
def val (srcs : List RegField) (s : State) (n : Nat) : Word := (nth (vals srcs s) n).data

/-- Nothing stops an instruction at its operands: the word and its registers are allowed, every stream register is
bound in its direction and has its elements or room, and no register awaits a reply or holds an error. -/
def Ready (i : Instr) (srcs : List RegField) (dst : Option RegField) (s : State) : Prop :=
  operandHalt i srcs dst s = none

/-- The words of the formats RR, RI and WI: opcode, then the fields (R72). -/
def rrWord (op : Nat) (d a b : RegField) (fn : Nat) : Nat :=
  op * 2 ^ 26 + d.toNat * 2 ^ 20 + a.toNat * 2 ^ 14 + b.toNat * 2 ^ 8 + fn
def riWord (op : Nat) (d a : RegField) (imm : Nat) : Nat := op * 2 ^ 26 + d.toNat * 2 ^ 20 + a.toNat * 2 ^ 14 + imm
def wiWord (op : Nat) (d : RegField) (l : BitVec 20) : Nat := op * 2 ^ 26 + d.toNat * 2 ^ 20 + l.toNat

/-- The conditions of SET and SETI (R421). -/
def condRule (c : BitVec 3) (x y : Word) : Prop :=
  match c.toNat with
  | 0 => x.toNat = y.toNat
  | 1 => x.toNat ≠ y.toNat
  | 2 => x.toInt < y.toInt
  | 3 => y.toInt ≤ x.toInt
  | 4 => x.toNat < y.toNat
  | 5 => y.toNat ≤ x.toNat
  | _ => False

/-- `n` is the number of zero bits above the highest set bit of `x`. -/
def IsClz (x : Word) (n : Nat) : Prop :=
  n ≤ 64 ∧ (∀ k, 64 - n ≤ k → x.getLsbD k = false) ∧ (n < 64 → x.getLsbD (63 - n) = true)

/-- `n` is the number of zero bits below the lowest set bit of `x`. -/
def IsCtz (x : Word) (n : Nat) : Prop :=
  n ≤ 64 ∧ (∀ k, k < n → x.getLsbD k = false) ∧ (n < 64 → x.getLsbD n = true)

/-- How an instruction with a data result for `d` leaves the state: pops, the result, PC at the next word. -/
def wrote (srcs : List RegField) (d : RegField) (w : Word) (s : State) : State :=
  (writeData d w (popped srcs s)).advance 4

/-- An instruction with a data result for `d` computes `f` of its operands' data views, and does nothing else. -/
def Computes (i : Instr) (srcs : List RegField) (d : RegField) (w : Word) (s : State) : Prop :=
  Ready i srcs (some d) s → exec i s = .next (wrote srcs d w s)

/-- An instruction with the sources a and b. -/
def Binary (i : Instr) (d a b : RegField) (s : State) (f : Word → Word → Word) : Prop :=
  Computes i [a, b] d (f (val [a, b] s 0) (val [a, b] s 1)) s

/-- An instruction with the source a. -/
def Unary (i : Instr) (d a : RegField) (s : State) (f : Word → Word) : Prop :=
  Computes i [a] d (f (val [a] s 0)) s

/-- The operands as registers. -/
def reg (srcs : List RegField) (s : State) (n : Nat) : Reg := nth (vals srcs s) n

/-- How an instruction with a register result for `d` leaves the state. -/
def wroteReg (srcs : List RegField) (d : RegField) (r : Reg) (s : State) : State :=
  (writeDest d r (popped srcs s)).advance 4

/-- How a floating-point instruction leaves the state: the pattern, and its flags ORed into FSTAT (R55). -/
def wroteFlags (srcs : List RegField) (d : RegField) (r : Nat × Nat) (s : State) : State :=
  ((writeData d (BitVec.ofNat 64 r.1) (popped srcs s)).orFlags (BitVec.ofNat 64 r.2)).advance 4

/-- A floating-point instruction gives a pattern and flags, and does nothing else. -/
def Floats (i : Instr) (srcs : List RegField) (d : RegField) (r : Nat × Nat) (s : State) : Prop :=
  Ready i srcs (some d) s → exec i s = .next (wroteFlags srcs d r s)

/-- The pattern of operand `n` in a format: the low bits of its data view (R362). -/
def pat (f : Nat) (srcs : List RegField) (s : State) (n : Nat) : Nat := (val srcs s n).toNat % 2 ^ fmtWidth f

/-- An instruction traps at its own word and has no effect otherwise (R311, R337). -/
def TrapsAt (i : Instr) (s : State) (c : Cause) (v : Word) : Prop :=
  exec i s = .next (takeTrap c false v s.th.pc false s)

/-- FCLASS's class of a pattern (R369), as the number of its bit. -/
def ClassOf (f x k : Nat) : Prop :=
  (k = 0 ∧ decodeFloat f x = .inf true) ∨ (k = 7 ∧ decodeFloat f x = .inf false) ∨
  (k = 8 ∧ decodeFloat f x = .nan true) ∨ (k = 9 ∧ decodeFloat f x = .nan false) ∨
  (∃ neg m e, decodeFloat f x = .fin neg m e ∧
    ((m = 0 ∧ k = if neg then 3 else 4) ∨
     (0 < m ∧ m < 2 ^ fmtMant f ∧ k = if neg then 2 else 5) ∨
     (2 ^ fmtMant f ≤ m ∧ k = if neg then 1 else 6)))

/-- `e` is the least exponent whose units hold `[base, top)` in 0x4000 of them (R349). -/
def LeastExp (base top e : Nat) : Prop :=
  (top + 2 ^ e - 1) / 2 ^ e - base / 2 ^ e ≤ 0x4000 ∧
    ∀ e' < e, 0x4000 < (top + 2 ^ e' - 1) / 2 ^ e' - base / 2 ^ e'

/-- The capability `r` conveys nothing that `q` does not: its bounds lie in q's, and its permissions are among q's. -/
def Within (r q : Reg) : Prop :=
  capBase q ≤ capBase r ∧ capTop r ≤ capTop q ∧ ∀ p, r.has p = true → q.has p = true

/-- The thread in focus need not wait for a walk at `va` (R136): it hits the TLB, or a walk of its die is free for it. -/
def MayWalk (s : State) (va : Nat) : Prop := missWaits s s.th.quire s.th.ctx va false s.th.turn = false

/-- A translation of the thread's access ends in a leaf (R130), where a walk that it needs is free (R136): the physical
address, and the state after it. -/
def Translates (s : State) (va : Nat) (acc : Access) (pa : Nat) (t : State) : Prop :=
  MayWalk s va ∧
    ∃ page size w x, translate s s.th.quire s.th.ctx va acc = (.ok pa page size w x, t)

/-- No access of the step races with another, nor is recorded, as a step begins (R157, StepRunsDecoded): a load gives what
memory holds. -/
def Calm (s : State) : Prop := s.racing = .off

/-- A load of `n` bytes at `va` through `c` passes its checks: it waits for nothing, and reads `v` from memory. -/
def Loads (c : Reg) (va n : Nat) (acq : Bool) (s : State) (v : Nat) (t : State) : Prop :=
  Calm t ∧ accessWaits acq false va n s = .ok () ∧ capCheck c va n permLoad = .ok () ∧ va % n = 0 ∧
    ∃ pa, Translates s va .load pa t ∧ inMmio pa = false ∧ eccAt t pa n = false ∧ v = t.mem.readNat pa n

/-- A store of `n` bytes at `va` through `c` passes its checks, and reaches memory at `pa`. -/
def Stores (c : Reg) (va n : Nat) (rel : Bool) (s : State) (pa : Nat) (t : State) : Prop :=
  accessWaits rel rel va n s = .ok () ∧ capCheck c va n permStore = .ok () ∧ va % n = 0 ∧
    Translates s va .store pa t ∧ inMmio pa = false ∧ eccPartial t pa n = false

/-- An AMO or CAS passes its checks: its location, and what it reads there. -/
def Atomic (c : Reg) (n : Nat) (o : BitVec 2) (s : State) (pa old : Nat) (t : State) : Prop :=
  Calm t ∧ accessWaits (o != 0) (o == 2 || o == 3) c.addr n s = .ok () ∧ capCheck c c.addr n permLoad = .ok () ∧
    capCheck c c.addr n permStore = .ok () ∧ c.addr % n = 0 ∧ Translates s c.addr .store pa t ∧
    inMmio pa = false ∧ inHost pa = false ∧ eccAt t pa n = false ∧ old = t.mem.readNat pa n

/-- The operations of AMO and RAMO on `w`-bit values (R341). -/
def amoRule (p w : Nat) (x y : BitVec w) : BitVec w :=
  match p with
  | 0 => x + y
  | 1 => x &&& y
  | 2 => x ||| y
  | 3 => x ^^^ y
  | 4 => if x.toInt ≤ y.toInt then x else y
  | 5 => if x.toInt ≤ y.toInt then y else x
  | 6 => if x.toNat ≤ y.toNat then x else y
  | 7 => if x.toNat ≤ y.toNat then y else x
  | _ => y

/-- The address of an MI operand: a.address + off6 × n (R389, R426). -/
def addrMI (a : Word) (f : BitVec 6) (n : Nat) : Nat := (a + f.signExtend 64 * BitVec.ofNat 64 n).toNat

/-- The address of an MX operand: a.address + I × n (R389, R426). -/
def addrMX (a i : Word) (n : Nat) : Nat := (a + i * BitVec.ofNat 64 n).toNat

/-- A thread out of its phase before the close (R294, R296, R297): the time that it held the slot does not count towards a
pending pre-emption, and a stray element that reached it is reported at the close. -/
def outOfPhase (now : Nat) (t : Thread) : Thread :=
  match t.phase with
  | none => t
  | some p => { t with
      phase := none
      preempt := t.preempt.map (fun q => q + (min now (p.start + p.plen) - max q p.start))
      strays := if p.stray = true then t.strays ++ [(p.domain, p.start + p.plen)] else t.strays }

/-- What trap entry writes with a usable TBASE (R311): CAUSE, TVAL, EPC and PC; an open phase is left (R296), no
instruction waits in the slot or is still to issue again with what it took (R322), and a GANG_BROKEN that was to follow
the instruction does not come (R29). -/
def entered (c : Cause) (job : Bool) (v e : Word) (s : State) : State :=
  { s with th := { outOfPhase s.cycle.toNat s.th with
      cause := BitVec.ofNat 64 (c.num + (if job then 256 else 0))
      tval := v
      epc := s.th.fetchCap.atAddr e.toNat
      pc := BitVec.ofNat 64 s.th.tbase.addr
      stall := none
      abandoned := none
      turn := none
      pendTraps := s.th.pendTraps.filter (fun p => p.after == none)
      trapMark := true } }

/-- The same saved continuations, but for traps that wait for them. -/
def SameSaved (a b : List Thread) : Prop :=
  a.map (fun t => { t with pendTraps := [] }) = b.map (fun t => { t with pendTraps := [] })

/-- An instruction is a suspension point whose condition does not hold: it keeps its slot with that wait descriptor
until it is written back, and has no other effect (R12). -/
def SuspendsAt (i : Instr) (s : State) (w : Word) : Prop :=
  exec i s = .next (s.up (fun t => { t with stall := some (.suspend w) }))

/-- An instruction waits in its slot for a reason, and has no other effect. -/
def StallsAt (i : Instr) (s : State) (w : Why) : Prop :=
  exec i s = .next (s.up (fun t => { t with stall := some (.retry w) }))

/-- The wait descriptor of a kind, a selector and an operand (R14). -/
def waitWord (kind sel arg : Nat) : Word := BitVec.ofNat 64 (kind + 8 * sel + 2048 * arg)

/-- Continuation `u` can be written back from `s`: no page of its record and frame faults or parks (R138, R321), and they
are stored, which gives `t` (R12). -/
def Saves (u : Thread) (s t : State) : Prop :=
  forwardRoom s u = true ∧ (∀ x ∈ poolPages s u, ∃ pa p z w e, x.2 = .ok pa p z w e) ∧
    ∃ s1, storeFrame u (fun n => u.dirty.getLsbD n) s = some s1 ∧ storeRecord { u with dirty := 0 } s1 = some t

/-- In `t` the thread in focus of `s` has left its slot as the saved continuation `v`, and memory is that of `r`. -/
def LeftAs (s r t : State) (v : Thread) : Prop :=
  t.th.code = .exited ∧ t.conts = r.conts ++ [v] ∧ t.mem = r.mem ∧ v.launch = s.th.launch ∧ v.tid = s.th.tid ∧
    v.g = s.th.g ∧ v.dirty = 0

/-- The members of a huddle of a launch. -/
def membersOf (s : State) (launch num : Nat) : List Nat := ((s.huddle launch num).map (·.members)).getD []

/-- A remote request that the thread in focus sends (R251 to R253). -/
def Sent (s : State) (kind : ReqKind) (d : RegField) (va n : Nat) (x : Word) (acq rel : Bool) (sc : BitVec 3)
    (r : Request) : Prop :=
  r.scope = sc ∧ r.expired = false ∧ r.missAt = none ∧ r.kind = kind ∧ r.reg = d ∧ r.size = n ∧ r.data = x ∧ r.acq = acq ∧ r.rel = rel ∧ r.stage = .sent ∧
    r.outside = false ∧ r.wired = false ∧ r.parkedAt = none ∧ r.global = isGlobal va ∧ r.launch = s.th.launch ∧ r.tid = s.th.tid ∧ r.ctx = s.th.ctx ∧ r.serial = s.th.serial ∧
    (va < 2 ^ 56 → r.addr = va ∧ r.pkg = s.pkgid) ∧
    (va / 2 ^ 60 = 8 → r.addr = va % 2 ^ 48 ∧ r.pkg = BitVec.ofNat 12 (va / 2 ^ 48))

/-- `u` is the thread that SPAWN makes of `p`, apart from where it is placed (R17, R18). -/
def IsChild (p u : Thread) (a b : Reg) (prio id : Nat) : Prop :=
  u.launch = p.launch ∧ u.ctx = p.ctx ∧ u.code = .ready ∧ u.pc = BitVec.ofNat 64 a.addr ∧ u.fetchCap = a ∧
    u.prio = min prio p.queuePrio ∧ u.spawned = true ∧ u.arrived = false ∧ u.ganged = false ∧ u.replies = 0 ∧
    u.mbox = [] ∧ u.q = Vector.replicate 8 none ∧ u.m = BitVec.allOnes 128 ∧ u.v = Vector.replicate 16 0 ∧
    u.fstat = 0 ∧ u.tbase = Reg.null ∧ u.epc = Reg.null ∧ u.cbbase = Reg.null ∧
    u.routbase = p.routbase ∧ u.lrtbase = p.lrtbase ∧ u.deadline = p.deadline ∧ u.shapebase = u.reg 3 ∧
    u.reg 1 = p.reg 1 ∧ u.reg 4 = Reg.ofData (BitVec.ofNat 64 id) ∧ u.reg 5 = p.reg 5 ∧ u.reg 6 = b ∧
    ∀ n, n = 0 ∨ 7 ≤ n → u.reg n = Reg.null

/-- No second huddle of the state has the launch and number of `h`. -/
def Single (s : State) (h : Huddle) : Prop := ∀ k ∈ s.huddles, k.launch = h.launch → k.num = h.num → k = h

/-- A huddle with `members` and `arrived` in place of its own, after the release is decided (R23). -/
def decided (h : Huddle) (members arrived : List Nat) : Huddle :=
  { h with
    members := members
    gen := if h.broken = false ∧ members ≠ [] ∧ members ⊆ arrived then h.gen + 1 else h.gen
    arrived := if h.broken = false ∧ members ≠ [] ∧ members ⊆ arrived then [] else arrived }

/-- The thread in focus may use its huddle `h` at a barrier (R25, R313). -/
def MayMeet (s : State) (h : Huddle) : Prop :=
  h.num < 4096 ∧ s.huddle s.th.launch h.num = some h ∧ h.launch = s.th.launch ∧ s.th.tid ∈ h.members ∧ h.broken = false

/-- The thread in focus as the gang controller keeps it while it waits: leading `n` threads, or following (R378). -/
def waiting (s : State) (n : Nat) : GangWait := ⟨s.th.launch, s.th.tid, s.th.quire, s.th.core, s.th.slot, n, none⟩

/-- No other thread in a slot has the launch and id of the thread in focus. -/
def Distinct (s : State) : Prop := ∀ u ∈ s.others, u.is s.th.launch s.th.tid = false

/-- Nothing stops a remote operation at its issue (R251, R252, R292): the waits are over, the checks pass, the address is
aligned and of a form of R126 that `c` may name, and REPLIES has room. -/
def Asks (perms : List Nat) (c : Reg) (va n : Nat) (ordered release : Bool) (r : State) : Prop :=
  (if ordered then r.entries = [] else bytesFree va n r = .ok ()) ∧ (va < 2 ^ 56 → sendRead va n r = .ok ()) ∧
    (release = true → sendsRead r = .ok ()) ∧ acquired r = .ok () ∧
    (∀ p ∈ perms, capCheck c va n p = .ok ()) ∧ va % n = 0 ∧
    (va < 2 ^ 56 ∨ (va / 2 ^ 60 = 8 ∧ c.has permRemote = true)) ∧ r.th.replies < 255

/-- A remote operation is issued from `r` (R252): its request is under way, REPLIES counts it, and a destination that
is not g0 is pending. -/
def Issues (i : Instr) (kind : ReqKind) (d : RegField) (va n : Nat) (x : Word) (acq rel awaiting : Bool)
    (sc : BitVec 3) (s r : State) : Prop :=
  ∃ q, Sent r kind d va n x acq rel sc q ∧
    exec i s = .next (State.advance { r.up (fun t => { t with
        replies := t.replies + 1
        pend := if awaiting = true ∧ d ≠ 0 then t.pend ||| BitVec.twoPow 64 d.toNat else t.pend }) with
      requests := r.requests ++ [q]
      nextReq := r.nextReq + 1 } 4)

/-- A remote request that the thread in focus sent is answered in its slot (R253). -/
def Awaited (s : State) (q : Request) : Prop :=
  s.request q.num = some q ∧ q.outside = false ∧ s.th.code = .running ∧ s.th.is q.launch q.tid = true ∧
    s.th.serial = q.serial ∧ s.th.quire = q.quire ∧ s.th.core = q.core ∧ s.th.slot = q.slot ∧
    s.isSaved q.launch q.tid = false

/-- A thread after a reply: one reply fewer is outstanding, and data goes to the pending register, untagged (R252). -/
def answered (t : Thread) (d : RegField) (x : Option Word) : Thread :=
  match x with
  | none => { t with replies := t.replies - 1 }
  | some w => { t.setReg d.toNat (Reg.ofData w) with
      replies := t.replies - 1
      pend := t.pend &&& ~~~ BitVec.twoPow 64 d.toNat }

/-- The data of a fault reply: zero, where the operation writes a register (R254). -/
def zeroFor (k : ReqKind) : Option Word :=
  match k with
  | .rst => none
  | _ => some 0

/-- The TVAL of OUT_OF_SLOT (R295). -/
def slotWord (reason domain index : Nat) : Word :=
  BitVec.ofNat 64 (reason + domain % 64 * 2 ^ 8 + index % 2 ^ 32 * 2 ^ 32)

/-- The thread in focus may arrive in domain `n` (R287). -/
def MayArrive (s : State) (n : Nat) (h : n < 64) : Prop :=
  s.domains[n].valid = true ∧ s.domains[n].ctx = s.th.ctx ∧ s.domains[n].reserved = false ∧
    128 ≤ s.domains[n].plen ∧ s.domains[n].mask.testBit (8 * s.th.quire + s.th.core) = true ∧
    ∀ t ∈ s.others, t.quire = s.th.quire → t.core = s.th.core → ∀ c, t.stall ≠ some (.whistle n c)

/-- Domain `n` releases (R286, R287, R298): every member core has a thread that has arrived in the last ms, none is in an
open phase, whether or not its thread is still in it (a domain's own open phase among them, assumption 56), and no clock
change of a member's island or of the mesh is in progress. -/
def MayRelease (s : State) (n : Nat) (h : n < 64) : Prop :=
  s.domains[n].mask ≠ 0 ∧
    (∀ c < 3072, s.domains[n].mask.testBit c = true →
      (∃ t ∈ s.slots, 8 * t.quire + t.core = c ∧ ∃ since, t.stall = some (.whistle n since) ∧ s.cycle.toNat < since + 1200000) ∧
      ∀ p ∈ s.openPhases, s.cycle.toNat < p.start + p.plen → ∀ k : p.domain < 64, s.domains[p.domain].mask.testBit c = false) ∧
    ∀ i ∈ s.changing, i % 64 < 58 ∧
      (i % 64 < 48 → ∀ q ∈ [96 * (i / 64) + 2 * (i % 64), 96 * (i / 64) + 2 * (i % 64) + 1], ∀ c < 8,
        s.domains[n].mask.testBit (8 * q + c) = false)

/-- A pending pre-emption after a hold of the slot from `since` to now (R297). -/
def heldSince (since : Nat) (s : State) : Option Nat := s.th.preempt.map (fun q => q + (s.cycle.toNat - max q since))

/-- The thread in focus is in an open phase, and is the first of its core's threads that is. -/
def InPhase (s : State) (p : Phase) : Prop := s.th.code = .running ∧ s.th.phase = some p

/-! ### The vector unit -/

/-- Nothing stops a vector word (R161, R436): it is legal in the thread, its scalar is ready, the register that a VMOVG
writes is one of the thread's and awaits no reply (R33, R252), no register that it reads holds an error, and the sequencer
has room. -/
def VecReady (i : Instr) (s : State) : Prop :=
  vecLegal i s.th = .ok () ∧ Ready i (scalarOf i).toList none s ∧
    (∀ r, vecGdest i = some r → beyond s.th r = false ∧ awaitsReply s r = false) ∧ vecEcc (vecReads i) s = .ok () ∧
    seqRoom 1 s = .ok ()

/-- Element `k` is active (R160, R436). -/
def active (t : Thread) (w : Nat) (m : BitVec 1) (k : Nat) : Bool :=
  decide (k < min t.vl (1024 / w)) && (m != 1 || t.m.getLsbD k)

/-- The second operand of element `k`: the scalar's low bits, or the element of vb (R436). -/
def operandY (s : State) (w : Nat) (b : BitVec 4) (sc : BitVec 1) (h : BitVec 2) (k : Nat) : Nat :=
  if sc = 1 then (val [scalarReg h b] s 0).toNat % 2 ^ w else s.th.lane w b.toNat k

/-- The rounding mode of the thread in focus (R55). -/
def modeOf (s : State) : Nat := (s.th.fstat.extractLsb' 8 2).toNat

/-- `t` has one entry more in the sequencer than `s`, the newest, of the thread in focus and unbound (R161). -/
def Entered (s t : State) (e : SeqEntry) : Prop :=
  t.seqs = s.seqs ++ [e] ∧ e.launch = s.th.launch ∧ e.tid = s.th.tid ∧ e.quire = s.th.quire ∧ e.core = s.th.core ∧
    e.lane = none

/-- What a vector word leaves as it was. -/
def VecFrame (s t : State) : Prop :=
  t.mem = s.mem ∧ t.conts = s.conts ∧ t.th.pc = s.th.pc + 4 ∧ t.th.g = s.th.g ∧ t.th.vl = s.th.vl ∧
    t.th.cause = s.th.cause ∧ t.th.epc = s.th.epc ∧ t.th.dirty = s.th.dirty

/-- FSTAT of `t` is that of `s` with the flags of the elements that meet `p` ORed in (R55, R436). -/
def FlagsFrom (s t : State) (p : Nat → Bool) (f : Nat → Nat) : Prop :=
  ∀ b < 64, t.th.fstat.getLsbD b = true ↔ s.th.fstat.getLsbD b = true ∨ ∃ k, p k = true ∧ (f k).testBit b = true

/-- Behind what the sequencer still holds of the thread, vector words with their scalars are pushed whole: one entry, which
holds what the push captured, and no effect yet on the vector registers, m and FSTAT (R161, R165). -/
def Deferred (ws : List (Instr × Word)) (s t : State) (e : SeqEntry) : Prop :=
  Entered s t e ∧ e.work = some ⟨ws, s.th.vl, modeOf s, []⟩ ∧ e.held = 1 ∧ t.mem = s.mem ∧ t.th.g = s.th.g ∧
    t.th.v = s.th.v ∧ t.th.m = s.th.m ∧ t.th.fstat = s.th.fstat

/-- A vector word behind a replay of its thread completes as a push. -/
def Defers (i : Instr) (s : State) : Prop :=
  VecReady i s → behind s = true → ∃ (t : State) (e : SeqEntry), exec i s = .next t ∧ VecFrame s t ∧
    Deferred [(i, val (scalarOf i).toList s 0)] s t e

/-- A vector word gives element `k` of vd the value and the flags `f k` where it is active, and changes no other
element, no other vector register and not m (R436), at its push, where no replay of the thread is before it. -/
def Lanes (i : Instr) (d : BitVec 4) (w : Nat) (m : BitVec 1) (s : State) (f : Nat → Nat × Nat) : Prop :=
  (VecReady i s → behind s = false → ∃ (t : State) (e : SeqEntry), exec i s = .next t ∧ Entered s t e ∧ VecFrame s t ∧
    t.th.m = s.th.m ∧ (∀ n, n ≠ d.toNat → t.th.vreg n = s.th.vreg n) ∧
    (∀ k < 1024 / w, t.th.lane w d.toNat k = if active s.th w m k then (f k).1 % 2 ^ w else s.th.lane w d.toNat k) ∧
    FlagsFrom s t (active s.th w m) (fun k => (f k).2)) ∧
  Defers i s

/-- The floating format of a class and an et (R86). -/
def fmtOf (c e : BitVec 2) : Nat := if c = 2 then 5 else if e = 2 then 3 else 4

/-- An element as a signed number. -/
def signed (w x : Nat) : Int := (BitVec.ofNat w x).toInt

/-- One level of R124's tree: pairs are combined, and a last odd element stays. -/
def pairs (op : Nat → Nat → Nat) : List Nat → List Nat
  | a :: b :: r => op a b :: pairs op r
  | l => l

/-- The tree's result: at most 128 elements need seven levels. -/
def reduced (op : Nat → Nat → Nat) (empty : Nat) (l : List Nat) : Nat := (Nat.repeat (pairs op) 8 l).headD empty

/-- The active elements of va in ascending order (R124). -/
def actives (t : Thread) (w a : Nat) (m : BitVec 1) : List Nat :=
  ((List.range (1024 / w)).filter (active t w m)).map (t.lane w a)

/-- The active elements of a VLD or VST with their addresses (R163). -/
def elementsAt (t : Thread) (w : Nat) (m : BitVec 1) (place : Nat → Int) (n : Nat) : List (Nat × Nat) :=
  ((List.range (1024 / w)).filter (fun k => active t w m k && decide (k < n))).map (fun k => (k, wrapAddr (place k)))

/-- A VLD or VST passes its waits and the checks of every active element (R163): `ps` are the elements' physical
addresses, and `t` the state after their translations. A VLD that writes all of vd reads nothing of it (R326). -/
def Reaches (i : Instr) (store : Bool) (c : Reg) (w : Nat) (m : BitVec 1) (els : List (Nat × Nat)) (r : State)
    (ps : List (Nat × Nat)) (t : State) : Prop :=
  vecWaits i (w / 8) els r = .ok () ∧
    (vecEcc (vecReads i) r = .ok () ∨ (store = false ∧ m = 0 ∧ 1024 / w ≤ r.th.vl ∧ els.length = 1024 / w)) ∧
    elementChecks c (w / 8) store els r = .ok (ps, t)

/-- Memory with the elements stored. -/
def storedAt (n : Nat) (f : Nat → Nat) (ps : List (Nat × Nat)) (m : Memory) : Memory :=
  ps.foldl (fun m e => m.writeBytes e.2 (toBytesLE n (f e.1))) m


/-- The oldest entry of a core that is unbound, or of whose passes not all are (R164, R165). -/
def Head (s : State) (q k : Nat) (e : SeqEntry) : Prop :=
  s.seqs.find? (fun x => x.quire == q && x.core == k && x.lane.isNone && x.replay.all (fun r => decide (0 < r.left))) = some e

/-- It is core `k`'s turn at the lane groups of quire `q` (R164): the last core's, while it has bound fewer entries in its
turn than its head's weight and that head waits for none, or else the next one's in order with such a head. -/
def Turn (s : State) (q k : Nat) : Prop :=
  let last := (vecTurn s q).1
  let stays := ∃ e, readyHead s q last = some e ∧ (vecTurn s q).2 < headWeight s e
  (stays ∧ k = last) ∨
    (¬stays ∧ ∃ j < 8, k = (last + 1 + j) % 8 ∧ (readyHead s q k).isSome ∧ ∀ i < j, readyHead s q ((last + 1 + i) % 8) = none)

/-- A thread after the effect of one word of an entry (R161): a VMOVG to a general register writes it, and any other word
does what it does to the vector registers, m and FSTAT, with what its push captured. -/
def wordDone (w : VecWork) (x : Instr × Word) (t : Thread) : Thread :=
  match vecResult x.1 t with
  | some (r, y) => t.setReg r.toNat (Reg.ofData y)
  | none => vecEffect x.1 x.2 w.vl w.rm t

/-! ### Tile commands and routines -/

/-- `lo` and `hi` are the lesser and the greater of two patterns of a floating format (R106). -/
def LesserGreater (f p q lo hi : Nat) : Prop :=
  ((decodeFloat f p).isNaN = true → (decodeFloat f q).isNaN = true → lo = canonNaN f ∧ hi = canonNaN f) ∧
  ((decodeFloat f p).isNaN = true → (decodeFloat f q).isNaN = false → lo = q ∧ hi = q) ∧
  ((decodeFloat f p).isNaN = false → (decodeFloat f q).isNaN = true → lo = p ∧ hi = p) ∧
  ((decodeFloat f p).isNaN = false → (decodeFloat f q).isNaN = false →
    ((lo = p ∧ hi = q) ∨ (lo = q ∧ hi = p)) ∧ cmpNum (decodeFloat f lo) (decodeFloat f hi) ≤ 0 ∧
    (cmpNum (decodeFloat f p) (decodeFloat f q) = 0 → (decodeFloat f p).neg ≠ (decodeFloat f q).neg →
      (decodeFloat f lo).neg = true))

/-- The sixteen tile commands with the same fields (R91). -/
def tileCommands (c : Tile) : List Instr :=
  [.mma c, .accrd c, .accrel c, .outer c, .fold c, .scan c, .zip c, .copy c, .get c, .put c, .putAdd c, .pack c,
   .compact c, .qfence c, .lookup c, .coll c]

/-- The job that the thread in focus of `s` pushes alone with command `i`: its members' part is `regs` (R96). -/
def IsJob (s : State) (i : Instr) (c : Tile) (rs : List Routine) (id unit : Nat) (regs : List Reg) (j : Job) : Prop :=
  j.id = id ∧ j.cls = c.cls.toNat ∧ j.unit = unit ∧ j.quire = s.th.quire ∧ j.core = s.th.core ∧ j.ctx = s.th.ctx ∧
    j.launch = s.th.launch ∧ j.cmd = i ∧ j.tile = c ∧ j.routines = rs ∧ j.deadline = s.th.deadline ∧
    j.weight = 1 + s.th.prio / 16 ∧ j.status = 0 ∧ j.record = [] ∧ j.done = 0 ∧ j.number = none ∧ j.gang = none ∧
    j.parkedAt = none ∧ j.missAt = none ∧ j.timedOut = [] ∧ j.tickets = [] ∧
    ∃ m, j.members = [m] ∧ m.launch = s.th.launch ∧ m.tid = s.th.tid ∧ m.core = s.th.core ∧ m.regs = regs ∧
      m.shapebase = s.th.shapebase ∧ m.cbbase = s.th.cbbase ∧ m.fifo = [] ∧ m.delivered = false

/-- A slot of the routine unit gives t the pattern and raises the flags `r`, and the unit moves on by `n` slots; with
TRAP set, NV, DZ or OF end the invocation (R196, R202). Nothing else changes. -/
def Slot (i : Instr) (t : BitVec 3) (n : Nat) (s : State) (r : Nat × Nat) : Prop :=
  exec i s = .next { s with rt :=
    if s.rt.trap = true ∧ r.2 % 8 ≠ 0 then { s.rt with flags := BitVec.ofNat 8 r.2, active := false, fault := true }
    else { s.rt with
      t := s.rt.t.set t.toNat (BitVec.ofNat 64 (r.1 % 2 ^ fmtWidth s.rt.fmt))
      step := s.rt.step + n
      flags := BitVec.ofNat 8 r.2 } }

/-- Register `n` of the routine unit in a format of `w` bits. -/
def slotReg (w : Nat) (s : State) (n : BitVec 3) : BitVec w := (s.rt.t[n.toNat]).setWidth w

/-! ### Jobs -/

/-- Job `j` is its engine's under its id, and its one member `m` is the thread in focus, in its slot, with room in its
mailbox and no earlier message held back. -/
def Sole (s : State) (j : Job) (m : JobMember) : Prop :=
  s.jobOf j.id = some j ∧ j.members = [m] ∧ m.mail = [] ∧ s.th.is m.launch m.tid = true ∧ s.th.code = .running ∧
    s.isSaved m.launch m.tid = false ∧ s.th.mbox.length < 32

/-- A mailbox entry (R213), without the marks of a collective. -/
def message (id kind status cause : Nat) : Word :=
  BitVec.ofNat 64 (id % 2 ^ 32 + kind * 2 ^ 32 + status * 2 ^ 40 + cause * 2 ^ 56)

/-- The thread in focus with an entry more in its mailbox, where it is asked for. -/
def told (t : Thread) (asked : Bool) (e : Word) : Thread := if asked then { t with mbox := t.mbox ++ [e] } else t

/-- Only the job's member differs: `t` holds `j` in the place of its id. -/
def JobIs (t : State) (j : Job) : Prop := t.jobOf j.id = some j

/-- Ring `n` of the job's member advances by `k` from `s`, its position `old` at `at_` bytes in its descriptor (R50). -/
def RingMoves (j : Job) (m : JobMember) (n : BitVec 4) (k at_ : Nat) (pos : Ring → Nat) (s u : State) : Prop :=
  ∃ r s1, jobRing j m.cbbase n.toNat s = .ok (r, s1) ∧
    jobWrite j m.cbbase (ringAddr m.cbbase n.toNat + at_) (toBytesLE 4 (pos r + k)) 1 s1 = .ok u ∧
    u.th = s.th ∧ u.others = s.others ∧ u.conts = s.conts ∧ u.jobs = s.jobs

/-- The jobs of a core of an engine that wait, oldest first. -/
def waitingJobs (s : State) (cls unit core : Nat) : List Job :=
  s.jobs.reverse.filter (fun j => j.waits && j.inQueue cls unit core)

/-- Adjacent pieces of at most 16 (R197). -/
def groupsOf16 : Nat → List Nat → List (List Nat)
  | 0, _ => []
  | n + 1, l => if l = [] then [] else l.take 16 :: groupsOf16 n (l.drop 16)

/-- The pairwise tree of R124 over a list of any length. -/
def treeOf (op : Nat → Nat → Nat) (l : List Nat) : Nat := (Nat.repeat (pairs op) l.length l).headD 0

/-! ### Slots and their order -/

/-- What an instruction waits for in its slot is there, so that it issues again (R12, R46). -/
def Gone (w : Why) (s : State) : Prop :=
  match w with
  | .drain => s.entries = []
  | .register r => awaits s r = false
  | .pop r => hasElement s s.th (r.toNat - 56) = true
  | .replies n => s.th.replies < n
  | .acks => ∀ a ∈ s.issued, a.performed = true
  | .acquire => ∀ a ∈ s.mine, a.acq = false
  | .counter q k v => v.toNat ≤ (s.counter q k).toNat
  | .idle => s.th.mbox ≠ [] ∨ s.th.preempt ≠ none
  | .phase => s.th.phase = none
  | .noPhase => phaseOpen s = false
  | .queue cls unit => queueFull cls unit s = false
  | w => whyGone w s = true

/-- No ready deadline comes later than 0's (R306). -/
def deadlineKey (d : Word) : Nat := if d = 0 then 2 ^ 64 else d.toNat

/-- The ratio of a thread's tier on a quire is less than another's (R307). -/
def LessRatio (s : State) (q : Nat) (a b : Thread) : Prop :=
  s.quireCharge a.tier q * tierWeight s.tierw b.tier < s.quireCharge b.tier q * tierWeight s.tierw a.tier

/-- R307's order of pick-up: least ratio, higher PRIO, earlier DEADLINE, longest ready. -/
def Before (s : State) (q : Nat) (a b : Thread) : Prop :=
  LessRatio s q a b ∨ (¬LessRatio s q b a ∧ (b.prio < a.prio ∨ (a.prio = b.prio ∧
    (deadlineKey a.deadline < deadlineKey b.deadline ∨
      (deadlineKey a.deadline = deadlineKey b.deadline ∧ a.readyAt < b.readyAt)))))

/-- `t` is ready, every slot it may use is held by a tier of a greater ratio, and `v` holds one, with no greater ratio
held by another (R307). -/
def Crowds (s : State) (t v : Thread) : Prop :=
  readyNow s t = true ∧ usableSlots s t ≠ [] ∧
    (∀ x ∈ usableSlots s t, ∃ h, holder s t.quire x.1 x.2 = some h ∧ LessRatio s t.quire t h) ∧
    (∃ x ∈ usableSlots s t, ∃ h, holder s t.quire x.1 x.2 = some h ∧ h.is v.launch v.tid = true) ∧
    ∀ x ∈ usableSlots s t, ∀ h, holder s t.quire x.1 x.2 = some h → ¬LessRatio s t.quire v h

/-! ### The package's registers -/

/-- `t` is `s` with the registers of queue `q` alone changed, to `y`. -/
def QueueIs (s t : State) (q : Nat) (y : Queue) : Prop :=
  t.queue q = y ∧ (∀ p, p ≠ q → t.queue p = s.queue p) ∧ { t with queues := s.queues } = s

/-- Islands in retention are on, where the step reaches them, and the host window's accesses are issued (R327, R334). -/
def Awakens (s t : State) : Prop :=
  (∀ i, t.pwrctl i = s.pwrctl i ∨ ((s.pwrctl i).toNat % 4 = 1 ∧ t.pwrctl i = s.pwrctl i - 1)) ∧
    ∃ l, t.hostBus = l ++ s.hostBus

/-- `t` is `s` with the registers of queue `q` changed to `y`, and with what the command processor reaches. -/
def PacketIs (s t : State) (q : Nat) (y : Queue) : Prop :=
  QueueIs s { t with pwr := s.pwr, hostBus := s.hostBus } q y ∧ Awakens s t

/-- A QSTAT value: STATE, CODE and LATCH (R102). -/
def qstatOf (state code latch : Nat) : Word := BitVec.ofNat 64 (state + code * 2 ^ 8 + latch * 2 ^ 16)

/-- LATCH and STATE of a queue (R102). -/
def latchOf (x : Queue) : Nat := x.qstat.toNat / 2 ^ 16 % 2 ^ 32
def stateOf (x : Queue) : Nat := x.qstat.toNat % 4

/-- Slots filled, and slots of the ring (R98, R100). -/
def fillOf (x : Queue) : Nat := (x.qprod.toNat + 2 ^ 32 - x.qcons.toNat % 2 ^ 32) % 2 ^ 32

/-- The weight of tier `n` in a TIERW value (R301). -/
def weightOf (v : Word) (n : Nat) : Nat := v.toNat / 2 ^ (8 * n) % 256

/-- The island's register is `w` in `t`, and nothing else differs from `s`. -/
def PowerIs (s t : State) (i : Nat) (w : Nat) : Prop :=
  t.pwrctl i = BitVec.ofNat 64 w ∧ (∀ k, k ≠ i → t.pwrctl k = s.pwrctl k) ∧ { t with pwr := s.pwr } = s

/-- A PWRCTL write is refused (R334). -/
def PowerRefused (i : Nat) (v : Word) (s : State) : Prop :=
  let st := v.toNat % 4
  let fs := v.toNat / 4 % 16
  v.toNat / 2 ^ 6 % 4 ≠ 0 ∨ v.toNat / 2 ^ 13 ≠ 0 ∨ st = 3 ∨
    ((i % 64 < 48 ∨ 58 ≤ i % 64) ∧ (fs = 0 ∨ 8 < fs)) ∨ (48 ≤ i % 64 ∧ i % 64 < 58 ∧ fs ≠ 0) ∨
    (st = 2 ∧ i % 64 < 48 ∧ ∃ q, (q = 96 * (i / 64) + 2 * (i % 64) ∨ q = 96 * (i / 64) + 2 * (i % 64) + 1) ∧
      ((∃ t ∈ s.threads, t.code ≠ .exited ∧ t.quire = q) ∨ (∃ a ∈ s.acc, a.quire = q) ∨ ∃ r ∈ s.residents, r.quire = q)) ∨
    (st = 2 ∧ 48 ≤ i % 64 ∧ s.boot.recovery = false)

/-- The firmware image passes every check of R330. -/
def Accepted (img : List Byte) : Prop :=
  fwMagic img = 0x42465753 ∧ Config.verifies (img.take 48) (fwSignature img) = true ∧
    sha3_256 (fwBody img) = fwDigest img ∧ Config.minVersion.toNat ≤ fwVersion img

/-- The package runs the image of a slot, and no other boot register or field changes (R330 to R333). -/
def BootedFrom (b c : Boot) (slot afail bfail : Nat) (img : List Byte) : Prop :=
  c = { b with
    bootst := BitVec.ofNat 64 (slot + afail * 2 ^ 2 + bfail * 2 ^ 6 + fwVersion img * 2 ^ 10)
    disabled := b.failing
    defsig := Config.defectSignature b.failing
    features := [1, 2, 3, 4, 5, 6, 7, 8]
    digest := fwDigest img
    recovery := false }

/-- The fields of a RESMAP value (R141). -/
def mapCtx (v : Word) : Ctx := BitVec.ofNat 6 (v.toNat / 2 ^ 2)
def mapQuire (v : Word) : Nat := v.toNat / 2 ^ 8 % 2 ^ 9
def mapFirst (v : Word) : Nat := v.toNat / 2 ^ 17 % 2 ^ 9
def mapCount (v : Word) : Nat := v.toNat / 2 ^ 26 % 2 ^ 9

/-- A granule of the range is resident to another context. -/
def mapTaken (v : Word) (s : State) : Prop :=
  ∃ r ∈ s.residents, r.ctx ≠ mapCtx v ∧ r.quire = mapQuire v ∧ mapFirst v ≤ r.granule ∧ r.granule < mapFirst v + mapCount v

/-- A RESMAP write of one operation acts: RESMAP reads back with its status, and the granules and quotas are these. -/
def Maps (i : Instr) (v : Word) (s : State) (st : Nat) (residents : List Resident) (quotas : List (Nat × Nat × Nat)) : Prop :=
  ∃ t : State, exec i s = .next t ∧ t.resmap.toNat = v.toNat % 2 ^ 62 + st * 2 ^ 62 ∧ t.residents = residents ∧
    t.quotas = quotas ∧ t.mem = s.mem ∧ t.th = s.th

/-! ### Launches -/

/-- A whole packet is present at the head of a running queue (R100). -/
def Present (s : State) (x : Queue) : Prop :=
  stateOf x = 1 ∧ packetSlot s x 0 / 2 ^ 24 % 4 + 1 ≤ fillOf x

/-- MAGIC, VERSION and the reserved bits of a header hold (R99). -/
def GoodHeader (w : Nat) : Prop := w % 2 ^ 16 = 0x4C51 ∧ w / 2 ^ 16 % 2 ^ 8 = 1 ∧ w / 2 ^ 26 % 2 ^ 6 = 0

/-- The TYPE of a packet (R99). -/
def typeOf (w : Nat) : Nat := w / 2 ^ 32 % 2 ^ 8

/-- The launch that the command processor works on, once the head of queue `q` is another packet or is none (R306). -/
def notTaken (s : State) (q : Nat) : Option Nat := if s.taken = some q then none else s.taken

/-- Queue `q` halts at its packet: QCONS stays, LATCH names the packet, and the owner is signalled where it is to be
(R101, R102, R329). -/
def HaltsQueue (i : Instr) (s : State) (q code : Nat) : Prop :=
  ∃ t : State, exec i s = .next t ∧
    PacketIs s { t with msix := s.msix, taken := s.taken } q { s.queue q with
      qstat := qstatOf 2 code ((s.queue q).qcons.toNat % 2 ^ 32)
      parkedAt := none } ∧ t.taken = notTaken s q ∧
    t.msix = if (s.queue q).qctl.getLsbD 1 then s.msix ++ [((s.queue q).qown.toNat % 32, q % 64)] else s.msix

/-- The registers of a queue that has gone past a packet of header `w` (R100). -/
def past (x : Queue) (w : Nat) : Queue :=
  { x with
    qcons := BitVec.ofNat 64 ((x.qcons.toNat % 2 ^ 32 + w / 2 ^ 24 % 4 + 1) % 2 ^ 32)
    parkedAt := none }

/-- Queue `q` goes past its packet of header `w`, and nothing else changes. -/
def Passes (i : Instr) (s : State) (q w : Nat) : Prop :=
  ∃ t : State, exec i s = .next t ∧ PacketIs s { t with taken := s.taken } q (past (s.queue q) w) ∧ t.taken = notTaken s q

/-- The chunk of `va` parks queue `q` since core cycle `since`: since it met MIG = 1 there, or from now on (R138). -/
def ParksSince (s : State) (q va since : Nat) : Prop :=
  (s.queue q).parkedAt = some (va / 4096, since) ∨
    (since = s.cycle.toNat ∧ ∀ p, (s.queue q).parkedAt = some p → p.1 ≠ va / 4096)

/-- R306's order of two queues' launches: least ratio of the tier, higher tier, higher PRIO, earlier DEADLINE, lower
queue. -/
def Precedes (s : State) (a b : Nat) : Prop :=
  let x := s.queue a
  let y := s.queue b
  let ra := s.charge x.tier * tierWeight s.tierw y.tier
  let rb := s.charge y.tier * tierWeight s.tierw x.tier
  let da := deadlineKey (lpDeadline (packetSlot s x 0))
  let db := deadlineKey (lpDeadline (packetSlot s y 0))
  ra < rb ∨ (ra = rb ∧ (y.tier < x.tier ∨ (x.tier = y.tier ∧ (y.prio < x.prio ∨ (x.prio = y.prio ∧
    (da < db ∨ (da = db ∧ a < b)))))))

/-- Thread `i` of the launch that packet `w` of queue `x` makes of the kernel object with header `h` (R31, R35). -/
def IsLaunched (s : State) (x : Queue) (w h i : Nat) (u : Thread) : Prop :=
  let k := w / 2 ^ 64 % 2 ^ 64
  let n := w / 2 ^ 224 % 2 ^ 32
  let entry := h / 2 ^ 64 % 2 ^ 32
  u.launch = s.nextLaunch ∧ u.tid = i ∧ u.code = .ready ∧ u.ctx = x.qsched.setWidth 6 ∧
    u.pc = BitVec.ofNat 64 (k + entry) ∧ u.fetchCap = boundedCap (k + entry) k (h / 2 ^ 128 % 2 ^ 64) 0x005 ∧
    u.prio = x.qsched.toNat / 2 ^ 16 % 2 ^ 7 ∧ u.tier = x.qsched.toNat / 2 ^ 8 % 8 ∧
    u.deadline = BitVec.ofNat 64 (w / 2 ^ 256) ∧ u.spawned = false ∧ u.ganged = false ∧ u.arrived = false ∧ u.replies = 0 ∧
    u.reg 1 = boundedCap (w / 2 ^ 128 % 2 ^ 64) (w / 2 ^ 128 % 2 ^ 64) (w / 2 ^ 192 % 2 ^ 32) 0x009 ∧
    u.reg 2 = boundedCap u.privBase u.privBase (w / 2 ^ 320 % 2 ^ 20) 0x03B ∧ u.reg 3 = u.shapebase ∧
    u.reg 4 = Reg.ofData (BitVec.ofNat 64 i) ∧ u.reg 5 = Reg.ofData (BitVec.ofNat 64 n) ∧
    (∀ r, r = 0 ∨ 6 ≤ r → u.reg r = Reg.null) ∧ u.m = BitVec.allOnes 128 ∧ u.v = Vector.replicate 16 0 ∧
    u.q = Vector.replicate 8 none ∧ u.mbox = [] ∧ u.fstat = 0 ∧ u.dirty = 0

/-! ### The Referee -/

/-- The open numbers of the Referee after `f` on number `n`. -/
def opensAfter (s : State) (n : BitVec 32) (f : Kickoff → Kickoff) : List Kickoff :=
  s.referee.opens.map (fun k => if k.num = n then f k else k)

/-- `k` is the Referee's open number of its pair and of its number, and no other is. -/
def OpenNumber (s : State) (k : Kickoff) : Prop :=
  k ∈ s.referee.opens ∧ ∀ x ∈ s.referee.opens, x.num = k.num ∨ (x.commid = k.commid ∧ x.key = k.key) → x = k

/-- A number is cancelled at time `c` (R273): the engines skip it, and the jobs registered with it end CANCELLED. -/
def Cancels (s t : State) (k : Kickoff) : Prop :=
  t.mem = s.mem ∧ t.th = s.th ∧
    t.referee = { s.referee with opens := opensAfter s k.num (fun x => { x with cancelled := some s.cycle.toNat }) } ∧
    (∀ e ∈ t.engineNums, e.num = k.num.toNat → e.die < 4 → e.cancelled = true) ∧
    ∀ (i : Nat) (j : Job), s.jobs[i]? = some j → ∃ j' : Job, t.jobs[i]? = some j' ∧
      (j.cls = 3 → j.unit < 4 → j.stage = .registered → j.number = some k.num.toNat →
        (∃ e ∈ s.engineNums, e.die = j.unit ∧ e.num = k.num.toNat) → j'.status = 4 ∧ j'.stage = .running) ∧
      (j.stage ≠ .registered ∨ j.number ≠ some k.num.toNat → j' = j)

/-- Number `a` precedes number `b` (R270). -/
def NumberBefore (a b : Nat) : Prop := 1 ≤ (b + 2 ^ 32 - a % 2 ^ 32) % 2 ^ 32 ∧ (b + 2 ^ 32 - a % 2 ^ 32) % 2 ^ 32 ≤ 2 ^ 31 - 1

/-- The engine of a die may start the collective with number `n`: it has START for it, and every number that it has
been sent and that is neither over nor skipped comes later (R271). -/
def Startable (s : State) (die : Nat) (e : EngineNumber) : Prop :=
  e ∈ s.engineNums ∧ e.die = die ∧ e.started = true ∧ e.cancelled = false ∧
    (∀ x ∈ s.engineNums, x.die = die → x.cancelled = false → x = e ∨ NumberBefore e.num x.num) ∧
    engineBusy s die = false

/-- The registers that privileged code alone writes, of every context and of the package (R56, R57, R285, R314). -/
def ControlKept (s t : State) : Prop :=
  t.bdtab = s.bdtab ∧ t.resmap = s.resmap ∧ t.asidSel = s.asidSel ∧
    ∀ c : Ctx, (t.ctx c).ptroot = (s.ctx c).ptroot ∧ (t.ctx c).enable = (s.ctx c).enable ∧
      (t.ctx c).cntwin = (s.ctx c).cntwin ∧ (t.ctx c).spillbase = (s.ctx c).spillbase ∧
      (t.ctx c).ranktab = (s.ctx c).ranktab ∧ (t.ctx c).rankcnt = (s.ctx c).rankcnt ∧ (t.ctx c).mode = (s.ctx c).mode ∧
      (t.ctx c).savebase = (s.ctx c).savebase ∧ (t.ctx c).poolbase = (s.ctx c).poolbase ∧
      (t.ctx c).poolcnt = (s.ctx c).poolcnt
end Sys2Proof.Claims

open Sys2Proof Sys2Proof.Machine Sys2Proof.Claims


/-! ## Integer results -/

/-- R340, R343, R395, R400, R403, R419, R423, R429, R449: what the register forms compute; nothing else changes than the
destination, PC and what the operands pop. -/
def Sys2Proof.Claims.IntegerRegisterForms : Prop :=
  ∀ (d a b : RegField) (k : BitVec 2) (s : State),
    Binary (.add d a b) d a b s (fun x y => x + y) ∧
    Binary (.sub d a b) d a b s (fun x y => x - y) ∧
    Binary (.mul d a b) d a b s (fun x y => x * y) ∧
    Binary (.mulh d a b) d a b s (fun x y => (x.signExtend 128 * y.signExtend 128).extractLsb' 64 64) ∧
    Binary (.mulhU d a b) d a b s (fun x y => (x.setWidth 128 * y.setWidth 128).extractLsb' 64 64) ∧
    Binary (.and d a b) d a b s (fun x y => x &&& y) ∧
    Binary (.andn d a b) d a b s (fun x y => x &&& ~~~y) ∧
    Binary (.or d a b) d a b s (fun x y => x ||| y) ∧
    Binary (.xor d a b) d a b s (fun x y => x ^^^ y) ∧
    Binary (.shl d a b) d a b s (fun x y => x <<< y.setWidth 6) ∧
    Binary (.shr d a b) d a b s (fun x y => x >>> y.setWidth 6) ∧
    Binary (.shrA d a b) d a b s (fun x y => x.sshiftRight' (y.setWidth 6)) ∧
    Binary (.rot d a b) d a b s (fun x y => (x >>> y.setWidth 6) ||| (x <<< (64 - (y.setWidth 6).toNat))) ∧
    Binary (.min d a b) d a b s (fun x y => if x.toInt ≤ y.toInt then x else y) ∧
    Binary (.minU d a b) d a b s (fun x y => if x.toNat ≤ y.toNat then x else y) ∧
    Binary (.max d a b) d a b s (fun x y => if x.toInt ≤ y.toInt then y else x) ∧
    Binary (.maxU d a b) d a b s (fun x y => if x.toNat ≤ y.toNat then y else x) ∧
    Binary (.addsh d a b k) d a b s (fun x y => x * BitVec.ofNat 64 (2 ^ (k.toNat + 1)) + y) ∧
    Computes (.sel d a b) [a, b, d] d
      (if val [a, b, d] s 2 ≠ 0 then val [a, b, d] s 0 else val [a, b, d] s 1) s

/-- R340, R343, R397, R400, R402, R403, R423, R449: what the immediate forms compute, and that NOP only moves on. -/
def Sys2Proof.Claims.IntegerImmediateForms : Prop :=
  ∀ (d a : RegField) (j : BitVec 14) (l : BitVec 20) (n : BitVec 6) (s : State),
    Unary (.addi d a j) d a s (fun x => x + j.signExtend 64) ∧
    Unary (.andi d a j) d a s (fun x => x &&& j.signExtend 64) ∧
    Unary (.ori d a j) d a s (fun x => x ||| j.signExtend 64) ∧
    Unary (.xori d a j) d a s (fun x => x ^^^ j.signExtend 64) ∧
    Unary (.muli d a j) d a s (fun x => x * j.signExtend 64) ∧
    Unary (.shi d a 0 n) d a s (fun x => x <<< n) ∧
    Unary (.shi d a 1 n) d a s (fun x => x >>> n) ∧
    Unary (.shi d a 2 n) d a s (fun x => x.sshiftRight' n) ∧
    Unary (.shi d a 3 n) d a s (fun x => (x >>> n) ||| (x <<< (64 - n.toNat))) ∧
    Computes (.movi d l) [] d (l.signExtend 64) s ∧
    Unary (.movhi d l) d d s (fun x => (x <<< 20) ||| l.setWidth 64) ∧
    exec .nop s = .next (s.advance 4)

/-- The words of the integer forms, field by field, and what they may not name (R340, R343, R395, R397, R400, R403, R419,
R423, R429, R449). -/
def Sys2Proof.Claims.IntegerWords : Prop :=
  ∀ (d a b : RegField) (j : BitVec 14) (l : BitVec 20) (k : BitVec 2) (n r : BitVec 6) (s : State),
    (∀ fi ∈ [(0x00, Instr.add d a b), (0x01, .sub d a b), (0x02, .mul d a b), (0x03, .mulh d a b), (0x04, .mulhU d a b),
        (0x10, .and d a b), (0x11, .andn d a b), (0x12, .or d a b), (0x13, .xor d a b), (0x14, .shl d a b),
        (0x15, .shr d a b), (0x16, .shrA d a b), (0x17, .rot d a b), (0x20, .min d a b), (0x21, .minU d a b),
        (0x22, .max d a b), (0x23, .maxU d a b), (0x38 + k.toNat, .addsh d a b k)],
      decodeControl (rrWord 0x01 d a b fi.1) = .ok fi.2) ∧
    (d.toNat < 56 → decodeControl (rrWord 0x01 d a b 0x24) = .ok (.sel d a b) ∧
      decodeControl (wiWord 0x09 d l) = .ok (.movhi d l)) ∧
    (56 ≤ d.toNat → TrapsAt (.sel d a b) s .illegal (wordTval (.sel d a b)) ∧
      TrapsAt (.movhi d l) s .illegal (wordTval (.movhi d l))) ∧
    (∀ fi ∈ [(0x03, Instr.andi d a j), (0x04, .ori d a j), (0x05, .xori d a j), (0x0A, .muli d a j)],
      decodeControl (riWord fi.1 d a j.toNat) = .ok fi.2) ∧
    decodeControl (riWord 0x02 d a j.toNat) = .ok (if d = 0 ∧ a = 0 ∧ j = 0 then .nop else .addi d a j) ∧
    decodeControl (wiWord 0x08 d l) = .ok (.movi d l) ∧
    decodeControl (riWord 0x06 d a (k.toNat * 2 ^ 12 + n.toNat)) = .ok (.shi d a k n) ∧
    (r ≠ 0 → ∃ e, decodeControl (riWord 0x06 d a (k.toNat * 2 ^ 12 + r.toNat * 2 ^ 6 + n.toNat)) = .error e)

/-- R363: the words of the division forms, and what they compute: quotients truncate toward zero, a division by 0 gives
all ones and leaves a, and the one quotient that does not fit wraps. -/
def Obligations.DivisionForms : Prop :=
  ∀ (d a b : RegField) (s : State),
    (∀ fi ∈ [(0x05, Instr.div d a b), (0x06, .divU d a b), (0x07, .rem d a b), (0x08, .remU d a b)],
      decodeControl (rrWord 0x01 d a b fi.1) = .ok fi.2) ∧
    Binary (.div d a b) d a b s (fun x y => if y = 0 then BitVec.allOnes 64 else BitVec.ofInt 64 (x.toInt.tdiv y.toInt)) ∧
    Binary (.divU d a b) d a b s (fun x y => if y = 0 then BitVec.allOnes 64 else BitVec.ofNat 64 (x.toNat / y.toNat)) ∧
    Binary (.rem d a b) d a b s (fun x y => if y = 0 then x else BitVec.ofInt 64 (x.toInt.tmod y.toInt)) ∧
    Binary (.remU d a b) d a b s (fun x y => if y = 0 then x else BitVec.ofNat 64 (x.toNat % y.toNat))

/-- R421: SET and SETI write 1 where the condition holds and 0 where it does not; their words; SETI with cond 6 or 7 is
ILLEGAL. -/
def Obligations.SetWritesCondition : Prop :=
  ∀ (d a b : RegField) (c : BitVec 3) (j : BitVec 11) (s : State),
    (Ready (.set d a b c) [a, b] (some d) s → ∃ w : Word, exec (.set d a b c) s = .next (wrote [a, b] d w s) ∧
      (w = 0 ∨ w = 1) ∧ (w = 1 ↔ condRule c (val [a, b] s 0) (val [a, b] s 1))) ∧
    (Ready (.seti d a c j) [a] (some d) s → ∃ w : Word, exec (.seti d a c j) s = .next (wrote [a] d w s) ∧
      (w = 0 ∨ w = 1) ∧ (w = 1 ↔ condRule c (val [a] s 0) (j.signExtend 64))) ∧
    (c.toNat < 6 → decodeControl (rrWord 0x01 d a b (0x30 + c.toNat)) = .ok (.set d a b c) ∧
      decodeControl (riWord 0x07 d a (c.toNat * 2 ^ 11 + j.toNat)) = .ok (.seti d a c j)) ∧
    (6 ≤ c.toNat → (∃ e, decodeControl (riWord 0x07 d a (c.toNat * 2 ^ 11 + j.toNat)) = .error e) ∧
      TrapsAt (.seti d a c j) s .illegal (wordTval (.seti d a c j)))

/-- R353: CLZ, CTZ and POPC count the zero bits above, the zero bits below and the set bits; their words. -/
def Obligations.BitCounts : Prop :=
  ∀ (d a : RegField) (s : State),
    (Ready (.clz d a) [a] (some d) s → ∃ n, exec (.clz d a) s = .next (wrote [a] d (BitVec.ofNat 64 n) s) ∧
      IsClz (val [a] s 0) n) ∧
    (Ready (.ctz d a) [a] (some d) s → ∃ n, exec (.ctz d a) s = .next (wrote [a] d (BitVec.ofNat 64 n) s) ∧
      IsCtz (val [a] s 0) n) ∧
    (Ready (.popc d a) [a] (some d) s → exec (.popc d a) s =
      .next (wrote [a] d (BitVec.ofNat 64 ((List.range 64).countP (val [a] s 0).getLsbD)) s)) ∧
    decodeControl (rrWord 0x01 d a 0 0x28) = .ok (.clz d a) ∧
    decodeControl (rrWord 0x01 d a 0 0x29) = .ok (.ctz d a) ∧
    decodeControl (rrWord 0x01 d a 0 0x2A) = .ok (.popc d a)

/-! ## Floating point -/

/-- R366, R367, R369, R373, R374, R376: what the scalar floating-point instructions compute from their operands'
patterns, with the flags that FSTAT takes. -/
def Obligations.FloatArithmetic : Prop :=
  ∀ (d a b c : RegField) (t rm : BitVec 2) (s : State),
    let f := 3 + t.toNat
    let x := pat f [a, b] s 0
    let y := pat f [a, b] s 1
    Floats (.fadd d a b t rm) [a, b] d (addNum f rm.toNat (decodeFloat f x) (decodeFloat f y)) s ∧
    Floats (.fsub d a b t rm) [a, b] d (addNum f rm.toNat (decodeFloat f x) (negNum (decodeFloat f y))) s ∧
    Floats (.fmul d a b t rm) [a, b] d (mulNum f rm.toNat (decodeFloat f x) (decodeFloat f y)) s ∧
    Floats (.fdiv d a b t rm) [a, b] d (divNum f rm.toNat (decodeFloat f x) (decodeFloat f y)) s ∧
    Floats (.fsqrt d a t rm) [a] d (sqrtNum f rm.toNat (decodeFloat f (pat f [a] s 0))) s ∧
    Floats (.fmaFp32 d a b c rm) [a, b, c] d
      (fmaNum 3 rm.toNat (decodeFloat 3 (pat 3 [a, b, c] s 0)) (decodeFloat 3 (pat 3 [a, b, c] s 1))
        (decodeFloat 3 (pat 3 [a, b, c] s 2))) s ∧
    Floats (.fmaFp16 d a b c rm) [a, b, c] d
      (fmaNum 4 rm.toNat (decodeFloat 4 (pat 4 [a, b, c] s 0)) (decodeFloat 4 (pat 4 [a, b, c] s 1))
        (decodeFloat 4 (pat 4 [a, b, c] s 2))) s

/-- R366, R369, R374, R376: sign operations, classes, minimum and maximum, and comparisons. -/
def Sys2Proof.Claims.FloatTests : Prop :=
  ∀ (d a b : RegField) (t : BitVec 2) (s : State),
    let f := 3 + t.toNat
    let x := decodeFloat f (pat f [a, b] s 0)
    let y := decodeFloat f (pat f [a, b] s 1)
    let z := pat f [a] s 0
    let quiet := nvIf (x.isSignalling || y.isSignalling)
    let any := nvIf (x.isNaN || y.isNaN)
    Floats (.fsetEq d a b t) [a, b] d (b2n (!x.isNaN && !y.isNaN && decide (cmpNum x y = 0)), quiet) s ∧
    Floats (.fsetLt d a b t) [a, b] d (b2n (!x.isNaN && !y.isNaN && decide (cmpNum x y < 0)), any) s ∧
    Floats (.fsetLe d a b t) [a, b] d (b2n (!x.isNaN && !y.isNaN && decide (cmpNum x y ≤ 0)), any) s ∧
    Floats (.fsetUn d a b t) [a, b] d (b2n (x.isNaN || y.isNaN), quiet) s ∧
    Floats (.fneg d a t) [a] d (if (decodeFloat f z).isNaN then canonNaN f else z ^^^ 2 ^ (fmtWidth f - 1), 0) s ∧
    Floats (.fabs d a t) [a] d (if (decodeFloat f z).isNaN then canonNaN f else z % 2 ^ (fmtWidth f - 1), 0) s ∧
    (Ready (.fclass d a t) [a] (some d) s →
      ∃ k, ClassOf f z k ∧ exec (.fclass d a t) s = .next (wroteFlags [a] d (2 ^ k, 0) s))

/-- R106, R374: FMIN and FMAX. One NaN gives the other operand, two the canonical NaN; else the result is an operand
that no operand lies below (above), and −0 counts below +0. -/
def Sys2Proof.Claims.FloatMinMax : Prop :=
  ∀ (d a b : RegField) (t : BitVec 2) (s : State),
    let f := 3 + t.toNat
    let p := pat f [a, b] s 0
    let q := pat f [a, b] s 1
    let x := decodeFloat f p
    let y := decodeFloat f q
    let nv := nvIf (x.isSignalling || y.isSignalling)
    ∃ lo hi, Floats (.fmin d a b t) [a, b] d (lo, nv) s ∧ Floats (.fmax d a b t) [a, b] d (hi, nv) s ∧
      (x.isNaN = true → y.isNaN = true → lo = canonNaN f ∧ hi = canonNaN f) ∧
      (x.isNaN = true → y.isNaN = false → lo = q ∧ hi = q) ∧
      (x.isNaN = false → y.isNaN = true → lo = p ∧ hi = p) ∧
      (x.isNaN = false → y.isNaN = false →
        ((lo = p ∧ hi = q) ∨ (lo = q ∧ hi = p)) ∧ cmpNum (decodeFloat f lo) (decodeFloat f hi) ≤ 0 ∧
        (cmpNum x y = 0 → x.neg ≠ y.neg → (decodeFloat f lo).neg = true))

/-- R370, R371: FCVT converts the low bits of a, and places a signed integer sign-extended and all else
zero-extended. -/
def Sys2Proof.Claims.FcvtConverts : Prop :=
  ∀ (d a : RegField) (c e : BitVec 4) (rm : BitVec 2) (s : State),
    let r := convert e.toNat c.toNat rm.toNat (pat c.toNat [a] s 0)
    Floats (.fcvt d a c e rm) [a] d
      (if e = 0 ∨ e = 2 ∨ e = 10 ∨ e = 11 ∨ e = 12 then
        ((BitVec.ofNat (fmtWidth e.toNat) r.1).signExtend 64).toNat else r.1, r.2) s

/-- R371: a conversion of a format to itself leaves an integer and a floating number unchanged without a flag, and
makes a NaN canonical, with NV where it is signalling. -/
def Sys2Proof.Claims.ConversionToItself : Prop :=
  ∀ (f mode x : Nat), f ≤ 12 → mode < 4 → x < 2 ^ fmtWidth f →
    (isIntFmt f = true → convert f f mode x = (x, 0)) ∧
    (isFloatFmt f = true → (decodeFloat f x).isNaN = false → convert f f mode x = (x, 0)) ∧
    (isFloatFmt f = true → (decodeFloat f x).isNaN = true →
      convert f f mode x = (canonNaN f, if (decodeFloat f x).isSignalling then flagNV else 0))

/-! ## Capabilities -/

/-- R345, R350, R351: CADD and CADDI move a capability or give data; CCLR and CGET read one. -/
def Sys2Proof.Claims.CapabilityMoves : Prop :=
  ∀ (d a b : RegField) (j : BitVec 14) (s : State),
    (∀ x, x = ((reg [a, b] s 0).addr + (val [a, b] s 1).toNat) % 2 ^ 64 → Ready (.cadd d a b) [a, b] (some d) s →
      exec (.cadd d a b) s = .next (wroteReg [a, b] d
        (if (reg [a, b] s 0).tagged && representable (reg [a, b] s 0) x then (reg [a, b] s 0).withAddr x
          else ⟨BitVec.ofNat 128 x, false⟩) s)) ∧
    (∀ x, x = ((reg [a] s 0).addr + (j.signExtend 64).toNat) % 2 ^ 64 → Ready (.caddi d a j) [a] (some d) s →
      exec (.caddi d a j) s = .next (wroteReg [a] d
        (if (reg [a] s 0).tagged && representable (reg [a] s 0) x then (reg [a] s 0).withAddr x
          else ⟨BitVec.ofNat 128 x, false⟩) s)) ∧
    Computes (.cclr d a) [a] d (val [a] s 0) s ∧
    Computes (.cgetBase d a) [a] d (if (reg [a] s 0).tagged then BitVec.ofNat 64 (capBase (reg [a] s 0)) else 0) s ∧
    Computes (.cgetLen d a) [a] d
      (if (reg [a] s 0).tagged then BitVec.ofNat 64 (capTop (reg [a] s 0) - capBase (reg [a] s 0)) else 0) s ∧
    Computes (.cgetPerm d a) [a] d (if (reg [a] s 0).tagged then ((reg [a] s 0).val.extractLsb' 98 16).setWidth 64 else 0) s ∧
    Computes (.cgetTag d a) [a] d (if (reg [a] s 0).tagged then 1 else 0) s

/-- R349, R359: what CBND, CBND.x and CPRM give where they do not trap. -/
def Sys2Proof.Claims.CapabilityBoundsSet : Prop :=
  ∀ (d a b : RegField) (e : Nat) (s : State),
    let c := reg [a, b] s 0
    let base := c.addr
    let top := base + (val [a, b] s 1).toNat
    let nb := base / 2 ^ e * 2 ^ e
    let nt := (top + 2 ^ e - 1) / 2 ^ e * 2 ^ e
    let r := mkCap base e (nb / 2 ^ e) (nt / 2 ^ e) c.perm
    c.tagged = true →
    (base < top → top ≤ 2 ^ 64 → LeastExp base top e → capBase c ≤ nb → nt ≤ capTop c →
      (Ready (.cbnd d a b) [a, b] (some d) s → exec (.cbnd d a b) s = .next (wroteReg [a, b] d r s)) ∧
      (nb = base → nt = top → Ready (.cbndX d a b) [a, b] (some d) s →
        exec (.cbndX d a b) s = .next (wroteReg [a, b] d r s)) ∧
      (¬(nb = base ∧ nt = top) → Ready (.cbndX d a b) [a, b] (some d) s →
        TrapsAt (.cbndX d a b) s .capBounds (BitVec.ofNat 64 base))) ∧
    (top = base → capBase c ≤ base → base ≤ capTop c →
      (Ready (.cbnd d a b) [a, b] (some d) s →
        exec (.cbnd d a b) s = .next (wroteReg [a, b] d (mkCap base 51 0 0 c.perm) s)) ∧
      (Ready (.cbndX d a b) [a, b] (some d) s →
        exec (.cbndX d a b) s = .next (wroteReg [a, b] d (mkCap base 51 0 0 c.perm) s))) ∧
    (Ready (.cprm d a b) [a, b] (some d) s → ∃ r, exec (.cprm d a b) s = .next (wroteReg [a, b] d r s) ∧
      r.tagged = true ∧ r.addr = c.addr ∧ r.exp = c.exp ∧ r.baseField = c.baseField ∧ r.topField = c.topField ∧
      ∀ p < 16, r.has p = (c.has p && (val [a, b] s 1).getLsbD p))

/-- R349, R359: an untagged a raises CAP_TAG in CBND, CBND.x and CPRM, with a's address as TVAL. -/
def Sys2Proof.Claims.CapabilityTagNeeded : Prop :=
  ∀ (d a b : RegField) (s : State), (reg [a, b] s 0).tagged = false →
    (Ready (.cbnd d a b) [a, b] (some d) s → TrapsAt (.cbnd d a b) s .capTag (BitVec.ofNat 64 (reg [a, b] s 0).addr)) ∧
    (Ready (.cbndX d a b) [a, b] (some d) s → TrapsAt (.cbndX d a b) s .capTag (BitVec.ofNat 64 (reg [a, b] s 0).addr)) ∧
    (Ready (.cprm d a b) [a, b] (some d) s → TrapsAt (.cprm d a b) s .capTag (BitVec.ofNat 64 (reg [a, b] s 0).addr))

/-- What CBND, CBND.x, CPRM, CADD and CADDI make of a capability never conveys more than it did: the bounds do not
grow, and no permission is gained. -/
def Obligations.NoCapabilityGrows : Prop :=
  (∀ (exact : Bool) (c r : Reg) (len : Nat), bounded exact c len = .ok r → Within r c) ∧
  (∀ (c r : Reg) (mask : Nat), restricted c mask = .ok r → Within r c) ∧
  (∀ (c : Reg) (x : Nat), (c.moveTo x).tagged = true → c.tagged = true ∧ Within (c.moveTo x) c)

/-! ## Control flow -/

/-- R26, R344, R383 to R385: where branches and jumps go, and what they link. A follower of a gang pops and links only: its
leader's values decide where B and JR go. -/
def Obligations.BranchesAndJumps : Prop :=
  ∀ (d a b : RegField) (c : BitVec 3) (o : BitVec 11) (j : BitVec 26) (l : BitVec 20) (k : BitVec 14) (s : State),
    (s.th.ganged = true → s.th.gpos ≠ 0 →
      (Ready (.b a b c o) [a, b] none s → exec (.b a b c o) s = .next ((popped [a, b] s).advance 4)) ∧
      (Ready (.jr d a k) [a] (some d) s →
        exec (.jr d a k) s = .next ((writeData d (s.th.pc + 4) (popped [a] s)).advance 4))) ∧
    (s.th.ganged = false ∨ s.th.gpos = 0 → Ready (.b a b c o) [a, b] none s →
      ((if c = 6 then val [a, b] s 0 = 0 else condRule c (val [a, b] s 0) (val [a, b] s 1)) →
        exec (.b a b c o) s = .next ((popped [a, b] s).jumpTo (s.th.pc + 4 * o.signExtend 64))) ∧
      (¬(if c = 6 then val [a, b] s 0 = 0 else condRule c (val [a, b] s 0) (val [a, b] s 1)) →
        exec (.b a b c o) s = .next ((popped [a, b] s).advance 4))) ∧
    (Ready (.j j) [] none s → exec (.j j) s = .next (s.jumpTo (s.th.pc + 4 * j.signExtend 64))) ∧
    (Ready (.jal d l) [] (some d) s →
      exec (.jal d l) s = .next ((writeData d (s.th.pc + 4) s).jumpTo (s.th.pc + 4 * l.signExtend 64))) ∧
    (∀ t, t = val [a] s 0 + 4 * k.signExtend 64 → s.th.ganged = false ∨ s.th.gpos = 0 → Ready (.jr d a k) [a] (some d) s →
      (t.toNat % 4 = 0 → (reg [a] s 0).tagged = false →
        exec (.jr d a k) s = .next ((writeData d (s.th.pc + 4) (popped [a] s)).jumpTo t)) ∧
      (t.toNat % 4 = 0 → (reg [a] s 0).tagged = true →
        exec (.jr d a k) s = .next (((writeData d (s.th.pc + 4) (popped [a] s)).up
          (fun x => { x with fetchCap := (reg [a] s 0).atAddr t.toNat })).jumpTo t)) ∧
      (t.toNat % 4 ≠ 0 → TrapsAt (.jr d a k) s .misalign t))

/-! ## Operands -/

/-- R39, R40, R46: a general register is read where it is, g0 as the null value; a stream register gives its oldest
element as untagged data, and the binding loses that element. -/
def Sys2Proof.Claims.OperandsRead : Prop :=
  ∀ (r : RegField) (s : State),
    (r = 0 → popOne r s = (⟨0, false⟩, s)) ∧
    (∀ h : r.toNat < 56, r ≠ 0 → popOne r s = (s.th.g[r.toNat], s)) ∧
    (∀ b e rest, 56 ≤ r.toNat → s.th.stream (r.toNat - 56) = some b → b.buf = e :: rest →
      (popOne r s).1 = ⟨e.setWidth 128, false⟩ ∧
      (∃ more, (popOne r s).2.th.stream (r.toNat - 56) = some { b with buf := rest ++ more }) ∧
      (popOne r s).2.th.g = s.th.g ∧ (popOne r s).2.th.pc = s.th.pc ∧ (popOne r s).2.mem = s.mem)

/-- R46: each source field that names a stream register pops once, in order: two fields of one register take the
first element and the second. -/
def Sys2Proof.Claims.StreamPopsInOrder : Prop :=
  ∀ (r : RegField) (b : Binding) (x y : Word) (rest : List Word) (s : State),
    56 ≤ r.toNat → s.th.stream (r.toNat - 56) = some b → b.buf = x :: y :: rest →
      val [r, r] s 0 = x ∧ val [r, r] s 1 = y

/-- R8, R39, R40, R46, R249: a data result written to a general register clears its tag and marks it dirty; one written
to g0 is discarded; one written to a stream register enters the core's injection queue as one message. -/
def Sys2Proof.Claims.ResultsWritten : Prop :=
  ∀ (d : RegField) (w : Word) (s : State),
    (d = 0 → (writeData d w s).th = s.th ∧ (writeData d w s).mem = s.mem ∧ (writeData d w s).inject = s.inject) ∧
    (∀ h : d.toNat < 56, d ≠ 0 →
      (writeData d w s).th = { s.th with
        g := s.th.g.set d.toNat ⟨w.setWidth 128, false⟩ h, dirty := s.th.dirty ||| BitVec.twoPow 64 d.toNat } ∧
      (writeData d w s).mem = s.mem ∧ (writeData d w s).inject = s.inject) ∧
    (∀ b, 56 ≤ d.toNat → s.th.stream (d.toNat - 56) = some b →
      (writeData d w s).th = s.th ∧ (writeData d w s).mem = s.mem ∧
      (writeData d w s).inject = s.inject ++
        [⟨s.th.quire, s.th.core, s.th.ctx, (b.word.setWidth 32).toNat, b.word.extractLsb' 32 8, w⟩])

/-- R33, R46: what stops an instruction at its operands. A register at or beyond the thread's count is ILLEGAL at the
word; then a stream register that is unbound or of the wrong direction is STREAM_UNBOUND; an empty stream stalls. -/
def Sys2Proof.Claims.OperandStops : Prop :=
  ∀ (i : Instr) (srcs : List RegField) (dst : Option RegField) (s : State),
    ((∃ r ∈ srcs ++ dst.toList, r.toNat < 56 ∧ r ≠ 0 ∧ 8 * s.th.gran ≤ r.toNat) →
      operandHalt i srcs dst s = some (.trap .illegal (wordTval i))) ∧
    (i.wellFormed = true → (∀ r ∈ srcs ++ dst.toList, r.toNat < 56 → r ≠ 0 → r.toNat < 8 * s.th.gran) →
      ((∃ r ∈ srcs, 56 ≤ r.toNat ∧ ∀ b, s.th.stream (r.toNat - 56) = some b → b.kind = .tx) →
        ∃ r ∈ srcs, 56 ≤ r.toNat ∧ (∀ b, s.th.stream (r.toNat - 56) = some b → b.kind = .tx) ∧
          operandHalt i srcs dst s = some (.trap .streamUnbound (r.setWidth 64))) ∧
      ((∀ r ∈ srcs, 56 ≤ r.toNat → ∃ b, s.th.stream (r.toNat - 56) = some b ∧ b.kind ≠ .tx) →
        ∀ d, dst = some d → 56 ≤ d.toNat → (∀ b, s.th.stream (d.toNat - 56) = some b → b.kind ≠ .tx) →
          operandHalt i srcs dst s = some (.trap .streamUnbound (d.setWidth 64))) ∧
      (∀ r b, srcs = [r] → dst = none → 56 ≤ r.toNat → s.th.stream (r.toNat - 56) = some b → b.kind ≠ .tx → b.buf = [] →
        operandHalt i srcs dst s = some (.stall (.retry (.pop r)))))

/-- R33, R46: an instruction whose word is allowed and whose fields all name general registers below the thread's
count, none of which awaits a reply or holds an error, is stopped by nothing at its operands. -/
def Sys2Proof.Claims.GeneralOperandsReady : Prop :=
  ∀ (i : Instr) (srcs : List RegField) (dst : Option RegField) (s : State),
    i.wellFormed = true → (∀ r ∈ srcs ++ dst.toList, r.toNat < 56 ∧ (r = 0 ∨ r.toNat < 8 * s.th.gran)) →
    s.th.pend = 0 → s.seqs = [] → s.ecc = [] → Ready i srcs dst s

/-! ## Traps -/

/-- R311: with a usable TBASE a trap writes CAUSE, TVAL and EPC, continues at TBASE, and changes nothing else; without
one, or where it arose from fetching at TBASE, the thread becomes faulted, out of its slot, with PC at e. -/
def Sys2Proof.Claims.TrapEntryState : Prop :=
  ∀ (c : Cause) (job fetching : Bool) (v e : Word) (s : State),
    (s.th.tbase.tagged = true → capBase s.th.tbase ≤ s.th.tbase.addr → s.th.tbase.addr + 4 ≤ capTop s.th.tbase →
      s.th.tbase.has permExec = true → (fetching = false ∨ e.toNat ≠ s.th.tbase.addr) →
        takeTrap c job v e fetching s = entered c job v e s) ∧
    ((s.th.tbase.tagged = false ∨ (fetching = true ∧ e.toNat = s.th.tbase.addr)) →
      ∃ t, (takeTrap c job v e fetching s).conts.getLast? = some t ∧
        (takeTrap c job v e fetching s).th.code = .exited ∧
        t.launch = s.th.launch ∧ t.tid = s.th.tid ∧ t.code = .faulted ∧ t.pc = e ∧
        t.cause = BitVec.ofNat 64 (c.num + (if job then 256 else 0)) ∧ t.tval = v ∧ t.mbox = [] ∧ t.ganged = false)

/-- R434: TRAP completes and takes cause TRAP, with TVAL its code and EPC at the next word. R364, R314: a privileged
ERET outside a gang sets PC to EPC's address, and changes nothing else. An unprivileged one raises PRIVILEGE, and a
failed check of EPC is FETCH_FAULT at the target. -/
def Sys2Proof.Claims.TrapAndReturn : Prop :=
  ∀ (k : BitVec 12) (s : State),
    (Ready (.trap k) [] none s → s.entries = [] →
      exec (.trap k) s = .next (takeTrap .trap false (k.setWidth 64) (s.th.pc + 4) false s)) ∧
    (Ready .eret [] none s →
      (s.priv = true → s.th.ganged = false → capCheck s.th.epc s.th.epc.addr 4 permExec = .ok () →
        s.th.epc.addr % 4 = 0 → exec .eret s = .next (s.jumpTo (BitVec.ofNat 64 s.th.epc.addr))) ∧
      (s.priv = true → s.th.ganged = false → s.th.epc.tagged = false → ∃ v,
        exec .eret s = .next (takeTrap .fetchFault false v (BitVec.ofNat 64 s.th.epc.addr) true s)) ∧
      (s.priv = false → TrapsAt .eret s .privilege 0xF8002000) ∧
      (s.priv = true → s.th.ganged = true → TrapsAt .eret s .illegal 0xF8002000))

/-! ## Memory -/

/-- R389 to R391: LD and LD.x load 1, 2, 4 or 8 bytes, zero-extended; LD.c loads a granule, tagged only where memory
has its tag and a has LOADCAP. Nothing is stored. -/
def Obligations.LoadsRead : Prop :=
  ∀ (d a b : RegField) (z : BitVec 2) (o c : BitVec 3) (f : BitVec 6) (s t : State) (v pa : Nat),
    (Ready (.ld d a z o c f) [a] (some d) s →
      Loads (reg [a] s 0) (addrMI (val [a] s 0) f (2 ^ z.toNat)) (2 ^ z.toNat) (o == 1) (popped [a] s) v t →
        exec (.ld d a z o c f) s = .next ((writeData d (BitVec.ofNat 64 v) t).advance 4) ∧ t.mem = s.mem) ∧
    (Ready (.ldX d a z o c b) [a, b] (some d) s →
      Loads (reg [a, b] s 0) (addrMX (val [a, b] s 0) (val [a, b] s 1) (2 ^ z.toNat)) (2 ^ z.toNat) (o == 1)
        (popped [a, b] s) v t →
        exec (.ldX d a z o c b) s = .next ((writeData d (BitVec.ofNat 64 v) t).advance 4) ∧ t.mem = s.mem) ∧
    (∀ va, va = (val [a, b] s 0 + val [a, b] s 1).toNat → Ready (.ldC d a b) [a, b] (some d) s →
      accessWaits false false va 16 (popped [a, b] s) = .ok () → capCheck (reg [a, b] s 0) va 16 permLoad = .ok () →
      va % 16 = 0 → Translates (popped [a, b] s) va .load pa t → Calm t → inMmio pa = false → eccAt t pa 16 = false →
        exec (.ldC d a b) s = .next ((writeDest d ⟨BitVec.ofNat 128 (t.mem.readNat pa 16),
          t.mem.tag pa && (reg [a, b] s 0).has permLoadCap⟩ t).advance 4) ∧ t.mem = s.mem)

/-- R426 to R428: ST and ST.x store the low bytes of d, and ST.c a granule with its tag. -/
def Sys2Proof.Claims.StoresWrite : Prop :=
  ∀ (d a b : RegField) (z : BitVec 2) (o c : BitVec 3) (f : BitVec 6) (s t : State) (pa : Nat),
    (Ready (.st d a z o c f) [a, d] none s →
      Stores (reg [a, d] s 0) (addrMI (val [a, d] s 0) f (2 ^ z.toNat)) (2 ^ z.toNat) (o == 2) (popped [a, d] s) pa t →
        exec (.st d a z o c f) s = .next
          ((t.store s.th.ctx pa (toBytesLE (2 ^ z.toNat) (val [a, d] s 1).toNat)).advance 4)) ∧
    (Ready (.stX d a z o c b) [a, b, d] none s →
      Stores (reg [a, b, d] s 0) (addrMX (val [a, b, d] s 0) (val [a, b, d] s 1) (2 ^ z.toNat)) (2 ^ z.toNat) (o == 2)
        (popped [a, b, d] s) pa t →
        exec (.stX d a z o c b) s = .next
          ((t.store s.th.ctx pa (toBytesLE (2 ^ z.toNat) (val [a, b, d] s 2).toNat)).advance 4)) ∧
    (∀ va, va = (val [a, b, d] s 0 + val [a, b, d] s 1).toNat → Ready (.stC d a b) [a, b, d] none s →
      accessWaits false false va 16 (popped [a, b, d] s) = .ok () →
      capCheck (reg [a, b, d] s 0) va 16 permStore = .ok () → va % 16 = 0 →
      ((reg [a, b, d] s 2).tagged = true → (reg [a, b, d] s 0).has permStoreCap = true ∧
        ((reg [a, b, d] s 2).has permGlobal = true ∨ (s.th.privBase ≤ va ∧ va < s.th.privBase + s.th.privLen))) →
      Translates (popped [a, b, d] s) va .store pa t → inMmio pa = false →
        exec (.stC d a b) s = .next
          ((t.storeCap s.th.ctx pa ⟨(reg [a, b, d] s 2).val, (reg [a, b, d] s 2).tagged⟩).advance 4))

/-- R5, R43, R427: after a store outside the slices the bytes stored read as the value, lowest address first, every
other byte reads as before, and of the tags only those of the granules touched change: they are clear. -/
def Sys2Proof.Claims.StoredBytes : Prop :=
  ∀ (s : State) (c : Ctx) (pa n x : Nat), s.mem.wf = true → inSlices pa = false →
    (s.store c pa (toBytesLE n x)).mem.wf = true ∧
    (s.store c pa (toBytesLE n x)).mem.readNat pa n = x % 256 ^ n ∧
    (∀ b, (b < pa ∨ pa + n ≤ b) → (s.store c pa (toBytesLE n x)).mem.read b = s.mem.read b) ∧
    (∀ b, pa ≤ b → b < pa + n → (s.store c pa (toBytesLE n x)).mem.tag b = false) ∧
    (∀ b, b / 16 < pa / 16 ∨ (pa + n - 1) / 16 < b / 16 → 0 < n →
      (s.store c pa (toBytesLE n x)).mem.tag b = s.mem.tag b) ∧
    (s.store c pa (toBytesLE n x)).th = s.th

/-- R44, R389, R426: a load or store traps for the first of CAP_TAG, CAP_BOUNDS, CAP_PERM, MISALIGN and PAGE_FAULT
that applies, and then has no effect. -/
def Obligations.AccessTraps : Prop :=
  ∀ (d a : RegField) (z : BitVec 2) (o c : BitVec 3) (f : BitVec 6) (k : Cause) (v : Word) (s : State),
    let l := addrMI (val [a] s 0) f (2 ^ z.toNat)
    let m := addrMI (val [a, d] s 0) f (2 ^ z.toNat)
    (Ready (.ld d a z o c f) [a] (some d) s → accessWaits (o == 1) false l (2 ^ z.toNat) (popped [a] s) = .ok () →
      (capCheck (reg [a] s 0) l (2 ^ z.toNat) permLoad = .error (.trap k v) → TrapsAt (.ld d a z o c f) s k v) ∧
      (capCheck (reg [a] s 0) l (2 ^ z.toNat) permLoad = .ok () → l % 2 ^ z.toNat ≠ 0 →
        TrapsAt (.ld d a z o c f) s .misalign (BitVec.ofNat 64 l)) ∧
      (capCheck (reg [a] s 0) l (2 ^ z.toNat) permLoad = .ok () → l % 2 ^ z.toNat = 0 →
        MayWalk (popped [a] s) l →
        (∃ t, translate (popped [a] s) (popped [a] s).th.quire (popped [a] s).th.ctx l .load = (.fault v, t)) →
          TrapsAt (.ld d a z o c f) s .pageFault v)) ∧
    (Ready (.st d a z o c f) [a, d] none s → accessWaits (o == 2) (o == 2) m (2 ^ z.toNat) (popped [a, d] s) = .ok () →
      (capCheck (reg [a, d] s 0) m (2 ^ z.toNat) permStore = .error (.trap k v) → TrapsAt (.st d a z o c f) s k v) ∧
      (capCheck (reg [a, d] s 0) m (2 ^ z.toNat) permStore = .ok () → m % 2 ^ z.toNat ≠ 0 →
        TrapsAt (.st d a z o c f) s .misalign (BitVec.ofNat 64 m)) ∧
      (capCheck (reg [a, d] s 0) m (2 ^ z.toNat) permStore = .ok () → m % 2 ^ z.toNat = 0 →
        MayWalk (popped [a, d] s) m →
        (∃ t, translate (popped [a, d] s) (popped [a, d] s).th.quire (popped [a, d] s).th.ctx m .store = (.fault v, t)) →
          TrapsAt (.st d a z o c f) s .pageFault v))

/-- R341, R346: AMO writes op(old, b) and CAS writes b where the old value is d's; both give the old value,
zero-extended, and a CAS that fails stores nothing. -/
def Obligations.AtomicsUpdate : Prop :=
  ∀ (d a b : RegField) (p : BitVec 4) (o z : BitVec 2) (n pa old : Nat) (s t : State),
    n = (if z = 2 then 4 else 8) →
    (Ready (.amo d a b p o z) [a, b] (some d) s → Atomic (reg [a, b] s 0) n o (popped [a, b] s) pa old t →
      (p ≠ 9 → exec (.amo d a b p o z) s = .next ((writeData d (BitVec.ofNat 64 old) (t.store s.th.ctx pa (toBytesLE n
          (amoRule p.toNat (8 * n) (BitVec.ofNat (8 * n) old) ((val [a, b] s 1).setWidth (8 * n))).toNat))).advance 4)) ∧
      (p = 9 → exec (.amo d a b p o z) s = .next ((writeData d (BitVec.ofNat 64 old) (t.store s.th.ctx pa (toBytesLE n
          (fpAdd 3 0 old ((val [a, b] s 1).toNat % 2 ^ 32)).1))).advance 4))) ∧
    (Ready (.cas d a b o z) [a, b, d] (some d) s → Atomic (reg [a, b, d] s 0) n o (popped [a, b, d] s) pa old t →
      (old = (val [a, b, d] s 2).toNat % 2 ^ (8 * n) →
        exec (.cas d a b o z) s = .next ((writeData d (BitVec.ofNat 64 old)
          (t.store s.th.ctx pa (toBytesLE n (val [a, b, d] s 1).toNat))).advance 4)) ∧
      (old ≠ (val [a, b, d] s 2).toNat % 2 ^ (8 * n) →
        exec (.cas d a b o z) s = .next ((writeData d (BitVec.ofNat 64 old) t).advance 4)))

/-- R148, R292, R372, R406: FENCE completes once the thread's vector work is done and, with msg in its before-set, every
remote operation is performed, the storing ones are acknowledged, and every element of its scheduled sends is read; PREF
completes where it may load the first byte. Neither changes a register but PC, nor memory. -/
def Sys2Proof.Claims.FenceAndPref : Prop :=
  ∀ (x y : BitVec 4) (c : BitVec 3) (a : RegField) (z : BitVec 2) (f : BitVec 6) (s : State),
    (Ready (.fence x y c) [] none s → s.entries = [] →
      (x.getLsbD 3 = true → (∀ r ∈ s.issued, r.stage ≠ .sent ∧ (r.expired = true ∨ r.kind = .rld)) ∧ sendsRead s = .ok ()) →
        exec (.fence x y c) s = .next (s.advance 4)) ∧
    (∀ va, va = addrMI (val [a] s 0) f 64 → Ready (.pref a z f) [a] none s →
      acquired (popped [a] s) = .ok () → capCheck (reg [a] s 0) va 1 permLoad = .ok () → va < 2 ^ 56 →
        ∃ t : State, exec (.pref a z f) s = .next (t.advance 4) ∧ t.th = (popped [a] s).th ∧ t.mem = s.mem)

/-! ## Control registers -/

/-- R53, R54, R360: CSRR gives a register's value, CSRW writes one, CSRX swaps; a capability register takes a tagged
value whole and an untagged one as a null capability, and a plain one takes [63:0]. -/
def Sys2Proof.Claims.ControlRegisterMoves : Prop :=
  ∀ (d a : RegField) (n : BitVec 12) (s : State),
    (Ready (.csrr d n) [] (some d) s → csrCheck (.csrr d n) n.toNat false s = .ok () → (n = 0x020 → s.entries = []) →
      exec (.csrr d n) s = .next ((writeDest d (csrRead n.toNat s) s).advance 4)) ∧
    (∀ t, Ready (.csrw a n) [a] none s → csrCheck (.csrw a n) n.toNat true s = .ok () →
      (n = 0x020 → (popped [a] s).entries = []) → (n = 0x107 → phaseOpen (popped [a] s) = false) →
      csrWrite n.toNat (reg [a] s 0) (popped [a] s) = some t → exec (.csrw a n) s = .next (t.advance 4)) ∧
    (∀ t, Ready (.csrx d a n) [a] (some d) s → csrCheck (.csrx d a n) n.toNat true s = .ok () →
      (n = 0x020 → (popped [a] s).entries = []) → (n = 0x107 → phaseOpen (popped [a] s) = false) →
      csrWrite n.toNat (reg [a] s 0) (popped [a] s) = some t →
        exec (.csrx d a n) s = .next ((writeDest d (csrRead n.toNat (popped [a] s)) t).advance 4)) ∧
    (∀ r : Reg,
      csrWrite 0x033 r s = some (s.up (fun t => { t with tbase := if r.tagged then r else Reg.ofData r.data })) ∧
      csrWrite 0x032 r s = some (s.up (fun t => { t with epc := if r.tagged then r else Reg.ofData r.data })) ∧
      csrWrite 0x031 r s = some (s.up (fun t => { t with tval := r.data })) ∧
      csrWrite 0x061 r s = some (s.up (fun t => { t with deadline := r.data })) ∧
      (r.data &&& ~~~0x31F = 0 → csrWrite 0x020 r s = some (s.up (fun t => { t with fstat := r.data }))) ∧
      (r.data &&& ~~~0x31F ≠ 0 → csrWrite 0x020 r s = none) ∧
      (r.data.toNat < 128 →
        csrWrite 0x060 r s = some (s.up (fun t => { t with prio := min r.data.toNat t.queuePrio })))) ∧
    csrRead 0x010 s = Reg.ofData s.cycle ∧ csrRead 0x011 s = Reg.ofData s.time ∧
    csrRead 0x020 s = Reg.ofData s.th.fstat ∧ csrRead 0x030 s = Reg.ofData s.th.cause ∧
    csrRead 0x031 s = Reg.ofData s.th.tval ∧ csrRead 0x032 s = s.th.epc ∧ csrRead 0x033 s = s.th.tbase

/-- R53, R314: from 0x100 upward a control register raises PRIVILEGE in unprivileged code; a number that is not listed
and a write of a read-only register raise ILLEGAL; a write of a reserved field raises ILLEGAL and changes nothing. -/
def Sys2Proof.Claims.ControlRegisterTraps : Prop :=
  ∀ (d a : RegField) (n : BitVec 12) (s : State),
    (csrAccess s n.toNat = none → ∀ i ∈ [Instr.csrr d n, .csrw a n, .csrx d a n], TrapsAt i s .illegal (wordTval i)) ∧
    (csrAccess s n.toNat ≠ none → 0x100 ≤ n.toNat → s.priv = false →
      ∀ i ∈ [Instr.csrr d n, .csrw a n, .csrx d a n], wellFormedInstr i = true → TrapsAt i s .privilege (wordTval i)) ∧
    (csrAccess s n.toNat = some false → n.toNat < 0x100 →
      ∀ i ∈ [Instr.csrw a n, .csrx d a n], TrapsAt i s .illegal (wordTval i)) ∧
    (Ready (.csrw a n) [a] none s →
      (csrCheck (.csrw a n) n.toNat true s = .ok () → csrWrite n.toNat (reg [a] s 0) (popped [a] s) = none →
        TrapsAt (.csrw a n) s .illegal (wordTval (.csrw a n))))

/-! ## Waits -/

/-- R12, R14, R28, R387, R401, R430: a suspension point completes where its condition holds, and else waits in its slot with
its wait descriptor. In a gang it waits in every case, until it can complete in every member. -/
def Obligations.SuspensionPoints : Prop :=
  (∀ (a : RegField) (s : State), s.entries = [] → s.th.ganged = true →
    (∀ i, i = .mwait ∨ i = .suspMbox → Ready i [] none s → SuspendsAt i s (waitWord 0 0 0)) ∧
    (Ready .suspReply [] none s → SuspendsAt .suspReply s (waitWord 5 0 0)) ∧
    (∀ v, v = (val [a] s 0).toNat → Ready (.suspTime a) [a] none s → v < 2 ^ 53 →
      SuspendsAt (.suspTime a) s (waitWord 4 0 v))) ∧
  ∀ (a : RegField) (k : BitVec 8) (n : BitVec 3) (s : State), s.entries = [] → s.th.ganged = false →
    (∀ i, i = .mwait ∨ i = .suspMbox → Ready i [] none s →
      (s.th.mbox ≠ [] → exec i s = .next (s.advance 4)) ∧ (s.th.mbox = [] → SuspendsAt i s (waitWord 0 0 0))) ∧
    (Ready .suspReply [] none s →
      (s.th.replies = 0 → exec .suspReply s = .next (s.advance 4)) ∧
      (s.th.replies ≠ 0 → SuspendsAt .suspReply s (waitWord 5 0 0))) ∧
    (∀ v, v = (val [a] s 0).toNat → Ready (.suspTime a) [a] none s →
      (2 ^ 53 ≤ v → TrapsAt (.suspTime a) s .illegal (wordTval (.suspTime a))) ∧
      (v < 2 ^ 53 → (s.time.setWidth 53 - BitVec.ofNat 53 v).toNat < 2 ^ 52 →
        exec (.suspTime a) s = .next (s.advance 4)) ∧
      (v < 2 ^ 53 → 2 ^ 52 ≤ (s.time.setWidth 53 - BitVec.ofNat 53 v).toNat →
        SuspendsAt (.suspTime a) s (waitWord 4 0 v))) ∧
    (∀ v, v = (val [a] s 0).toNat → Ready (.suspCnt a k) [a] none s → acquired (popped [a] s) = .ok () →
      (counterOf s s.th.ctx k.toNat = none ∨ 2 ^ 53 ≤ v → TrapsAt (.suspCnt a k) s .illegal (wordTval (.suspCnt a k))) ∧
      (∀ c, counterOf s s.th.ctx k.toNat = some c → v < 2 ^ 53 →
        (v ≤ (s.counter s.th.quire c).toNat → exec (.suspCnt a k) s = .next (s.advance 4)) ∧
        ((s.counter s.th.quire c).toNat < v → SuspendsAt (.suspCnt a k) s (waitWord 1 k.toNat v)))) ∧
    (∀ v, v = (val [a] s 0).toNat → Ready (.suspJob a) [a] none s → acquired (popped [a] s) = .ok () →
      (2 ^ 32 ≤ v → TrapsAt (.suspJob a) s .illegal (wordTval (.suspJob a))) ∧
      (v < 2 ^ 32 → (2 ^ 27 ≤ v ∨ s.jobOf v = none) → exec (.suspJob a) s = .next (s.advance 4)) ∧
      (∀ j, v < 2 ^ 27 → s.jobOf v = some j → j.ctx = s.th.ctx → j.stage ≠ .ended →
        SuspendsAt (.suspJob a) s (waitWord 2 0 v)) ∧
      (∀ j, v < 2 ^ 27 → s.jobOf v = some j → j.stage = .ended → j.members.length ≤ 1 →
        exec (.suspJob a) s = .next (s.advance 4))) ∧
    (Ready (.suspStrm n) [] none s →
      ((∀ b, s.th.stream n.toNat = some b → b.kind = .tx) →
        TrapsAt (.suspStrm n) s .streamUnbound (BitVec.ofNat 64 (56 + n.toNat))) ∧
      (∀ b, s.th.stream n.toNat = some b → b.kind ≠ .tx →
        (b.buf ≠ [] → exec (.suspStrm n) s = .next (s.advance 4)) ∧
        (b.buf = [] → b.kind = .cp → SuspendsAt (.suspStrm n) s (waitWord 3 n.toNat 0))))

/-- R387, R388: JPOLL gives a job's status word, PENDING until the job is terminal and 0 where the id names no job of
the context; JWAIT of a thread alone completes where JPOLL would not give PENDING, and else suspends with wait kind 2. -/
def Sys2Proof.Claims.JobStatusSeen : Prop :=
  ∀ (d a : RegField) (v : Nat) (s : State),
    (v = (val [a] s 0).toNat → Ready (.jpoll d a) [a] (some d) s → acquired (popped [a] s) = .ok () →
      ((2 ^ 27 ≤ v ∨ (popped [a] s).jobOf v = none) → exec (.jpoll d a) s = .next (wrote [a] d 0 s)) ∧
      (∀ j, v < 2 ^ 27 → (popped [a] s).jobOf v = some j →
        (j.ctx ≠ (popped [a] s).th.ctx → exec (.jpoll d a) s = .next (wrote [a] d 0 s)) ∧
        (j.ctx = (popped [a] s).th.ctx → j.stage ≠ .ended → exec (.jpoll d a) s = .next (wrote [a] d 0x8000 s)) ∧
        (j.ctx = (popped [a] s).th.ctx → j.stage = .ended →
          exec (.jpoll d a) s = .next (wrote [a] d (BitVec.ofNat 64 j.status) s)))) ∧
    (v = (val [a] s 0).toNat → Ready (.jwait a) [a] none s → (popped [a] s).entries = [] → acquired (popped [a] s) = .ok () →
      s.th.ganged = false →
      ((2 ^ 27 ≤ v ∨ (popped [a] s).jobOf v = none) → exec (.jwait a) s = .next ((popped [a] s).advance 4)) ∧
      (∀ j, v < 2 ^ 27 → (popped [a] s).jobOf v = some j →
        (j.ctx ≠ (popped [a] s).th.ctx → exec (.jwait a) s = .next ((popped [a] s).advance 4)) ∧
        (j.ctx = (popped [a] s).th.ctx → j.stage ≠ .ended → exec (.jwait a) s =
          .next ((popped [a] s).up (fun t => { t with stall := some (.suspend (waitWord 2 0 v)) }))) ∧
        (j.stage = .ended → j.members.length ≤ 1 → exec (.jwait a) s = .next ((popped [a] s).advance 4))))

/-- R398: MPOP gives the oldest mailbox entry and removes it, or 0 from an empty mailbox; it never waits. -/
def Sys2Proof.Claims.MpopTakesOldest : Prop :=
  ∀ (d : RegField) (s : State), Ready (.mpop d) [] (some d) s → acquired s = .ok () →
    (∃ t, exec (.mpop d) s = .next ((writeData d (s.th.mbox.headD 0) t).advance 4)) ∧
    ((∀ j ∈ s.jobs, ∀ m ∈ j.members, m.launch = s.th.launch → m.tid = s.th.tid → m.mail = []) →
      (s.th.mbox = [] → exec (.mpop d) s = .next ((writeData d 0 s).advance 4)) ∧
      (∀ e rest, s.th.mbox = e :: rest →
        exec (.mpop d) s = .next ((writeData d e (s.up (fun t => { t with mbox := rest }))).advance 4)))

/-- R52, R354: CNTR reads a counter, CNTS sets one, CNTA adds to one modulo 2^64, and CNTW completes where the counter
is at or above a and else waits in its slot. A counter at or beyond the window is ILLEGAL. -/
def Sys2Proof.Claims.CountersAct : Prop :=
  ∀ (d a : RegField) (k : BitVec 6) (h : BitVec 2) (s : State),
    (∀ n q, q = (popped [a] s).th.quire → counterOf (popped [a] s) (popped [a] s).th.ctx (h ++ k).toNat = some n →
      acquired (popped [a] s) = .ok () →
      (Ready (.cntw a k h) [a] none s →
        ((val [a] s 0).toNat ≤ ((popped [a] s).counter q n).toNat →
          exec (.cntw a k h) s = .next ((popped [a] s).advance 4)) ∧
        (((popped [a] s).counter q n).toNat < (val [a] s 0).toNat →
          StallsAt (.cntw a k h) s (.counter q n (val [a] s 0)))) ∧
      ((popped [a] s).entries = [] → Ready (.cnts a k h) [a] none s →
        exec (.cnts a k h) s = .next (((popped [a] s).setCounter q n (val [a] s 0)).advance 4)) ∧
      ((popped [a] s).entries = [] → Ready (.cnta a k h) [a] none s →
        exec (.cnta a k h) s =
          .next (((popped [a] s).setCounter q n ((popped [a] s).counter q n + val [a] s 0)).advance 4))) ∧
    (∀ n, counterOf s s.th.ctx (h ++ k).toNat = some n → acquired s = .ok () → Ready (.cntr d k h) [] (some d) s →
      exec (.cntr d k h) s = .next (wrote [] d (s.counter s.th.quire n) s)) ∧
    (counterOf s s.th.ctx (h ++ k).toNat = none → Ready (.cntr d k h) [] (some d) s →
      TrapsAt (.cntr d k h) s .illegal (wordTval (.cntr d k h)))

/-- R49, R50, R347: CBADV.p moves PIDX and CBADV.c moves CIDX by a[31:0]; it completes where (free or fill) has reached
a[63:32] after that, and else waits in its slot with the advance made, as it does in a gang (R28). Too large an advance is
CAP_BOUNDS with the descriptor's address, and changes nothing. One that a forced save abandoned after its advance issues
again with its wait and no advance, and with its checks. -/
def Sys2Proof.Claims.RingAdvances : Prop :=
  ∀ (producer : Bool) (a : RegField) (n : BitVec 4) (i : Instr) (r q : Ring) (s s1 s2 s3 : State),
    i = (if producer then .cbadvP a n else .cbadvC a n) →
    let va := (s.th.cbbase.addr + 32 * n.toNat) % 2 ^ 64
    let k := (val [a] s 0).toNat % 2 ^ 32
    let w := (val [a] s 0).toNat / 2 ^ 32
    let room := fun (x : Ring) => if producer then x.slots - (x.pidx + 2 ^ 32 - x.cidx) % 2 ^ 32
      else (x.pidx + 2 ^ 32 - x.cidx) % 2 ^ 32
    (∀ (p : Bool) (m : BitVec 4) (u d : Nat), s.th.abandoned = some (.cbadv p m u d) → acquired s = .ok () → s.entries = [] →
      capCheck s.th.cbbase va 32 permLoad = .ok () → capCheck s.th.cbbase va 32 permStore = .ok () → va % 16 = 0 →
      readRing va s = .ok (r, s1) →
      (r.ok = false ∨ r.slots < u → TrapsAt i s .capBounds (BitVec.ofNat 64 va)) ∧
      (r.ok = true → u ≤ r.slots → readRing va s1 = .ok (q, s3) →
        (u ≤ room q → s3.th.ganged = false → exec i s = .next (s3.advance 4)) ∧
        (room q < u ∨ s3.th.ganged = true → exec i s = .next (s3.up (fun t => { t with
          stall := some (.cbadv producer n u d)
          abandoned := none }))))) ∧
    ((∀ (p : Bool) (m : BitVec 4) (u d : Nat), s.th.abandoned ≠ some (.cbadv p m u d)) →
      Ready i [a] none s → (popped [a] s).th.cbbase = s.th.cbbase → acquired (popped [a] s) = .ok () →
      (popped [a] s).entries = [] → (k = 0 ∨ performedAll (popped [a] s) = .ok ()) → capCheck s.th.cbbase va 32 permLoad = .ok () →
      capCheck s.th.cbbase va 32 permStore = .ok () → va % 16 = 0 → readRing va (popped [a] s) = .ok (r, s1) →
      r.ok = true → w ≤ r.slots →
      (room r < k → TrapsAt i s .capBounds (BitVec.ofNat 64 va)) ∧
      (k ≤ room r →
        (if k = 0 then s2 = s1
          else storeAt (va + (if producer then 24 else 28)) 4 ((if producer then r.pidx else r.cidx) + k) s1 = .ok s2) →
        readRing va s2 = .ok (q, s3) →
          (w ≤ room q → s3.th.ganged = false → exec i s = .next (s3.advance 4)) ∧
          (room q < w ∨ s3.th.ganged = true →
            exec i s = .next (s3.up (fun t => { t with stall := some (.cbadv producer n w k), abandoned := none })))))

/-! ## Threads -/

/-- R12, R19, R296, R450: YIELD writes the thread back ready, with PC at the next word; in an open phase, of its own or of
a member of its gang, it only moves on. EXIT waits for every reply, and in a gang for the other members, then ends the
thread: its slot is free and it is in no huddle. -/
def Sys2Proof.Claims.YieldAndExit : Prop :=
  ∀ (s : State), s.entries = [] →
    (Ready .yield [] none s → s.th.phase ≠ none ∨ (s.th.ganged = true ∧ ∃ g m t, s.gangOf s.th.launch s.th.tid = some g ∧
        m ∈ g.members ∧ s.find g.launch m = some t ∧ t.phase ≠ none) → exec .yield s = .next (s.advance 4)) ∧
    (∀ u r, u = { s.th with pc := s.th.pc + 4, code := .ready, stall := none, wait := 0, liveSet := none } →
      Ready .yield [] none s → s.th.phase = none → (s.th.ganged = true → ∀ g m t, s.gangOf s.th.launch s.th.tid = some g →
        m ∈ g.members → s.find g.launch m = some t → t.phase = none) → Saves u s r →
        ∃ t v, exec .yield s = .next t ∧ LeftAs s r t v ∧ v.pc = s.th.pc + 4 ∧ v.code = .ready) ∧
    (Ready .exit [] none s →
      (s.th.replies ≠ 0 ∨ s.th.ganged = true → exec .exit s = .next (s.up (fun t => { t with stall := some .exit }))) ∧
      (s.th.replies = 0 → s.th.ganged = false → ∃ t, exec .exit s = .next t ∧ t.th.code = .exited ∧
        ∀ h ∈ t.huddles, h.launch = s.th.launch → s.th.tid ∉ h.members))

/-- R17, R18, R252, R424: SPAWN of an executable capability at a multiple of 4 completes: it makes a ready continuation with
the start values of R17 and gives its id; exactly where the launch, the pool, the private region or the copies find no room,
or a pool access faults, it gives all ones, no thread is made, and no byte of memory changes but for copies that the new home
received. The new thread is in no huddle. It waits for a pending g1 or g5, and for a page of the pool with MIG = 1. -/
def Obligations.SpawnCreates : Prop :=
  ∀ (d a b : RegField) (p : BitVec 7) (i : Instr) (prio : Nat) (s r : State),
    (i = .spawn d a b ∧ prio = s.th.prio) ∨ (i = .spawnP d a b p ∧ prio = p.toNat) → r = popped [a, b] s →
    Ready i [a, b] (some d) s → regEcc r 1 = false → regEcc r 5 = false →
      (∀ n, (n = 1 ∧ awaits r 1 = true) ∨ (n = 5 ∧ awaits r 1 = false ∧ awaits r 5 = true) → StallsAt i s (.register n)) ∧
      (awaits r 1 = false → awaits r 5 = false → acquired r = .ok () → r.entries = [] → performedAll r = .ok () →
        capCheck (reg [a, b] s 0) (reg [a, b] s 0).addr 4 permExec = .ok () →
        ((reg [a, b] s 0).addr % 4 ≠ 0 → TrapsAt i s .misalign (BitVec.ofNat 64 (reg [a, b] s 0).addr)) ∧
        (∀ va, (reg [a, b] s 0).addr % 4 = 0 → spawnPark (reg [a, b] s 1) r = some va → exec i s =
          .next (s.up (fun t => { t.noteParked va s.cycle.toNat with stall := some (.retry (.poolWalk s.th.ctx va)) }))) ∧
        ((reg [a, b] s 0).addr % 4 = 0 → spawnPark (reg [a, b] s 1) r = none →
          (∀ l ∈ s.launches, l.num = s.th.launch → l.ctx = s.th.ctx) → ∃ (v : Word) (t : State),
          exec i s = .next ((writeData d v t).advance 4) ∧ t.th = r.th ∧ t.huddles = r.huddles ∧
            (v = BitVec.allOnes 64 ↔ (spawnRoom (reg [a, b] s 1) r).1 = none ∨ spawnFaults (reg [a, b] s 1) r = true) ∧
            ((v = BitVec.allOnes 64 ∧ SameSaved t.conts r.conts ∧ t.mem = (spawnRoom (reg [a, b] s 1) r).2.mem ∧
                ((freeEntry (r.ctx r.th.ctx) = none ∨ ∀ l, r.launches.find? (fun x => x.num == r.th.launch) = some l →
                  hasCopies l (homeOfReg r r.th.ctx (reg [a, b] s 1) r.th.quire) = true) → t.mem = r.mem)) ∨
              ∃ id l u, v = BitVec.ofNat 64 id ∧ id < 2 ^ 32 ∧ t.conts = l ++ [u] ∧ SameSaved l r.conts ∧
                IsChild r.th u (reg [a, b] s 0) (reg [a, b] s 1) prio id)))

/-- R22, R23, R25, R386, R392: JOIN adds the thread to the huddle and makes one that is not there; LEAVE takes the
thread and its arrival out, which may release the generation, and removes a huddle other than 0 with its last member; a
LEAVE that releases waits as the generation's last arrival does (R24). -/
def Sys2Proof.Claims.HuddlesJoinedAndLeft : Prop :=
  ∀ (a : RegField) (n : Nat) (s r : State), n = (val [a] s 0).toNat → r = popped [a] s →
    (Ready (.join a) [a] none s →
      (4096 ≤ n → TrapsAt (.join a) s .huddle (BitVec.ofNat 64 (n % 4096))) ∧
      (n < 4096 → r.huddle r.th.launch n = none → r.huddles.length < 4096 → exec (.join a) s =
        .next (State.advance { r with huddles := r.huddles ++ [⟨r.th.launch, n, [r.th.tid], 0, [], false, 0⟩] } 4)) ∧
      (∀ h, n < 4096 → r.huddle r.th.launch n = some h → h.broken = false → r.th.tid ∉ h.members →
        h.members.length < (if n = 0 then 2 ^ 32 - 1 else 24576) → r.th.tid ∉ h.arrived → ∃ t : State,
          exec (.join a) s = .next (t.advance 4) ∧ t.th = r.th ∧ t.mem = r.mem ∧
            t.huddle r.th.launch n = some { h with members := h.members ++ [r.th.tid] }) ∧
      (∀ h, n < 4096 → r.huddle r.th.launch n = some h → h.broken = true →
        TrapsAt (.join a) s .huddle (BitVec.ofNat 64 (n + h.culprit % 2 ^ 32 * 2 ^ 32)))) ∧
    (Ready (.leave a) [a] none s → n < 4096 →
      (r.huddle r.th.launch n = none → ∃ t : State, exec (.leave a) s = .next (t.advance 4) ∧ t.th = r.th ∧ t.mem = r.mem) ∧
      (∀ h rest came, r.huddle r.th.launch n = some h → Single r h → rest = h.members.filter (· != r.th.tid) →
        came = h.arrived.filter (· != r.th.tid) →
        (h.broken = false → r.th.tid ∈ h.members → rest ≠ [] → rest ⊆ h.arrived →
          acquired r = .ok () ∧ r.entries = [] ∧ performedAll r = .ok ()) → ∃ t : State, exec (.leave a) s = .next (t.advance 4) ∧ t.mem = r.mem ∧
          t.th = (if r.th.tid ∈ h.arrived then { r.th with arrived := false } else r.th) ∧
          (rest = [] → n ≠ 0 → t.huddle r.th.launch n = none) ∧
          (rest ≠ [] → t.huddle r.th.launch n = some (decided h rest came))))

/-- R21, R23 to R25, R380: HBAR.arrive records the arrival and goes on; HBAR.wait waits until the generation of the
recorded arrival has released, and clears ARRIVED; HBAR does both. The last arrival releases the generation. In a gang the
waits end with every member's (R381). -/
def Sys2Proof.Claims.BarriersMeet : Prop :=
  ∀ (a : RegField) (h : Huddle) (s r t : State), h.num = (val [a] s 0).toNat → r = popped [a] s → r.entries = [] →
    MayMeet r h →
    let last := ∀ m ∈ h.members, m = r.th.tid ∨ m ∈ h.arrived
    (r.th.arrived = false → acquired r = .ok () → performedAll r = .ok () →
      t = { r with
        th := { r.th with arrived := true, huddle := h.num }
        huddles := r.huddles.map (fun k => if k.launch = h.launch ∧ k.num = h.num then
          decided k k.members (r.th.tid :: k.arrived) else k) } →
      (Ready (.hbarArrive a) [a] none s → exec (.hbarArrive a) s = .next (t.advance 4)) ∧
      (Ready (.hbar a) [a] none s →
        (last → r.th.ganged = false → exec (.hbar a) s = .next ((t.up (fun x => { x with arrived := false })).advance 4)) ∧
        (¬last ∨ r.th.ganged = true → exec (.hbar a) s = .next (t.up (fun x => { x with
          stall := some (.suspend (waitWord 6 0 0))
          arrivedHere := true }))))) ∧
    (Ready (.hbarWait a) [a] none s → r.th.arrived = true → r.th.huddle = h.num →
      (r.th.tid ∉ h.arrived → r.th.ganged = false →
        exec (.hbarWait a) s = .next ((r.up (fun x => { x with arrived := false })).advance 4)) ∧
      (r.th.tid ∈ h.arrived ∨ r.th.ganged = true → exec (.hbarWait a) s = .next (r.up (fun x => { x with
        stall := some (.suspend (waitWord 6 0 0))
        arrivedHere := false }))))

/-- R26, R27, R377, R378: GANG n and GANG.f wait until a leader's followers have all arrived. The gang then forms: its
members are the leader and those after it, each with its GPOS, and the thread goes on at the word after the leader's. -/
def Sys2Proof.Claims.GangsForm : Prop :=
  ∀ (n : BitVec 3) (i : Instr) (k : Nat) (s : State), (i = .gang n ∧ k = n.toNat + 1) ∨ (i = .gangF ∧ k = 0) →
    Ready i [] none s → s.entries = [] →
    (s.th.ganged = true → TrapsAt i s .illegal (wordTval i)) ∧
    (s.th.ganged = false →
      (∀ ws, ws = claimAll (s.gangWaits ++ [waiting s k]) → (∀ l ∈ ws, l.n ≠ 0 → gangMembers ws l = none) →
        exec i s = .next (State.up { s with gangWaits := ws } (fun t => { t with stall := some (.suspend (waitWord 7 0 0)) }))) ∧
      (∀ ws lead ms l, ws = claimAll (s.gangWaits ++ [waiting s k]) → ws.filter (fun w => w.n != 0) = [lead] →
        gangMembers ws lead = some ms → lead.launch = s.th.launch → (lead.tid :: ms).Nodup → s.th.tid ∈ lead.tid :: ms →
        s.find lead.launch lead.tid = some l → ∃ t : State, exec i s = .next t ∧ t.mem = s.mem ∧
          t.gangs = s.gangs ++ [⟨s.nextGang, lead.launch, lead.tid :: ms, none, []⟩] ∧ t.nextGang = s.nextGang + 1 ∧
          t.th = { s.th with
            ganged := true
            gsize := ms.length
            gpos := (lead.tid :: ms).idxOf s.th.tid
            pc := l.pc + 4
            fetchCap := l.fetchCap
            stall := none
            abandoned := none
            turn := none
            trapMark := false }))

/-- R28, R435: UNGANG disbands the gang of the thread: no member is ganged, and each fetches with the leader's
capability. Outside a gang it only moves on. -/
def Sys2Proof.Claims.UngangDisbands : Prop :=
  ∀ (s : State), Ready .ungang [] none s →
    (s.gangOf s.th.launch s.th.tid = none → exec .ungang s = .next (s.advance 4)) ∧
    (∀ g l, s.gangOf s.th.launch s.th.tid = some g → s.leaderOf g = some l → ∃ t : State, exec .ungang s = .next t ∧
      t.th = { s.th with
        ganged := false, gsize := 0, gpos := 0, fetchCap := l.fetchCap, pc := s.th.pc + 4, stall := none, abandoned := none,
        turn := none } ∧
      t.gangs = s.gangs.filter (fun x => x.num != g.num) ∧ t.mem = s.mem ∧ t.conts.length = s.conts.length ∧
      ∀ u ∈ t.others ++ t.conts, u.launch = g.launch → u.tid ∈ g.members → u.ganged = false ∧ u.fetchCap = l.fetchCap)

/-- R17, R26, R28, R377, R378, R424, R435: SPAWN with nothing to wait for writes the id of the thread that it makes, or all
ones where nothing is made. GANG n whose n followers wait forms the gang, with the thread as its leader; GANG.f whose leader
waits for it alone forms the gang, with the thread behind it; UNGANG leaves the gang. Each moves on. -/
def Obligations.SpawnAndGangsComplete : Prop :=
  (∀ (d a b : RegField) (p : BitVec 7) (i : Instr) (prio : Nat) (s r : State),
    (i = .spawn d a b ∧ prio = s.th.prio) ∨ (i = .spawnP d a b p ∧ prio = p.toNat) → r = popped [a, b] s →
    Ready i [a, b] (some d) s → (∀ n ∈ [(1 : RegField), 5], regEcc r n = false ∧ awaits r n = false) → acquired r = .ok () →
    r.entries = [] → performedAll r = .ok () → capCheck (reg [a, b] s 0) (reg [a, b] s 0).addr 4 permExec = .ok () →
    (reg [a, b] s 0).addr % 4 = 0 → spawnPark (reg [a, b] s 1) r = none →
      (∀ id t, spawnThread prio (reg [a, b] s 0) (reg [a, b] s 1) r = (some id, t) →
        exec i s = .next ((writeData d (BitVec.ofNat 64 id) t).advance 4)) ∧
      (∀ t, spawnThread prio (reg [a, b] s 0) (reg [a, b] s 1) r = (none, t) → spawnFaults (reg [a, b] s 1) r = false →
        exec i s = .next ((writeData d (BitVec.allOnes 64) t).advance 4))) ∧
  (∀ (n : BitVec 3) (s : State), Ready (.gang n) [] none s → s.entries = [] → s.th.code = .running → s.th.ganged = false →
    s.th.core < 8 → s.gangWaits.length = n.toNat → (s.th.tid :: s.gangWaits.map (·.tid)).Nodup →
    (∀ (k : Nat) (w : GangWait), s.gangWaits[k]? = some w → w = ⟨s.th.launch, w.tid, s.th.quire, (s.th.core + k + 1) % 8, s.th.slot, 0, none⟩) →
      ∃ t : State, exec (.gang n) s = .next t ∧ t.mem = s.mem ∧ t.gangWaits = [] ∧
        t.gangs = s.gangs ++ [⟨s.nextGang, s.th.launch, s.th.tid :: s.gangWaits.map (·.tid), none, []⟩] ∧
        t.th = { s.th with
          ganged := true, gsize := n.toNat, gpos := 0, pc := s.th.pc + 4, stall := none, abandoned := none, turn := none, trapMark := false }) ∧
  (∀ (s : State) (l : Thread), Ready .gangF [] none s → s.entries = [] → s.th.code = .running → s.th.ganged = false →
    s.th.core < 8 → l.tid ≠ s.th.tid → s.find s.th.launch l.tid = some l →
    s.gangWaits = [⟨s.th.launch, l.tid, s.th.quire, (s.th.core + 7) % 8, s.th.slot, 2, none⟩] →
      ∃ t : State, exec .gangF s = .next t ∧ t.mem = s.mem ∧ t.gangWaits = [] ∧
        t.gangs = s.gangs ++ [⟨s.nextGang, s.th.launch, [l.tid, s.th.tid], none, []⟩] ∧
        t.th = { s.th with
          ganged := true, gsize := 1, gpos := 1, pc := l.pc + 4, fetchCap := l.fetchCap, stall := none, abandoned := none, turn := none, trapMark := false }) ∧
  (∀ s : State, Ready .ungang [] none s → ∃ t : State, exec .ungang s = .next t ∧ t.mem = s.mem ∧ t.th.pc = s.th.pc + 4 ∧
    (s.gangOf s.th.launch s.th.tid = none → t = s.advance 4) ∧
    (s.gangOf s.th.launch s.th.tid ≠ none → t.th.ganged = false ∧ t.th.gsize = 0 ∧ t.th.gpos = 0))

/-- R316 to R318, R352: CKPT checks LRTBASE and starts the checkpoint interval again. Where pre-emption is pending it
saves the thread with PC at the next word, unless a phase is open. -/
def Sys2Proof.Claims.CheckpointSaves : Prop :=
  ∀ (n : BitVec 20) (s r : State), r = s.up (fun t => { t with ckptAt := s.cycle.toNat }) →
    Ready (.ckpt n) [] none s → s.entries = [] →
    (∀ c v, capCheck s.th.lrtbase ((s.th.lrtbase.addr + 64 * n.toNat) % 2 ^ 64) 64 permLoad = .error (.trap c v) →
      TrapsAt (.ckpt n) s c v) ∧
    (capCheck s.th.lrtbase ((s.th.lrtbase.addr + 64 * n.toNat) % 2 ^ 64) 64 permLoad = .ok () →
      (s.th.phase ≠ none → exec (.ckpt n) s = .next (s.advance 4)) ∧
      (s.th.phase = none → s.gangOf s.th.launch s.th.tid = none →
        (s.th.preempt = none → exec (.ckpt n) s = .next (r.advance 4)) ∧
        (∀ l q u m, s.th.preempt ≠ none → liveRanges n.toNat r = (l, q) →
          u = { q.th with pc := q.th.pc + 4, code := .ready, stall := none, liveSet := some l, wait := 0 } →
          Saves u q m → ∃ t v, exec (.ckpt n) s = .next t ∧ LeftAs s m t v ∧ v.pc = s.th.pc + 4 ∧ v.code = .ready ∧
            v.liveSet = some l)))

/-- R314, R382, R432: IDLE waits in its slot for a mailbox entry or a pre-emption request, and raises PRIVILEGE in
unprivileged code. SYNCI drops the copies of the 4 KiB range from the core's instruction cache, and nothing else. -/
def Sys2Proof.Claims.IdleAndSynci : Prop :=
  ∀ (a : RegField) (s : State),
    (Ready .idle [] none s →
      (s.priv = false → TrapsAt .idle s .privilege 0xF8002001) ∧
      (s.priv = true → s.th.ganged = true → TrapsAt .idle s .illegal 0xF8002001) ∧
      (s.priv = true → s.th.ganged = false →
        (s.th.mbox ≠ [] ∨ s.th.preempt ≠ none → exec .idle s = .next (s.advance 4)) ∧
        (s.th.mbox = [] → s.th.preempt = none → StallsAt .idle s .idle))) ∧
    (Ready (.synci a) [a] none s → (popped [a] s).entries = [] → performedAll (popped [a] s) = .ok () → ∃ kept,
      exec (.synci a) s = .next (State.advance { popped [a] s with icache := kept } 4) ∧
      ∀ l, l ∈ kept ↔ l ∈ (popped [a] s).icache ∧ ¬(l.quire = (popped [a] s).th.quire ∧ l.core = (popped [a] s).th.core ∧
        l.ctx = (popped [a] s).th.ctx ∧ l.va / 4096 = (val [a] s 0).toNat / 4096))

/-- R138, R139, R322, R433: TLBI holds its slot, with the selector, until the acknowledgement, also where a forced save has
abandoned it and it issues again; the acknowledgement removes exactly the
translations that the selector names and moves the thread on; it does not come while an access through one of them is
still to be made. A parked walk that meets MIG = 0 lets its instruction
issue again; one that has met MIG = 1 for 10 ms raises PAGE_FAULT. -/
def Obligations.TranslationsShotDown : Prop :=
  ∀ (a : RegField) (s : State),
    ((∀ v, s.th.abandoned = some (.tlbi v) → wellFormedInstr (.tlbi a) = true → s.priv = true → s.th.ganged = false →
      selectorBad v.toNat = false → s.entries = [] → fenceMsg s = .ok () →
        exec (.tlbi a) s = .next (s.up (fun t => { t with stall := some (.tlbi v), abandoned := none }))) ∧
    (Ready (.tlbi a) [a] none s → (∀ v, s.th.abandoned ≠ some (.tlbi v)) → s.th.ganged = false →
      (popped [a] s).entries = [] → fenceMsg (popped [a] s) = .ok () → ∀ v, v = val [a] s 0 →
      (s.priv = false → TrapsAt (.tlbi a) s .privilege (wordTval (.tlbi a))) ∧
      (s.priv = true → v.extractLsb' 0 12 ≠ 0 ∨ v.extractLsb' 62 2 = 3 →
        TrapsAt (.tlbi a) s .illegal (wordTval (.tlbi a))) ∧
      (s.priv = true → v.extractLsb' 0 12 = 0 → (v.extractLsb' 62 2 = 0 ∨ (v.extractLsb' 62 2 = 1 ∧ v.extractLsb' 12 44 = 0) ∨
          (v.extractLsb' 62 2 = 2 ∧ v.extractLsb' 12 50 = 0)) →
        exec (.tlbi a) s = .next ((popped [a] s).up (fun t => { t with stall := some (.tlbi v), abandoned := none }))))) ∧
    (s.th.code = .running →
      (∀ v, s.th.stall = some (.tlbi v) → accessPending v.toNat s = true → exec .tlbiAcknowledgement s = .next s) ∧
      (∀ v, s.th.stall = some (.tlbi v) → accessPending v.toNat s = false →
        (∀ e ∈ s.tlb, e.va % 2 ^ e.size = 0 ∧ 12 ≤ e.size) → ∃ t : State,
        exec .tlbiAcknowledgement s = .next t ∧ t.th = s.th.next 4 ∧ t.mem = s.mem ∧
        ∀ e, e ∈ t.tlb ↔ e ∈ s.tlb ∧ ¬(match (v.extractLsb' 62 2).toNat with
          | 0 => e.ctx = v.extractLsb' 56 6 ∧ e.va ≤ (v.extractLsb' 12 44).toNat * 4096 ∧
            (v.extractLsb' 12 44).toNat * 4096 < e.va + 2 ^ e.size
          | 1 => e.ctx = v.extractLsb' 56 6
          | _ => True)) ∧
      (∀ c va w since, s.th.stall = some (.retry (.walk c va w since)) →
        (walk s c va (if w then .store else .load) ≠ .park → ∃ t : State, exec .parkedWalkRetry s = .next t ∧
          t.th = { s.th with stall := none, turn := some 0 } ∧ t.mem = s.mem) ∧
        (Distinct s → s.gangOf s.th.launch s.th.tid = none → walk s c va (if w then .store else .load) = .park → since + 12000000 ≤ s.cycle.toNat → ∃ level fetching,
          exec .migrationTimeout s = .next (takeTrap .pageFault false (pageTval va 4 level) s.th.pc fetching s) ∧
          (fetching = true ↔ va = s.th.pc.toNat))))

/-! ## Streams and messages -/

/-- R45, R247, R417: SBIND binds a free stream register: .tx to its destination word; .rx with what the core's receive
queue holds for the channel; .cp to a COPY that the thread pushed; .eng with the results that its job holds. A bound
register, a channel above 255 and one that is held, and a job that is not the thread's are ILLEGAL. -/
def Sys2Proof.Claims.SbindBinds : Prop :=
  ∀ (d a : RegField) (k : BitVec 2) (n : Nat) (w : Word) (s r : State), n = d.toNat - 56 → w = val [a] s 0 →
    r = popped [a] s → Ready (.sbind d a k) [a] none s →
    (s.th.stream n ≠ none → TrapsAt (.sbind d a k) s .illegal (wordTval (.sbind d a k))) ∧
    (s.th.stream n = none →
      (k = 2 → w.toNat < 2 ^ 40 → (w.setWidth 32).toNat < (s.ctx s.th.ctx).rankcnt.toNat →
        exec (.sbind d a k) s = .next ((r.up (fun t => t.setStream n (some ⟨.tx, w, []⟩))).advance 4)) ∧
      (k = 2 → 2 ^ 40 ≤ w.toNat ∨ (s.ctx s.th.ctx).rankcnt.toNat ≤ (w.setWidth 32).toNat →
        TrapsAt (.sbind d a k) s .remoteFault (BitVec.ofNat 64 (s.pkgid.toNat * 2 ^ 48 + 11 * 2 ^ 60))) ∧
      (∀ held, k = 1 → w.toNat < 256 → channelHeld s w.toNat = false →
        held = (r.arrivals.filter (fun x => x.quire == r.th.quire && x.core == r.th.core && x.ctx == r.th.ctx &&
          x.chan.toNat == w.toNat)).map (·.payload) → ∃ t : State,
          exec (.sbind d a k) s = .next (t.advance 4) ∧ t.th = r.th.setStream n (some ⟨.rx, w, held.take 16⟩) ∧
          (t.arrivals.filter (fun x => x.quire == r.th.quire && x.core == r.th.core && x.ctx == r.th.ctx &&
            x.chan.toNat == w.toNat)).map (·.payload) = held.drop 16 ∧ t.mem = r.mem) ∧
      (k = 1 → 256 ≤ w.toNat ∨ channelHeld s w.toNat = true →
        TrapsAt (.sbind d a k) s .illegal (wordTval (.sbind d a k))) ∧
      (k = 0 → streamJob s w.toNat = true → ∃ t : State, exec (.sbind d a k) s = .next (t.advance 4) ∧
        t.th = r.th.setStream n (some ⟨.cp, w, []⟩) ∧ t.mem = r.mem ∧
        ∀ j ∈ t.jobs, j.id = w.toNat → (s.th.launch, s.th.tid) ∈ j.bound) ∧
      (k = 0 → streamJob s w.toNat = false → TrapsAt (.sbind d a k) s .illegal (wordTval (.sbind d a k))) ∧
      (∀ j i m, k = 3 → resultJob s w.toNat = true → r.jobOf w.toNat = some j →
        j.memberOf r.th.launch r.th.tid = some i → j.members[i]? = some m → ∃ t : State,
          exec (.sbind d a k) s = .next (t.advance 4) ∧ t.th = r.th.setStream n (some ⟨.eng, w, m.fifo.take 16⟩) ∧
          t.mem = r.mem) ∧
      (k = 3 → resultJob s w.toNat = false → TrapsAt (.sbind d a k) s .illegal (wordTval (.sbind d a k))))

/-- R185, R212, R422: SFREE unbinds a stream register, with what has not been popped; a result binding loses its results,
and a streaming copy whose last element has not entered the buffer ends ABORTED. An unbound register stays unbound. -/
def Sys2Proof.Claims.SfreeUnbinds : Prop :=
  ∀ (d : RegField) (n : Nat) (s : State), n = d.toNat - 56 → s.th.code = .running → Ready (.sfree d) [] none s →
    (s.th.stream n = none → exec (.sfree d) s = .next (s.advance 4)) ∧
    (∀ b, s.th.stream n = some b → ∃ t : State, exec (.sfree d) s = .next (t.advance 4) ∧
      t.th = s.th.setStream n none ∧ t.mem = s.mem ∧ t.inject = s.inject ∧ t.arrivals = s.arrivals ∧
      (b.kind = .rx ∨ b.kind = .tx → t.jobs = s.jobs) ∧
      (b.kind = .eng → ∀ j ∈ t.jobs, j.id = b.word.toNat → ∀ m ∈ j.members,
        m.launch = s.th.launch → m.tid = s.th.tid → m.fifo = []) ∧
      (b.kind = .cp → ∀ j ∈ t.jobs, j.id = b.word.toNat → j.streams = true → j.stage = .running →
        ∀ i, j.memberOf s.th.launch s.th.tid = some i → j.stream.getD i [] = []) ∧
      (b.kind = .cp → ∀ j ∈ s.jobs, j.id = b.word.toNat → j.streams = true → j.stage = .running →
        ∀ i, j.memberOf s.th.launch s.th.tid = some i → j.stream.getD i [] ≠ [] →
          ∃ k ∈ t.jobs, k.id = j.id ∧ k.status = 3))

/-- R249: SEND enters one element toward its rank and channel into the core's injection queue, and waits while that is
full. A bad destination word is REMOTE_FAULT with reason 11. -/
def Sys2Proof.Claims.SendEntersQueue : Prop :=
  ∀ (a b : RegField) (c : BitVec 8) (w : Word) (s r : State), w = val [a, b] s 0 → r = popped [a, b] s →
    Ready (.send a b c) [a, b] none s → acquired r = .ok () →
      (2 ^ 32 ≤ w.toNat ∨ (s.ctx s.th.ctx).rankcnt.toNat ≤ w.toNat →
        TrapsAt (.send a b c) s .remoteFault (BitVec.ofNat 64 (s.pkgid.toNat * 2 ^ 48 + 11 * 2 ^ 60))) ∧
      (sendFault s s.th.ctx w false = none →
        ((s.inject.filter (fun p => p.quire == s.th.quire && p.core == s.th.core)).length < 32 → ∃ t : State,
          exec (.send a b c) s = .next (t.advance 4) ∧ t.th = r.th ∧ t.mem = r.mem ∧ t.inject = r.inject ++
            [⟨r.th.quire, r.th.core, r.th.ctx, (w.setWidth 32).toNat, c, val [a, b] s 1⟩]) ∧
        (32 ≤ (s.inject.filter (fun p => p.quire == s.th.quire && p.core == s.th.core)).length →
          StallsAt (.send a b c) s .inject))

/-! ## Remote operations -/

/-- R251, R252, R409 to R411: RLD, RST and RAMO send their request and move on; REPLIES counts it and the destination of
RLD and RAMO is pending. The checks trap at the instruction, and it waits while REPLIES is 255. -/
def Sys2Proof.Claims.RemoteOperationsIssue : Prop :=
  ∀ (d a b : RegField) (z o2 : BitVec 2) (o c : BitVec 3) (f : BitVec 6) (p : BitVec 4) (n : Nat) (s : State),
    (∀ r va, r = popped [a] s → n = 2 ^ z.toNat → va = addrMI (val [a] s 0) f n → Ready (.rld d a z o c f) [a] (some d) s →
      (Asks [permLoad] (reg [a] s 0) va n (o == 1) false r →
        Issues (.rld d a z o c f) .rld d va n 0 (o == 1) false true c s r) ∧
      (o = 0 → bytesFree va n r = .ok () → (va < 2 ^ 56 → sendRead va n r = .ok ()) → acquired r = .ok () →
        (∀ k v, capCheck (reg [a] s 0) va n permLoad = .error (.trap k v) → TrapsAt (.rld d a z o c f) s k v) ∧
        (capCheck (reg [a] s 0) va n permLoad = .ok () →
          (va / 2 ^ 60 = 8 → (reg [a] s 0).has permRemote = false →
            TrapsAt (.rld d a z o c f) s .capPerm (BitVec.ofNat 64 va)) ∧
          (va < 2 ^ 56 → va % n ≠ 0 → TrapsAt (.rld d a z o c f) s .misalign (BitVec.ofNat 64 va)) ∧
          (va % n = 0 → 2 ^ 56 ≤ va → va / 2 ^ 60 ≠ 8 → TrapsAt (.rld d a z o c f) s .pageFault (pageTval va 5 0)) ∧
          (va % n = 0 → va < 2 ^ 56 → 255 ≤ s.th.replies → StallsAt (.rld d a z o c f) s (.replies 255))))) ∧
    (∀ r va, r = popped [a, d] s → n = 2 ^ z.toNat → va = addrMI (val [a, d] s 0) f n →
      Ready (.rst d a z o c f) [a, d] none s → Asks [permStore] (reg [a, d] s 0) va n (o == 2) (o == 2) r →
        Issues (.rst d a z o c f) .rst 0 va n (val [a, d] s 1) false (o == 2) false c s r) ∧
    (∀ r va, r = popped [a, b] s → n = 2 ^ z.toNat → va = (reg [a, b] s 0).addr →
      Ready (.ramo d a b p o2 z) [a, b] (some d) s → Asks [permLoad, permStore] (reg [a, b] s 0) va n (o2 != 0) (o2 == 2 || o2 == 3) r →
        Issues (.ramo d a b p o2 z) (.ramo p.toNat) d va n (val [a, b] s 1) (o2 == 1 || o2 == 3) (o2 == 2 || o2 == 3)
          true 3 s r)

/-- R135, R136, R138, R155, R251, R254: the serving port performs a request that nothing earlier holds back: a load reads, a
store stores, RAMO does both as one step. A fault of the translation, a walk that has parked for 10 ms and an unreachable
package give a fault reply, and a miss waits for its turn at a walk. -/
def Obligations.RemoteRequestsServed : Prop :=
  ∀ (q : Request) (s : State), s.request q.num = some q → q.stage = .sent → q.expired = false → mayPerform s q = true →
    ((q.outside = true ∨ q.pkg = s.pkgid) → (q.outside = true → ctxExists s q.ctx = true) →
      (missWaits s q.quire q.ctx q.addr q.parkedAt.isSome q.missAt = true → ∃ u : State,
        exec (.remoteRequest q.num) s = .next u ∧ u.mem = s.mem ∧ u.th = s.th ∧
          u.request q.num = some { q with missAt := some (q.missAt.getD s.cycle.toNat) }) ∧
      (missWaits s q.quire q.ctx q.addr q.parkedAt.isSome q.missAt = false →
      (∀ pa page size w x t, q.kind = .rld → Calm t → translate s q.quire q.ctx q.addr .load = (.ok pa page size w x, t) →
        inMmio pa = false → eccAt t pa q.size = false → ∃ u : State, exec (.remoteRequest q.num) s = .next u ∧
          u.mem = s.mem ∧ u.th = s.th ∧
          u.request q.num = some { q with stage := .served (BitVec.ofNat 64 (s.mem.readNat pa q.size)) }) ∧
      (∀ pa page size w x t, q.kind = .rst → translate s q.quire q.ctx q.addr .store = (.ok pa page size w x, t) →
        inMmio pa = false → eccPartial t pa q.size = false → ∃ u : State, exec (.remoteRequest q.num) s = .next u ∧
          u.mem = (t.store q.ctx pa (toBytesLE q.size q.data.toNat)).mem ∧ u.th = s.th ∧
          u.request q.num = some { q with stage := .served 0 }) ∧
      (∀ op pa page size w x t old, q.kind = .ramo op → op < 9 → Calm t →
        translate s q.quire q.ctx q.addr .store = (.ok pa page size w x, t) →
        inMmio pa = false → inHost pa = false → eccAt t pa q.size = false → old = s.mem.readNat pa q.size →
        ∃ u : State, exec (.remoteRequest q.num) s = .next u ∧ u.th = s.th ∧
          u.mem = (t.store q.ctx pa (toBytesLE q.size (amoRule op (8 * q.size) (BitVec.ofNat (8 * q.size) old)
            (q.data.setWidth (8 * q.size))).toNat)).mem ∧
          u.request q.num = some { q with stage := .served (BitVec.ofNat 64 old) }) ∧
      (∀ v t, translate s q.quire q.ctx q.addr (if q.kind = .rld then .load else .store) = (.fault v, t) → ∃ u : State,
        exec (.remoteRequest q.num) s = .next u ∧ u.mem = s.mem ∧ u.th = s.th ∧
          u.request q.num = some { q with stage := .failed (v.extractLsb' 56 4).toNat }) ∧
      (∀ t since, translate s q.quire q.ctx q.addr (if q.kind = .rld then .load else .store) = (.park, t) →
        since = q.parkedAt.getD s.cycle.toNat →
        ∃ u : State, exec (.remoteRequest q.num) s = .next u ∧ u.mem = s.mem ∧ u.th = s.th ∧ u.request q.num =
          some (if since + 12000000 ≤ s.cycle.toNat then { q with stage := .failed 4 } else { q with parkedAt := some since })))) ∧
    (q.outside = false → q.pkg ≠ s.pkgid → q.pkg ∈ s.unreachable → ∃ u : State,
      exec (.remoteRequest q.num) s = .next u ∧ u.mem = s.mem ∧ u.th = s.th ∧
        u.request q.num = some { q with stage := .failed 8 })

/-- R252 to R254: a reply to a thread in its slot lowers REPLIES, writes a pending register, untagged, and ends the
request; a fault reply and 10 ms without a reply write zero and leave a REMOTE_FAULT for the next instruction. -/
def Sys2Proof.Claims.RepliesReachTheirThread : Prop :=
  ∀ (q : Request) (data : Word) (reason : BitVec 4) (s : State), Awaited s q → q.expired = false →
    (∀ w, q.stage = .served w →
      (q.kind = .rld ∨ ∃ op, q.kind = .ramo op) → ∃ u : State,
        exec (if q.kind = .rld then .rldReply q.num data else .ramoReply q.num data) s = .next u ∧
        u.th = answered s.th q.reg (some (BitVec.ofNat 64
          ((if q.pkg = s.pkgid then w else data).toNat % 2 ^ (8 * q.size)))) ∧
        u.request q.num = none ∧ u.mem = s.mem) ∧
    (∀ w, q.stage = .served w → q.kind = .rst → ∃ u : State, exec (.rstAcknowledgement q.num) s = .next u ∧
      u.th = answered s.th q.reg none ∧ u.request q.num = none ∧ u.mem = s.mem) ∧
    (∀ k, (q.stage = .failed k ∧ k < 11) ∨ (q.stage = .sent ∧ q.pkg ≠ s.pkgid ∧ k = reason.toNat ∧ k < 11) → ∃ u : State,
      exec (.faultReply q.num reason) s = .next u ∧ u.request q.num = none ∧ u.mem = s.mem ∧
      u.th = { answered s.th q.reg (zeroFor q.kind) with rfq := s.th.rfq ++
        [BitVec.ofNat 64 (q.addr % 2 ^ 48 + q.pkg.toNat * 2 ^ 48 + k * 2 ^ 60)] }) ∧
    (q.sentAt + 12000000 ≤ s.cycle.toNat → ∃ u : State, exec (.remoteTimeout q.num) s = .next u ∧ u.mem = s.mem ∧
      (∀ x, u.request q.num = some x → x.expired = true) ∧
      u.th = { answered s.th q.reg (zeroFor q.kind) with rfq := s.th.rfq ++
        [BitVec.ofNat 64 (q.addr % 2 ^ 48 + q.pkg.toNat * 2 ^ 48 + 10 * 2 ^ 60)] })

/-! ## The fabric -/

/-- R45, R247, R250: an arriving message enters the binding that names its pair, or the core's receive queue where none
does; it stays at its sender while there is no room. Behind one that the fabric holds for the pair it is not the next. -/
def Sys2Proof.Claims.MessagesArrive : Prop :=
  ∀ (c : Ctx) (chan : BitVec 8) (q k : Nat) (x : Word) (s : State),
    (∀ e ∈ s.inbound, e.quire = q → e.core = k → e.ctx = c → e.chan = chan → e.payload = x) →
    (boundTo s c chan q k = none →
      ((s.arrivals.filter (fun e => e.quire == q && e.core == k)).length < 256 → ∃ t : State,
        exec (.messageArrival c chan q k x) s = .next t ∧ t.arrivals = s.arrivals ++ [⟨q, k, c, chan, x⟩] ∧
        t.th = s.th ∧ t.mem = s.mem ∧ t.inject.length ≤ s.inject.length) ∧
      (256 ≤ (s.arrivals.filter (fun e => e.quire == q && e.core == k)).length →
        exec (.messageArrival c chan q k x) s = .next s)) ∧
    (∀ n b, s.th.code = .running → s.th.ctx = c → s.th.quire = q → s.th.core = k →
      s.isSaved s.th.launch s.th.tid = false → n < 8 → s.th.stream n = some b → b.kind = .rx → b.word.toNat = chan.toNat →
      (∀ m < n, ∀ e, s.th.stream m = some e → e.kind = .rx → e.word.toNat ≠ chan.toNat) →
        (b.buf.length < 16 → ∃ t : State, exec (.messageArrival c chan q k x) s = .next t ∧
          t.th = s.th.setStream n (some { b with buf := b.buf ++ [x] }) ∧ t.arrivals = s.arrivals ∧ t.mem = s.mem) ∧
        (16 ≤ b.buf.length → exec (.messageArrival c chan q k x) s = .next s))

/-- R255, R258, R259, R336: a flit that passes its CRC in sequence is accepted, and its credit is to be returned; its
acknowledgement frees the replay buffer, and KIND 2 sends what is left of it again. For one that fails its CRC a replay is
asked for and counted; after 16 replays the link retrains; one that cannot is failed. A route changes to the one that R258
gives, only with nothing in flight on the old one, and what still waits at another port moves to the new one. -/
def Sys2Proof.Claims.LinksAndRoutes : Prop :=
  ∀ (p n : Nat) (flit : List Byte) (ok : Bool) (pkg : BitVec 12) (bs : List Byte) (s : State) (h : p < 8),
    bs = (Config.flitFec flit).toList →
    (s.links[p].failed = false → s.links[p].retraining = false →
      ((Config.flitCrc (bs.take 242)).toList = (bs.drop 242).take 8 → ∃ t : State,
        exec (.flitReceive p flit) s = .next t ∧
        (flitField bs 25 24 = 0 → flitField bs 11 0 = s.links[p].expected.toNat →
          t.links[p].expected = s.links[p].expected + 1 ∧ t.links[p].replays = 0 ∧
          ∀ v : Nat, t.links[p].owed[v]? = s.links[p].owed[v]?.map (fun x => if v = flitField bs 29 26 then x + 1 else x)) ∧
        ((flitField bs 25 24 ≠ 0 ∨ flitField bs 11 0 ≠ s.links[p].expected.toNat) →
          t.links[p].expected = s.links[p].expected ∧ t.links[p].replays = s.links[p].replays ∧ t.th = s.th ∧ t.mem = s.mem ∧
          t.requests = s.requests) ∧
        (flitField bs 25 24 = 2 → t.links[p].resend = t.links[p].buffer.length) ∧
        (∀ (old kept : List Flit) (f : Flit), s.links[p].buffer = old ++ f :: kept →
          (∀ g ∈ old, g.seq ≠ f.seq) → f.seq.toNat = flitField bs 23 12 → t.links[p].buffer = kept)) ∧
      ((Config.flitCrc (bs.take 242)).toList ≠ (bs.drop 242).take 8 → ∃ t : State,
        exec (.flitReceive p flit) s = .next t ∧ t.th = s.th ∧ t.mem = s.mem ∧
        (s.links[p].replays < 16 → t.links[p].replays = s.links[p].replays + 1 ∧ t.links[p].retraining = false ∧
          t.links[p].nak = true ∧ t.rasOf 6 = (countRas 6 1 s).rasOf 6) ∧
        (s.links[p].replays = 16 → t.links[p].retraining = true ∧ t.rasOf 6 = s.rasOf 6))) ∧
    (s.links[p].retraining = true → ∃ t : State, exec (.linkRetrain p ok) s = .next t ∧
      t.links[p].retraining = false ∧ t.links[p].failed = (s.links[p].failed || !ok) ∧ t.th = s.th ∧ t.mem = s.mem ∧
      t.rasOf 7 = (countRas 7 1 s).rasOf 7) ∧
    ((∀ r ∈ s.requests, r.outside = false → r.pkg = pkg → r.wired = true → r.performed = false →
        ∃ k, ∃ hk : k < 8, requestWire r s ∈ s.links[k].out) →
      (∀ k (hk : k < 8), s.links[k].carries pkg.toNat = false) → routePort s pkg.toNat = some n → ∃ t : State,
      exec (.routeChange pkg n) s = .next t ∧ t.routes = (pkg, n) :: s.routes.filter (fun x => x.1 != pkg) ∧
        t.th = s.th ∧ t.mem = s.mem ∧ t.requests = s.requests ∧
        (∀ k (hk : k < 8), k ≠ n → t.links[k].out = s.links[k].out.filter (·.dpkg != pkg.toNat)) ∧
        ∀ hn : n < 8, t.links[n].out = s.links[n].out ++ ((List.range 8).filter (· ≠ n)).flatMap
          (fun k => ((s.link k).map (fun l => l.out.filter (·.dpkg == pkg.toNat))).getD [])) ∧
    ((∃ r ∈ s.requests, r.outside = false ∧ r.pkg = pkg ∧ r.wired = true ∧ r.performed = false ∧
        ∀ k (hk : k < 8), requestWire r s ∉ s.links[k].out) ∨
      (∃ k, ∃ hk : k < 8, s.links[k].carries pkg.toNat = true) ∨ routePort s pkg.toNat ≠ some n →
        exec (.routeChange pkg n) s = .next s)

/-- R254, R258, R260, R262: a package that fails is unreachable, a request to it that is not served fails with reason 8,
and one that its requester has given up is gone. RANKCNT drops the context's cached entries. TIME is corrected by at most
100 ppm of the time since the last correction, and never decreases; TSYNCLOST follows whether the reference is held within
25 ns. The reference package corrects nothing. -/
def Sys2Proof.Claims.FailuresRanksAndTime : Prop :=
  ∀ (pkg : BitVec 12) (v : Word) (reference : Nat) (held : Bool) (s : State),
    (∃ t : State, exec (.packageFailure pkg) s = .next t ∧ pkg ∈ t.unreachable ∧ t.th = s.th ∧ t.mem = s.mem ∧
      (∀ x ∈ t.routes, x.1 ≠ pkg) ∧
      ∀ r ∈ t.requests, r.pkg = pkg → pkg ≠ s.pkgid → (r.outside = false → r.stage ≠ .sent) ∧ r.expired = false) ∧
    (v.extractLsb' 24 40 = 0 → ∃ t : State, exec (.rankcntWrite v) s = .next t ∧ t.th = s.th ∧ t.mem = s.mem ∧
      t.ctx s.asidSel = { s.ctx s.asidSel with rankcnt := v, ranks := [] }) ∧
    (v.extractLsb' 24 40 ≠ 0 → exec (.rankcntWrite v) s = .next s) ∧
    (s.referee.role = .primary → exec (.timeSync reference held) s = .next s) ∧
    (s.referee.role ≠ .primary → s.time.toNat < 2 ^ 63 → s.timeFrac < 6 → ∃ t : State, exec (.timeSync reference held) s = .next t ∧ t.th = s.th ∧
      t.mem = s.mem ∧ s.time.toNat ≤ t.time.toNat ∧
      t.time.toNat * 6 + t.timeFrac ≤ s.time.toNat * 6 + s.timeFrac + (s.cycle.toNat - s.syncAt) * 5 / 10000 ∧
      (t.time.toNat * 6 + t.timeFrac ≤ max (s.time.toNat * 6 + s.timeFrac) (reference * 6)) ∧
      (t.ras[10].getLsbD 0 = false ↔
        held = true ∧ t.time.toNat ≤ reference + 25 ∧ reference ≤ t.time.toNat + 25))

/-! ## Barrier domains and scheduled transfers -/

/-- R286, R287: WHISTLE waits for an open phase to close, arrives in its domain and holds its slot; it raises
OUT_OF_SLOT with reason 9 where R287 forbids the arrival. -/
def Sys2Proof.Claims.WhistleArrives : Prop :=
  ∀ (a : RegField) (n : Nat) (s r : State), n = (val [a] s 0).toNat → r = popped [a] s → s.feature 4 = true →
    Ready (.whistle a) [a] none s → acquired r = .ok () → r.entries = [] →
      (s.th.phase ≠ none → StallsAt (.whistle a) s .phase) ∧
      (s.th.phase = none →
        (∀ h : n < 64, MayArrive r n h → performedAll r = .ok () → exec (.whistle a) s =
          .next (r.up (fun t => { t with stall := some (.whistle n r.cycle.toNat) }))) ∧
        ((64 ≤ n ∨ ∃ h : n < 64, ¬MayArrive r n h) → TrapsAt (.whistle a) s .outOfSlot (slotWord 9 n 0)))

/-- R286, R287, R294, R297: a domain releases when every member core has arrived, and each arrived thread begins phase
cycle 0 at the word after its WHISTLE; at phase cycle PLEN the phase closes, with OUT_OF_SLOT reason 6 pending after a
stray element. Without release, 1 ms after an arrival every arrived thread takes reason 10. The time in which the thread
held its slot does not count towards a pending pre-emption. -/
def Sys2Proof.Claims.PhasesOpenAndClose : Prop :=
  ∀ (n : Nat) (h : n < 64) (s : State), s.th.code = .running →
    (∀ since, s.th.stall = some (.whistle n since) →
      (MayRelease s n h → ∃ t : State, exec (.domainRelease n) s = .next t ∧ t.mem = s.mem ∧
        t.th.phase = some ⟨n, s.cycle.toNat, s.domains[n].plen, [], false⟩ ∧ t.th.pc = s.th.pc + 4 ∧ t.th.stall = none ∧
        t.th.g = s.th.g ∧ t.th.mbox = s.th.mbox ∧ t.th.preempt = heldSince since s ∧
        t.openPhases = s.openPhases ++ [⟨n, s.cycle.toNat, s.domains[n].plen⟩]) ∧
      (¬MayRelease s n h → exec (.domainRelease n) s = .next s) ∧
      (since + 1200000 ≤ s.cycle.toNat → ∃ t : State, exec (.releaseTimeout n) s = .next t ∧ t.mem = s.mem ∧
        t.th = { s.th with
          stall := none
          preempt := heldSince since s
          pendTraps := s.th.pendTraps ++ [⟨.outOfSlot, false, slotWord 10 n 0, none, false⟩] })) ∧
    (∀ p, s.th.phase = some p → p.domain = n → s.th.stall = none → s.th.strays = [] →
      (p.start + p.plen ≤ s.cycle.toNat → ∃ t : State, exec (.phaseClose n) s = .next t ∧ t.mem = s.mem ∧
        t.th.phase = none ∧ t.th.pc = s.th.pc ∧ t.th.g = s.th.g ∧
        t.th.preempt = s.th.preempt.map (fun q => q + (p.start + p.plen - max q p.start)) ∧
        (∀ o ∈ t.openPhases, s.cycle.toNat < o.start + o.plen) ∧
        t.th.pendTraps = s.th.pendTraps ++ (if p.stray then [⟨.outOfSlot, false, slotWord 6 n 0, none, false⟩] else [])) ∧
      (s.cycle.toNat < p.start + p.plen → ∃ t : State, exec (.phaseClose n) s = .next t ∧ t.mem = s.mem ∧ t.th = s.th))

/-- R162, R289, R291 to R293: SSEND and SRECV, which read g2 as well, post the window that their timetable entry gives, a
send at the core's interface too, and hold the slot, SSEND until phase cycle OFFSET and SRECV until its window is over.
Outside an open phase they raise OUT_OF_SLOT with reason 1. -/
def Sys2Proof.Claims.ScheduledTransfersPosted : Prop :=
  ∀ (a : RegField) (i : Nat) (s r : State), i = (val [a, 2] s 0).toNat → r = popped [a, 2] s → s.feature 4 = true →
    acquired r = .ok () →
    (Ready (.ssend a) [a, 2] none s →
      (s.th.phase = none → TrapsAt (.ssend a) s .outOfSlot (slotWord 1 0 i)) ∧
      (∀ p w t, r.th.phase = some p → scheduledChecks true i r = .ok (w, t) →
        let u := { t.up (fun x => { x with phase := some { p with windows := p.windows ++ [w] } }) with
          sends := t.sends ++ [⟨t.th.quire, t.th.core, t.th.launch, t.th.tid, t.th.ctx, p.domain, p.start, w⟩] }
        (p.start + w.offset ≤ s.cycle.toNat → exec (.ssend a) s = .next (State.advance u 4)) ∧
        (s.cycle.toNat < p.start + w.offset → exec (.ssend a) s =
          .next (State.up u (fun x => { x with stall := some (.ssend i) }))))) ∧
    (Ready (.srecv a) [a, 2] none s →
      (s.th.phase = none → TrapsAt (.srecv a) s .outOfSlot (slotWord 1 0 i)) ∧
      (∀ p w t, r.th.phase = some p → scheduledChecks false i r = .ok (w, t) → exec (.srecv a) s =
        .next (t.up (fun x => { x with
          phase := some { p with windows := p.windows ++ [w] }
          stall := some (.srecv i) })))) ∧
    (∀ send w t, scheduledChecks send i r = .ok (w, t) → w.send = send ∧ w.index = i ∧ w.got = [] ∧ w.held = [] ∧ t.th = r.th ∧
      t.mem = r.mem ∧ w.len ≠ 0 ∧ w.pas.length = w.len ∧ w.va % 8 = 0 ∧
      ∀ p, r.th.phase = some p → w.offset + w.len + 32 ≤ p.plen ∧
        s.cycle.toNat - p.start ≤ (if send then w.offset else w.offset + 32))

/-- R290, R292 to R294: in phase cycle OFFSET + j an interface sends element j of a posted send, whether or not its thread
is still in the phase, for the lane 32 cycles later; an element that arrives in a receive window is written to the buffer,
once no earlier send of the thread has its bytes to read; one that meets no window marks the phase, and one whose core has
no thread in the domain's phase has no effect. -/
def Sys2Proof.Claims.ScheduledElementsMove : Prop :=
  (∀ (y : Sending) (j c pa : Nat) (s : State), Calm s → y ∈ s.sends → s.cycle.toNat = y.start + y.window.offset + j → j < y.window.len →
    j ∉ y.window.got → (∀ z ∈ s.sends, z.quire = y.quire → z.core = y.core → z.start + z.window.offset ≤ s.cycle.toNat →
      s.cycle.toNat < z.start + z.window.offset + z.window.len → z = y) →
    portCore y.quire y.core y.window.port = some c → y.window.pas[j]? = some pa → eccAt s pa 8 = false → ∃ t : State,
      exec (.scheduledElementSend y.quire y.core) s = .next t ∧ t.mem = s.mem ∧ t.th = s.th ∧
      t.lanes = s.lanes ++ [⟨y.domain, s.cycle.toNat + 32, c, if y.window.port < 8 then y.core else 8 + (y.window.port - 8 + 2) % 4,
        BitVec.ofNat 64 (s.mem.readNat pa 8)⟩]) ∧
  ∀ (p : Phase) (q k : Nat) (s : State), InPhase s p → s.th.quire = q → s.th.core = k →
    (∀ port x, (∀ e ∈ s.lanes, e.due = s.cycle.toNat → e.core = 8 * q + k → e.port = port → e.payload = x → e.domain ≠ p.domain) →
      (∀ t ∈ s.others, t.quire = q → t.core = k → t.phase = none) →
        ∃ t : State, exec (.scheduledElement q k port x) s = .next t ∧ t.mem = s.mem ∧ t.th = s.th) ∧
    (∀ port x, (⟨p.domain, s.cycle.toNat, 8 * q + k, port, x⟩ : LaneElem) ∈ s.lanes →
      (∀ e ∈ s.lanes, e.due = s.cycle.toNat → e.core = 8 * q + k → e.port = port → e.payload = x → e.domain = p.domain) →
      (∀ w j pa, p.windows.find? (fun v => !v.send && v.port == port && decide (p.start + v.offset + 32 ≤ s.cycle.toNat) &&
          decide (s.cycle.toNat < p.start + v.offset + 32 + v.len)) = some w →
        s.cycle.toNat = p.start + w.offset + 32 + j → w.pas[j]? = some pa → ∃ t : State,
          exec (.scheduledElement q k port x) s = .next t ∧ t.th.pc = s.th.pc ∧ t.th.g = s.th.g ∧
          t.mem = if sendPending s s.th.launch s.th.tid (w.va + 8 * j) 8 then s.mem
            else (s.store s.th.ctx pa (toBytesLE 8 x.toNat)).mem) ∧
      ((∀ v ∈ p.windows, v.send = false → v.port = port → ¬(p.start + v.offset + 32 ≤ s.cycle.toNat ∧
          s.cycle.toNat < p.start + v.offset + 32 + v.len)) → ∃ t : State,
        exec (.scheduledElement q k port x) s = .next t ∧ t.mem = s.mem ∧
          t.th = { s.th with phase := some { p with stray := true } }))

/-! ## Vectors -/

/-- R436 to R438: what the element-wise words of opcode 0x38 compute; integers wrap, floating results round in the mode
that the push captured. -/
def Sys2Proof.Claims.VectorArithmetic : Prop :=
  ∀ (d a b : BitVec 4) (e : BitVec 2) (m sc st : BitVec 1) (h c : BitVec 2) (s : State),
    let w := 8 * 2 ^ e.toNat
    let f := fmtOf c e
    let rm := modeOf s
    let x := fun k => s.th.lane w a.toNat k
    let y := fun k => operandY s w b sc h k
    let z := fun k => s.th.lane w d.toNat k
    let pick := fun (int : Nat → Nat) (flt : Nat → Nat × Nat) k => if c = 1 ∨ c = 2 then flt k else (int k, 0)
    Lanes (.vadd d a b e m sc st h c) d w m s
      (pick (fun k => x k + y k) (fun k => addNum f rm (decodeFloat f (x k)) (decodeFloat f (y k)))) ∧
    Lanes (.vsub d a b e m sc st h c) d w m s
      (pick (fun k => x k + 2 ^ w - y k) (fun k => addNum f rm (decodeFloat f (x k)) (negNum (decodeFloat f (y k))))) ∧
    Lanes (.vmul d a b e m sc st h c) d w m s
      (pick (fun k => x k * y k) (fun k => mulNum f rm (decodeFloat f (x k)) (decodeFloat f (y k)))) ∧
    Lanes (.vfma d a b e m sc st h c) d w m s
      (fun k => fmaNum f rm (decodeFloat f (x k)) (decodeFloat f (y k)) (decodeFloat f (z k))) ∧
    Lanes (.vmin d a b e m sc st h c) d w m s
      (pick (fun k => if c = 3 then min (x k) (y k) else if signed w (x k) ≤ signed w (y k) then x k else y k)
        (fun k => minMaxFloat f false (x k) (y k))) ∧
    Lanes (.vmax d a b e m sc st h c) d w m s
      (pick (fun k => if c = 3 then max (x k) (y k) else if signed w (x k) ≤ signed w (y k) then y k else x k)
        (fun k => minMaxFloat f true (x k) (y k))) ∧
    Lanes (.vand d a b e m sc st h c) d w m s (fun k => (x k &&& y k, 0)) ∧
    Lanes (.vor d a b e m sc st h c) d w m s (fun k => (x k ||| y k, 0)) ∧
    Lanes (.vxor d a b e m sc st h c) d w m s (fun k => (x k ^^^ y k, 0)) ∧
    Lanes (.vshl d a b e m sc st h c) d w m s (fun k => (x k <<< (y k % w), 0)) ∧
    Lanes (.vshr d a b e m sc st h c) d w m s (fun k =>
      (if c = 3 then x k >>> (y k % w) else ((BitVec.ofNat w (x k)).sshiftRight (y k % w)).toNat, 0)) ∧
    Lanes (.vsel d a b e m sc st h c) d w m s (fun k => (if s.th.m.getLsbD k then x k else y k, 0))

/-- R122, R437, R439, R440: exponentials, reciprocals and reciprocal roots in RNE; permutations, broadcasts and indexes;
conversions between formats, each element in the low bits of its slot, at the push or behind a replay with the entry's
completion (assumption 55). -/
def Sys2Proof.Claims.VectorMovesAndConversions : Prop :=
  ∀ (d a b g : BitVec 4) (e : BitVec 2) (m sc st : BitVec 1) (h c : BitVec 2) (s : State),
    let w := 8 * 2 ^ e.toNat
    let f := fmtOf c e
    let x := fun k => s.th.lane w a.toNat k
    Lanes (.vexp d a e m st c) d w m s (fun k => fpExp f (x k)) ∧
    Lanes (.vrcp d a e m st c) d w m s (fun k => divNum f 0 (.fin false 1 0) (decodeFloat f (x k))) ∧
    Lanes (.vrsq d a e m st c) d w m s (fun k => fpRsq f (x k)) ∧
    Lanes (.vperm d a b e m sc st h) d w m s (fun k => (x (operandY s w b sc h k % (1024 / w)), 0)) ∧
    Lanes (.vbcast d a b e m sc st h c) d w m s (fun k => (if sc = 1 then operandY s w b sc h k else x 0, 0)) ∧
    Lanes (.vidx d e m st) d w m s (fun k => (k, 0)) ∧
    Defers (.vcvt d a b m st g) s ∧
    (∀ u v, u = slotWidth b.toNat → v = slotWidth g.toNat → VecReady (.vcvt d a b m st g) s → behind s = false →
      ∃ (t : State) (n : SeqEntry), exec (.vcvt d a b m st g) s = .next t ∧ Entered s t n ∧ VecFrame s t ∧ t.th.m = s.th.m ∧
        (∀ k, k ≠ d.toNat → t.th.vreg k = s.th.vreg k) ∧
        (∀ k < 1024 / v, t.th.lane v d.toNat k = if active s.th (max u v) m k then
          (convert g.toNat b.toNat (modeOf s) (s.th.lane u a.toNat k % 2 ^ fmtWidth b.toNat)).1 % 2 ^ v
          else s.th.lane v d.toNat k) ∧
        FlagsFrom s t (active s.th (max u v) m)
          (fun k => (convert g.toNat b.toNat (modeOf s) (s.th.lane u a.toNat k % 2 ^ fmtWidth b.toNat)).2))

/-- R124, R168, R444, R446: VSET writes its condition to the bits of m of active elements; a reduction writes element 0
of vd with the pairwise tree's result over the active elements of va, and nothing else of vd. -/
def Sys2Proof.Claims.VectorMasksAndReductions : Prop :=
  ∀ (n d a b : BitVec 4) (e : BitVec 2) (m sc st : BitVec 1) (h c : BitVec 2) (s : State),
    let w := 8 * 2 ^ e.toNat
    let f := fmtOf c e
    let x := fun k => s.th.lane w a.toNat k
    let y := fun k => operandY s w b sc h k
    let fx := fun k => decodeFloat f (x k)
    let fy := fun k => decodeFloat f (y k)
    let flt : Bool := c == 1 || c == 2
    let nan := fun k => (fx k).isNaN || (fy k).isNaN
    Defers (.vset n a b e m sc st h c) s ∧ Defers (.vredAdd d a e m st c) s ∧ Defers (.vredMin d a e m st c) s ∧
    (VecReady (.vset n a b e m sc st h c) s → behind s = false → ∃ (t : State) (q : SeqEntry),
      exec (.vset n a b e m sc st h c) s = .next t ∧ Entered s t q ∧ VecFrame s t ∧ t.th.v = s.th.v ∧
      (∀ k < 128, active s.th w m k = false → t.th.m.getLsbD k = s.th.m.getLsbD k) ∧
      (∀ k < 128, active s.th w m k = true →
        (n = 0 → t.th.m.getLsbD k = if flt then !nan k && decide (cmpNum (fx k) (fy k) = 0) else x k == y k) ∧
        (n = 1 → t.th.m.getLsbD k = if flt then nan k || decide (cmpNum (fx k) (fy k) ≠ 0) else x k != y k) ∧
        (n = 2 → t.th.m.getLsbD k = if flt then !nan k && decide (cmpNum (fx k) (fy k) < 0)
          else if c = 3 then decide (x k < y k) else decide (signed w (x k) < signed w (y k))) ∧
        (n = 3 → t.th.m.getLsbD k = if flt then !nan k && decide (0 ≤ cmpNum (fx k) (fy k))
          else if c = 3 then decide (y k ≤ x k) else decide (signed w (y k) ≤ signed w (x k)))) ∧
      FlagsFrom s t (active s.th w m) (fun k => if flt then nvIf (if n = 0 ∨ n = 1 then
        (fx k).isSignalling || (fy k).isSignalling else nan k) else 0)) ∧
    (∀ i op empty, VecReady i s → behind s = false →
      (i = .vredAdd d a e m st c ∧ empty = 0 ∧ op = (fun p q =>
        if flt then (addNum f (modeOf s) (decodeFloat f p) (decodeFloat f q)).1 else (p + q) % 2 ^ w)) ∨
      (i = .vredMin d a e m st c ∧ empty = (if flt then infPattern f false else if c = 3 then 2 ^ w - 1 else 2 ^ (w - 1) - 1) ∧
        op = (fun p q => if flt then (minMaxFloat f false p q).1 else if c = 3 then min p q
          else if signed w p ≤ signed w q then p else q)) →
        ∃ (t : State) (q : SeqEntry), exec i s = .next t ∧ Entered s t q ∧ VecFrame s t ∧ t.th.m = s.th.m ∧
          (∀ k, k ≠ d.toNat → t.th.vreg k = s.th.vreg k) ∧ t.th.lane w d.toNat 0 = reduced op empty (actives s.th w a.toNat m) % 2 ^ w ∧
          ∀ k, 0 < k → k < 1024 / w → t.th.lane w d.toNat k = s.th.lane w d.toNat k) ∧
    (∀ r op empty, VecReady (.vredMax d a e m st c) r → softmaxAt s.th.pc.toNat (.vredMax d a e m st c) s = .ok (none, r) →
      empty = (if flt then infPattern f true else if c = 3 then 0 else 2 ^ (w - 1)) →
      op = (fun p q => if flt then (minMaxFloat f true p q).1 else if c = 3 then max p q
          else if signed w p ≤ signed w q then q else p) →
        ∃ (t : State) (q : SeqEntry), exec (.vredMax d a e m st c) s = .next t ∧ Entered s t q ∧ VecFrame s t ∧
          (behind r = true → Deferred [(.vredMax d a e m st c, 0)] s t q) ∧
          (behind r = false → t.th.m = s.th.m ∧ (∀ k, k ≠ d.toNat → t.th.vreg k = s.th.vreg k) ∧
            t.th.lane w d.toNat 0 = reduced op empty (actives s.th w a.toNat m) % 2 ^ w ∧
            ∀ k, 0 < k → k < 1024 / w → t.th.lane w d.toNat k = s.th.lane w d.toNat k))

/-- R169, R170, R447: VRED_MAX at the start of the fused softmax sequence pushes all eight words as one entry, and moves
past them; the vector registers, m and FSTAT get the effect that the words have in order, behind a replay of the thread
when the entry completes. -/
def Sys2Proof.Claims.FusedSoftmaxRuns : Prop :=
  ∀ (d a : BitVec 4) (e : BitVec 2) (m st : BitVec 1) (c : BitVec 2) (ws : List Instr) (s r : State),
    softmaxAt s.th.pc.toNat (.vredMax d a e m st c) s = .ok (some ws, r) →
    (∀ i ∈ ws, ∀ n ∈ vecNames i, n < s.th.vregs) → vecEcc (ws.flatMap vecReads) r = .ok () → seqRoom 1 r = .ok () →
      ws.length = 8 ∧ ∃ (t : State) (q : SeqEntry), exec (.vredMax d a e m st c) s = .next t ∧ Entered s t q ∧ t.mem = s.mem ∧
        t.th.pc = s.th.pc + 32 ∧ t.th.g = s.th.g ∧ t.th.vl = s.th.vl ∧
        (behind r = true → Deferred (ws.map (fun i => (i, 0))) s t q) ∧
        (behind r = false → ∃ u, u = ws.foldl (fun x i => vecEffect i 0 s.th.vl (modeOf s) x) s.th ∧
          t.th.v = u.v ∧ t.th.m = u.m ∧ t.th.fstat = u.fstat)

/-- R89, R160, R162, R443, R445: VSETL bounds VL by 128. VMOVG moves between m, element 0 of a vector register and a
general register; what it gives a general register is written when its entry completes. -/
def Sys2Proof.Claims.VsetlAndVmovg : Prop :=
  ∀ (d b : BitVec 4) (e : BitVec 2) (st : BitVec 1) (h : BitVec 2) (s : State),
    let w := 8 * 2 ^ e.toNat
    let y := (val [scalarReg h b] s 0).toNat
    (Ready (.vsetl b h) [scalarReg h b] none s → exec (.vsetl b h) s =
      .next (((popped [scalarReg h b] s).up (fun t => { t with vl := min y 128 })).advance 4)) ∧
    (∀ k : BitVec 4, Defers (.vmovg d k b e st h) s) ∧
    (∀ k : BitVec 4, k.toNat < 2 → VecReady (.vmovg d k b e st h) s → behind s = false → ∃ (t : State) (q : SeqEntry),
      exec (.vmovg d k b e st h) s = .next t ∧ Entered s t q ∧ VecFrame s t ∧ t.th.v = s.th.v ∧ t.th.fstat = s.th.fstat ∧
        t.th.m = (if k = 0 then s.th.m.extractLsb' 64 64 ++ BitVec.ofNat 64 y
          else BitVec.ofNat 64 y ++ s.th.m.extractLsb' 0 64)) ∧
    (VecReady (.vmovg d 4 b e st h) s → behind s = false → ∃ (t : State) (q : SeqEntry), exec (.vmovg d 4 b e st h) s = .next t ∧
      Entered s t q ∧ VecFrame s t ∧ t.th.m = s.th.m ∧ t.th.fstat = s.th.fstat ∧
      (∀ n, n ≠ d.toNat → t.th.vreg n = s.th.vreg n) ∧ t.th.lane w d.toNat 0 = y % 2 ^ w ∧
      ∀ n, 0 < n → n < 1024 / w → t.th.lane w d.toNat n = s.th.lane w d.toNat n) ∧
    (∀ k x, (k = 2 ∧ x = s.th.m.extractLsb' 0 64) ∨ (k = 3 ∧ x = s.th.m.extractLsb' 64 64) ∨
        (k = 5 ∧ x = BitVec.ofNat 64 (s.th.lane w d.toNat 0)) → VecReady (.vmovg d k b e st h) s → behind s = false →
      ∃ (t : State) (q : SeqEntry), exec (.vmovg d k b e st h) s = .next t ∧ Entered s t q ∧ VecFrame s t ∧
        t.th.v = s.th.v ∧ t.th.m = s.th.m ∧ t.th.fstat = s.th.fstat ∧ q.gdest = some (scalarReg h b, x))

/-- R163, R441, R442: VLD writes its active elements, zero-extended, to their slots, and VST stores its active elements
and nothing else: those below VL and the slice's count that the mask admits, at their addresses. Behind a replay of the
thread that comes when the entry completes. -/
def Sys2Proof.Claims.VectorLoadsAndStores : Prop :=
  ∀ (d : BitVec 4) (a : RegField) (e : BitVec 2) (o : BitVec 6) (n : BitVec 5) (m : BitVec 1) (s : State),
    let w := 8 * 2 ^ e.toNat
    let base : Int := (reg [a] s 0).addr + o.toInt * 128
    (∀ i r els, (i = .vld d a e o m ∧ r = popped [a] s ∧
          els = elementsAt s.th w m (fun k => base + (k * (w / 8) : Nat)) 1024) ∨
        (∃ sl, i = .vldShape d a e o n m ∧ sliceOf i n.toNat (popped [a] s) = .ok (sl, r) ∧
          els = elementsAt s.th w m (fun k => base + sl.at k) sl.total) →
      Ready i [a] none s → vecLegal i s.th = .ok () → ∀ ps u, Reaches i false (reg [a] s 0) w m els r ps u → Calm u →
        ps.map (·.1) = els.map (·.1) ∧ ∃ (t : State) (q : SeqEntry), exec i s = .next t ∧ Entered s t q ∧
          q.bytes = els.map (fun x => (x.2, w / 8)) ∧ t.mem = s.mem ∧ t.th.pc = s.th.pc + 4 ∧
          t.th.g = s.th.g ∧ t.th.m = s.th.m ∧ t.th.fstat = s.th.fstat ∧
          (behind r = true → t.th.v = s.th.v ∧ q.work = some ⟨[(i, 0)], s.th.vl, modeOf s, ps⟩) ∧
          (behind r = false → (∀ k, k ≠ d.toNat → t.th.vreg k = s.th.vreg k) ∧
            (∀ k pa, (k, pa) ∈ ps → inMmio pa = false → t.th.lane w d.toNat k = s.mem.readNat pa (w / 8)) ∧
            ∀ k < 1024 / w, k ∉ els.map (·.1) → t.th.lane w d.toNat k = s.th.lane w d.toNat k)) ∧
    (∀ i r els, (i = .vst d a e o m ∧ r = popped [a] s ∧
          els = elementsAt s.th w m (fun k => base + (k * (w / 8) : Nat)) 1024) ∨
        (∃ sl, i = .vstShape d a e o n m ∧ sliceOf i n.toNat (popped [a] s) = .ok (sl, r) ∧
          els = elementsAt s.th w m (fun k => base + sl.at k) sl.total) →
      Ready i [a] none s → vecLegal i s.th = .ok () → ∀ ps u, Reaches i true (reg [a] s 0) w m els r ps u →
        ps.map (·.1) = els.map (·.1) ∧ ∃ (t : State) (q : SeqEntry), exec i s = .next t ∧ Entered s t q ∧
          q.bytes = els.map (fun x => (x.2, w / 8)) ∧ t.th.pc = s.th.pc + 4 ∧
          (behind r = true → t.mem = s.mem ∧ t.th = r.th.next 4 ∧ q.work = some ⟨[(i, 0)], s.th.vl, modeOf s, ps⟩) ∧
          (behind r = false → (∀ x ∈ ps, inMmio x.2 = false ∧ inSlices x.2 = false) →
            t.th = r.th.next 4 ∧ t.mem = storedAt (w / 8) (s.th.lane w d.toNat) ps s.mem ∧
            ∀ x, (∀ y ∈ ps, x < y.2 ∨ y.2 + w / 8 ≤ x) → t.mem.read x = s.mem.read x))

/-- R161, R164 to R166, R445: VSEQ skips its body for no passes, and else pushes a replay of it, of one entry for each body
word; a free lane group binds the oldest unbound entry of the core whose turn it is, where that waits for none of its
thread's, and of a replay its next word; an entry that completes writes what VMOVG moves to a general register, or has the
effect of its words, one after the other. -/
def Sys2Proof.Claims.ReplaysAndLanes : Prop :=
  ∀ (l b : BitVec 4) (h : BitVec 2) (q k lane : Nat) (s : State),
    (∀ body r passes, passes = (val [scalarReg h b] s 0).toNat → Ready (.vseq l b h) [scalarReg h b] none s →
      readBody (.vseq l b h) passes (l.toNat + 1) (s.th.pc.toNat + 4) s = .ok (body, r) →
        (passes = 0 → Ready (.vseq l b h) [scalarReg h b] none r →
          ∃ t : State, exec (.vseq l b h) s = .next t ∧ t.th.pc = s.th.pc + BitVec.ofNat 64 (4 + 4 * (l.toNat + 1)) ∧
            t.seqs = s.seqs ∧ t.mem = s.mem ∧ t.th.v = s.th.v ∧ t.th.m = s.th.m ∧ t.th.g = s.th.g) ∧
        (0 < passes → (∀ x ∈ body.filterMap vecGdest, beyond s.th x = false ∧ awaitsReply s x = false) →
          Ready (.vseq l b h) (scalarReg h b :: body.filterMap scalarOf) none r →
          vecEcc (body.flatMap vecReads) s = .ok () → seqRoom (l.toNat + 1) s = .ok () →
          ∃ (t : State) (e : SeqEntry) (p : Replay), exec (.vseq l b h) s = .next t ∧ Entered s t e ∧ e.held = l.toNat + 1 ∧
            t.th.pc = s.th.pc + BitVec.ofNat 64 (4 + 4 * (l.toNat + 1)) ∧ t.mem = s.mem ∧ t.th.v = s.th.v ∧ t.th.m = s.th.m ∧
            t.th.g = s.th.g ∧ e.work = none ∧ e.replay = some p ∧ p.body = body ∧ p.left = passes ∧ p.pass = 0 ∧ p.word = 0 ∧
            p.vl = s.th.vl ∧ p.rm = modeOf s)) ∧
    (lane < 4 → (∀ x ∈ s.seqs, x.quire = q → x.lane ≠ some lane) →
      (∀ e, Head s q k e → e.replay = none → Turn s q k →
        ∃ t : State, exec (.vectorEntryBind q k lane) s = .next t ∧
          { e with lane := some lane } ∈ t.seqs ∧ t.seqs.map (fun x => { x with lane := none }) =
            s.seqs.map (fun x => { x with lane := none }) ∧ t.th = s.th ∧ t.mem = s.mem) ∧
      (∀ e p i y, Head s q k e → e.replay = some p → (p.body.zip p.vals)[p.word]? = some (i, y) → Turn s q k →
        ∃ (t : State) (n : SeqEntry), exec (.vectorEntryBind q k lane) s = .next t ∧ n ∈ t.seqs ∧ n.lane = some lane ∧
          n.launch = e.launch ∧ n.tid = e.tid ∧ n.work = some ⟨[(inPass p.pass i, y)], p.vl, p.rm, []⟩ ∧
          t.seqs.length = s.seqs.length + 1 ∧ t.th = s.th ∧ t.mem = s.mem ∧
          { e with replay := some (if p.word + 1 < p.body.length then { p with word := p.word + 1 }
            else { p with word := 0, left := p.left - 1, pass := p.pass + 1 }) } ∈ t.seqs) ∧
      (∀ e f, Head s q k e → f ∈ s.seqs → e.next.waitsFor f = true → exec (.vectorEntryBind q k lane) s = .next s) ∧
      (∀ d, Turn s q d → d ≠ k → exec (.vectorEntryBind q k lane) s = .next s)) ∧
    (∀ e, s.seqs.find? (fun x => x.quire == q && x.lane == some lane) = some e → s.th.is e.launch e.tid = true →
      s.th.code = .running → Distinct s →
      (∀ r x, e.work = none → e.gdest = some (r, x) → ∃ t : State, exec (.vectorEntryCompletion q lane) s = .next t ∧
        t.th = s.th.setReg r.toNat (Reg.ofData x) ∧ t.mem = s.mem ∧ t.seqs.length < s.seqs.length) ∧
      (e.work = none → e.gdest = none → ∃ t : State, exec (.vectorEntryCompletion q lane) s = .next t ∧
        t.th = s.th ∧ t.mem = s.mem ∧ t.seqs.length < s.seqs.length) ∧
      (∀ w, e.work = some w → (∀ x ∈ w.words, vecMoves x.1 = none) → ∃ t : State,
        exec (.vectorEntryCompletion q lane) s = .next t ∧ t.mem = s.mem ∧ t.seqs.length < s.seqs.length ∧
        t.th = w.words.foldl (fun u x => wordDone w x u) s.th) ∧
      (∀ (w : VecWork) i y wd (d : BitVec 4), e.work = some w → w.words = [(i, y)] → vecMoves i = some (false, wd, d.toNat) →
        Calm s → (w.elems.map (·.1)).Nodup → ∃ t : State, exec (.vectorEntryCompletion q lane) s = .next t ∧ t.mem = s.mem ∧
          (∀ k, k ≠ d.toNat → t.th.vreg k = s.th.vreg k) ∧
          (∀ k pa, (k, pa) ∈ w.elems → k < 1024 / wd → inMmio pa = false → t.th.lane wd d.toNat k = s.mem.readNat pa (wd / 8)) ∧
          ∀ k < 1024 / wd, k ∉ w.elems.map (·.1) → t.th.lane wd d.toNat k = s.th.lane wd d.toNat k) ∧
      (∀ (w : VecWork) i y wd (d : BitVec 4), e.work = some w → w.words = [(i, y)] → vecMoves i = some (true, wd, d.toNat) →
        (∀ x ∈ w.elems, inMmio x.2 = false ∧ inSlices x.2 = false) → ∃ t : State,
          exec (.vectorEntryCompletion q lane) s = .next t ∧ t.th = s.th ∧
          t.mem = storedAt (wd / 8) (s.th.lane wd d.toNat) w.elems s.mem))

/-! ## Tile commands and routines -/

/-- R95, R96, R182, R183, R214: the push of a tile command by a thread alone. Where a check of R95 fails the thread
traps at word 0; where an earlier access, a pop or the queue makes it wait it holds its slot; else the fields are read
once in order, d gets the job id, PC moves on by 32, and the engine has one job more, with the snapshot, which its id
names from now on; an older job of the id that is not over goes on. A full copy unit's job is written to the spill ring;
where that faults, the thread traps. -/
def Sys2Proof.Claims.TileCommandsPush : Prop :=
  ∀ (c : Tile) (i : Instr) (s : State), i ∈ tileCommands c → s.th.ganged = false → Distinct s →
    (∀ k v, pushChecks i c s = .error (.trap k v) → TrapsAt i s k v) ∧
    (∀ w, pushChecks i c s = .error (.stall w) → exec i s = .next (s.up (fun x => { x with stall := some w }))) ∧
    (∀ rs t, pushChecks i c s = .ok (rs, t) →
      (∀ w, pushWaits i c t = .error (.stall w) → exec i s = .next (s.up (fun x => { x with stall := some w }))) ∧
      (∀ k v, pushWaits i c t = .error (.trap k v) → TrapsAt i s k v) ∧
      (pushWaits i c t = .ok () → ∀ cls unit, cls = c.cls.toNat → unit = pushUnit cls s.th.quire →
        (queueFull cls unit t = true →
          exec i s = .next (t.up (fun x => { x with stall := some (.retry (.queue cls unit)) }))) ∧
        (queueFull cls unit t = false → mustSpill cls unit t = true →
          (∀ k v, spillWrite i c t = .error (.trap k v) → exec i s = .next (takeTrap k false v t.th.pc false t)) ∧
          (∀ w, spillWrite i c t = .error (.stall w) → exec i s = .next (t.up (fun x => { x with stall := some w })))) ∧
        (∀ r id v, queueFull cls unit t = false →
          ((mustSpill cls unit t = false ∧ r = t) ∨ (mustSpill cls unit t = true ∧ spillWrite i c t = .ok r)) →
          id = nextSerial r cls unit % 2 ^ 16 + cls * 2 ^ 16 + unit % 512 * 2 ^ 18 →
          v = State.advance (writeData c.d (BitVec.ofNat 64 id) (popped (pushFields i c) r)) 32 →
          ∃ j u, IsJob t i c rs id unit (vals (pushFields i c) r) j ∧
            j.stage = (if mustSpill cls unit t then .spilled else .queued) ∧
            (j.spillAt = if mustSpill cls unit t then some (spillVa t) else none) ∧
            exec i s = .next u ∧ u.jobOf id = some j ∧ u.mem = v.mem ∧ u.th.g = v.th.g ∧ u.th.pc = v.th.pc ∧
            (∀ k ∈ v.jobs, k.id ≠ id → k ∈ u.jobs) ∧
            (∀ k ∈ v.jobs, k.id = id → k.stage ≠ .ended → { k with id := id % 2 ^ 32 + (k.order + 1) * 2 ^ 32 } ∈ u.jobs) ∧
            ((∀ k ∈ v.jobs, k.id ≠ id) → u = { v with
              jobs := j :: v.jobs
              nextOrder := v.nextOrder + 1
              serials := (512 * cls + unit, nextSerial r cls unit + 1) :: v.serials.filter (fun x => x.1 != 512 * cls + unit) }))))

/-- R33, R91, R94, R95: what makes a push ILLEGAL comes before every other cause of the push: a broken field rule, a
register beyond the thread's count, and a shape index at or beyond NSHAPE, but for ACCREL and QFENCE. -/
def Sys2Proof.Claims.TileCommandsIllegal : Prop :=
  ∀ (c : Tile) (i : Instr) (s : State), i ∈ tileCommands c → s.th.ganged = false → Distinct s →
    (wellFormedInstr i = false ∨ (∃ r ∈ [c.x, c.y, c.z, c.w, c.p, c.d], beyond s.th r = true) ∨
      (i ≠ .accrel c ∧ i ≠ .qfence c ∧ s.th.nshape ≤ c.shape.toNat)) → TrapsAt i s .illegal (wordTval i)

/-- R192, R194, R196, R202, R413, R414: what a slot of a routine does in each working format. -/
def Obligations.RoutineSlotsRun : Prop :=
  ∀ (s : State) (t a b : BitVec 3),
    -- every format
    (let f := s.rt.fmt
     f = 0 ∨ f = 2 ∨ f = 3 ∨ f = 4 ∨ f = 5 →
      let x := slotReg (fmtWidth f) s a
      let y := slotReg (fmtWidth f) s b
      let z := slotReg (fmtWidth f) s t
      Slot (.rmov t a) t 1 s (x.toNat, 0) ∧
      Slot (.rand t a b) t 1 s ((x &&& y).toNat, 0) ∧
      Slot (.ror t a b) t 1 s ((x ||| y).toNat, 0) ∧
      Slot (.rxor t a b) t 1 s ((x ^^^ y).toNat, 0) ∧
      Slot (.rsel t a b) t 1 s (if z.toNat = 0 ∨ (3 ≤ f ∧ z.toNat = 2 ^ (fmtWidth f - 1)) then y.toNat else x.toNat, 0) ∧
      (∀ l : BitVec 16, Slot (.rconst l t) t 2 s
        (if f = 0 ∨ f = 2 then (l.signExtend (fmtWidth f)).toNat
         else if f = 3 ∧ (decodeFloat 5 l.toNat).isNaN = false then l.toNat * 2 ^ 16
         else if f = 3 then canonNaN 3 else l.toNat, 0)) ∧
      exec .rret s = .next { s with rt := { s.rt with active := false, flags := 0 } }) ∧
    -- the integer formats
    (let f := s.rt.fmt
     f = 0 ∨ f = 2 →
      let x := slotReg (fmtWidth f) s a
      let y := slotReg (fmtWidth f) s b
      let z := slotReg (fmtWidth f) s t
      Slot (.radd t a b) t 1 s ((x + y).toNat, 0) ∧
      Slot (.rsub t a b) t 1 s ((x - y).toNat, 0) ∧
      Slot (.rmul t a b) t 1 s ((x * y).toNat, 0) ∧
      Slot (.rfma t a b) t 1 s ((x * y + z).toNat, 0) ∧
      Slot (.rmin t a b) t 1 s (if x.toInt ≤ y.toInt then x.toNat else y.toNat, 0) ∧
      Slot (.rmax t a b) t 1 s (if x.toInt ≤ y.toInt then y.toNat else x.toNat, 0) ∧
      Slot (.rneg t a) t 1 s ((-x).toNat, 0) ∧
      Slot (.rabs t a) t 1 s (if x.toInt < 0 then (-x).toNat else x.toNat, 0) ∧
      Slot (.rcmplt t a b) t 1 s (if x.toInt < y.toInt then 1 else 0, 0) ∧
      Slot (.rcmpeq t a b) t 1 s (if x = y then 1 else 0, 0) ∧
      Slot (.rshl t a b) t 1 s ((x <<< (y.toNat % fmtWidth f)).toNat, 0) ∧
      Slot (.rshr t a b 0) t 1 s ((x >>> (y.toNat % fmtWidth f)).toNat, 0) ∧
      Slot (.rshr t a b 1) t 1 s ((x.sshiftRight (y.toNat % fmtWidth f)).toNat, 0)) ∧
    -- the floating formats
    (let f := s.rt.fmt
     f = 3 ∨ f = 4 ∨ f = 5 →
      let p := (slotReg (fmtWidth f) s a).toNat
      let q := (slotReg (fmtWidth f) s b).toNat
      let x := decodeFloat f p
      let y := decodeFloat f q
      let z := decodeFloat f (slotReg (fmtWidth f) s t).toNat
      let one := if f = 3 then 0x3F800000 else if f = 4 then 0x3C00 else 0x3F80
      let quiet := nvIf (x.isSignalling || y.isSignalling)
      Slot (.radd t a b) t 1 s (addNum f 0 x y) ∧
      Slot (.rsub t a b) t 1 s (addNum f 0 x (negNum y)) ∧
      Slot (.rmul t a b) t 1 s (mulNum f 0 x y) ∧
      Slot (.rfma t a b) t 1 s (fmaNum f 0 x y z) ∧
      (∃ lo hi, LesserGreater f p q lo hi ∧ Slot (.rmin t a b) t 1 s (lo, quiet) ∧ Slot (.rmax t a b) t 1 s (hi, quiet)) ∧
      Slot (.rneg t a) t 1 s (if x.isNaN then canonNaN f else p ^^^ 2 ^ (fmtWidth f - 1), 0) ∧
      Slot (.rabs t a) t 1 s (if x.isNaN then canonNaN f else p % 2 ^ (fmtWidth f - 1), 0) ∧
      Slot (.rcmplt t a b) t 1 s
        (if !x.isNaN && !y.isNaN && decide (cmpNum x y < 0) then one else 0, nvIf (x.isNaN || y.isNaN)) ∧
      Slot (.rcmpeq t a b) t 1 s (if !x.isNaN && !y.isNaN && decide (cmpNum x y = 0) then one else 0, quiet) ∧
      Slot (.rexp t a) t 1 s (fpExp f p) ∧
      (∀ g : BitVec 3, g.toNat < 6 →
        let m := [5, 4, 6, 7, 8, 9].getD g.toNat 0
        let w := convert m f 0 p
        Slot (.rcvt t a g) t 1 s ((convert f m 0 w.1).1, w.2 ||| (convert f m 0 w.1).2)) ∧
      (x.isNaN = true → Slot (.rcvt t a 6) t 1 s (canonNaN f, nvIf x.isSignalling)) ∧
      (x.isNaN = false → x.isInf = true → Slot (.rcvt t a 6) t 1 s (p, 0)) ∧
      (∀ neg m e, x = .fin neg m e → Slot (.rcvt t a 6) t 1 s
        ((roundFloat f 0 neg (roundToNat 0 neg m e).1 0).1, if (roundToNat 0 neg m e).2 then flagNX else 0)))

/-! ## Jobs on their engines -/

/-- R50, R136, R138, R151, R178, R182, R214: the engine tries the jobs of a core that have begun, oldest first, and then the
oldest other one. Jobs that may not start yet change nothing; one that starts, read back from the spill ring where it was
spilled, makes its accesses and is decided with a status and a record; one whose chunk parks stays, with the chunk and
the time at which that chunk parked first, and one that waits for a walk keeps the time since when it does. -/
def Obligations.JobsStart : Prop :=
  ∀ (cls unit core : Nat) (s : State), cls ≠ 3 →
    ((∀ k ∈ waitingJobs s cls unit core, mayStart k s = false) →
      exec (.jobStart cls unit core) s = .next { s with chunks := [] }) ∧
    (∀ j k r e t, j.status = 0 →
      ((waitingJobs s cls unit core).find? (begun s) = some j ∨
        ((∀ x ∈ waitingJobs s cls unit core, begun s x = false) ∧ (waitingJobs s cls unit core).head? = some j)) →
      mayStart j s = true → unspill j s = .ok (k, r) →
      runJob k (roomFor k r) = .ok (e, t) → ∃ u : State,
        exec (.jobStart cls unit core) s = .next u ∧ u.mem = t.mem ∧ u.th = t.th ∧ u.conts = t.conts ∧
        u.jobs = t.jobs.map (fun x => if x.id = j.id then { x with
          stage := .running
          status := e.status
          record := e.record
          parkedAt := none
          missAt := none
          timedOut := [] } else x)) ∧
    (∀ j k r va, waitingJobs s cls unit core = [j] → mayStart j s = true → unspill j s = .ok (k, r) →
      runJob k (roomFor k r) = .error (.park va) → ∃ u : State,
        exec (.jobStart cls unit core) s = .next u ∧ u.mem = (roomFor k r).mem ∧ u.th = (roomFor k r).th ∧
        u.jobs = (roomFor k r).jobs.map (fun x => if x.id = j.id then { x with
          parkedAt := if x.parkedAt.any (fun p => decide (p.1 = va / 4096)) = true then x.parkedAt
            else some (va / 4096, (roomFor k r).cycle.toNat)
          missAt := none
          timedOut := (x.parkOver (roomFor k r)).toList ++ x.timedOut } else x)) ∧
    (∀ j k r, waitingJobs s cls unit core = [j] → mayStart j s = true → unspill j s = .ok (k, r) →
      runJob k (roomFor k r) = .error .miss → ∃ u : State,
        exec (.jobStart cls unit core) s = .next u ∧ u.mem = (roomFor k r).mem ∧ u.th = (roomFor k r).th ∧
        u.jobs = (roomFor k r).jobs.map (fun x => if x.id = j.id then { x with
          missAt := some (x.missAt.getD (roomFor k r).cycle.toNat) } else x))

/-- R152, R153, R184, R185, R210, R213, R222: what a job posts as its sources are free, its writes visible and it
terminal, in that order. CIDX and PIDX advance by the slot counts where it ends DONE. A terminal job other than DONE
puts its record behind its result elements, and one that ends DONE adds 1 to its counter. -/
def Sys2Proof.Claims.JobMessages : Prop :=
  ∀ (s : State) (j : Job) (m : JobMember), Sole s j m → j.stage = .running →
    (j.freed = false → (j.tile.inCount = 0 ∨ ∀ l ∈ j.stream, l = []) → ∀ u, (((j.tile.inCount = 0 ∨ j.status % 256 ≠ 0) ∧ u = s) ∨
        (j.tile.inCount ≠ 0 ∧ j.status % 256 = 0 ∧ RingMoves j m j.tile.inRing j.tile.inCount.toNat 28 (·.cidx) s u)) →
      ∃ t : State, exec (.srcFree j.id) s = .next t ∧ t.mem = u.mem ∧ t.conts = s.conts ∧ JobIs t { j.walked with freed := true } ∧
        t.th = told s.th j.tile.srcFree (message j.id 1 0 0)) ∧
    (j.freed = true → j.visible = false → j.windows = [] → j.comm = none →
      ∀ u, (((j.tile.outCount = 0 ∨ j.status % 256 ≠ 0) ∧ u = s) ∨
        (j.tile.outCount ≠ 0 ∧ j.status % 256 = 0 ∧ RingMoves j m j.tile.outRing j.tile.outCount.toNat 24 (·.pidx) s u)) →
      ∃ t : State, exec (.visible j.id) s = .next t ∧ t.mem = u.mem ∧ t.conts = s.conts ∧ JobIs t { j.walked with visible := true } ∧
        t.th = told s.th j.tile.visible (message j.id 2 0 0)) ∧
    (j.visible = true → (∀ l ∈ j.stream, l = []) → j.tickets = [] → j.cls ≠ 3 → j.number = none →
      ∃ t : State, exec (.jobDone j.id) s = .next t ∧ t.mem = s.mem ∧ t.conts = s.conts ∧
        JobIs t { j.walked with
          stage := .ended
          members := [{ m with
            fifo := if j.status % 256 = 0 then m.fifo else m.fifo ++ j.record
            delivered := true }] } ∧
        t.th = told s.th j.tile.jobDone (message j.id 3 (j.status % 256)
          (if j.status % 256 = 1 ∨ j.status % 256 = 2 then j.status / 2 ^ 16 % 256 else 0)) ∧
        (∀ k, bitOf j.tile.flags.toNat 3 = true → bitOf j.tile.flags.toNat 4 = false → j.status % 256 = 0 →
          counterOf s j.ctx j.tile.cnt.toNat = some k → t.counter j.quire k = s.counter j.quire k + 1) ∧
        (bitOf j.tile.flags.toNat 3 = false ∨ j.status % 256 ≠ 0 → t.counters = s.counters))

/-- R212, R222, R227: with .row each window that becomes visible adds its positions to the counter; a job that names a
record with a drain pair takes ENTER as its ticket, and adds 1 to it, unless 65,536 are outstanding; an element of a
streaming copy enters the buffer of the register bound to the job, where fewer than 16 wait. -/
def Sys2Proof.Claims.WindowsTicketsAndElements : Prop :=
  ∀ (s : State) (j : Job) (m : JobMember), Sole s j m →
    (∀ n r, j.stage = .running → j.windows = n :: r → ∃ t : State, exec (.windowVisible j.id) s = .next t ∧
      t.mem = s.mem ∧ t.th = s.th ∧ JobIs t { j with windows := r } ∧
      (∀ k, bitOf j.tile.flags.toNat 4 = true → counterOf s j.ctx j.tile.cnt.toNat = some k →
        t.counter j.quire k = s.counter j.quire k + BitVec.ofNat 64 n) ∧
      (bitOf j.tile.flags.toNat 4 = false → t.counters = s.counters)) ∧
    (∀ tb pa pl s1 enter left, mayStart j s = true → (jobTables j s).find? (wantsTicket j) = some tb →
      drainPlace j tb s = .ok (some (pa, pl), s1) → Calm s1 → enter = s1.mem.readNat pa 8 → left = s1.mem.readNat pl 8 →
        ((enter + 2 ^ 64 - left) % 2 ^ 64 = 65536 → exec (.ticketGrant j.id) s = .next { s with chunks := [] }) ∧
        ((enter + 2 ^ 64 - left) % 2 ^ 64 ≠ 65536 → ∃ t : State, exec (.ticketGrant j.id) s = .next t ∧
          t.mem = (s1.store j.ctx pa (toBytesLE 8 (enter + 1))).mem ∧ t.th = s.th ∧
          JobIs t { j with tickets := j.tickets ++ [(tb.drain, some pa, enter)] })) ∧
    (∀ x l n b, j.stage = .running → j.stream = [x :: l] → copyBinding s.th j.id = some (n, b) → b.buf.length < 16 →
      ∃ t : State, exec (.copyStreamElement j.id 0) s = .next t ∧ t.mem = s.mem ∧ t.conts = s.conts ∧
        t.th = s.th.setStream n (some { b with buf := b.buf ++ [x] }) ∧
        JobIs t { j with
          stream := [l]
          entered := j.entered.mapIdx (fun i e => if i = 0 then e + 1 else e) })

/-- R124, R197: a reduction with a routine that ends in `op` of its inputs: from the left without ASSOC, and with it the
pairwise tree over the trees of adjacent groups of 16. -/
def Obligations.ReductionOrder : Prop :=
  ∀ (r : Routine) (op : Nat → Nat → Nat) (xs : List Nat), xs ≠ [] → (∀ a b, invoke r [a, b] = .ok (op a b)) →
    reduce r xs = .ok (if r.assoc then treeOf op ((groupsOf16 xs.length xs).map (treeOf op))
      else xs.tail.foldl op (xs.headD 0))

/-! ## Slots: stalls, traps, suspension, pick-up and pre-emption -/

/-- R12, R19, R46, R136, R161, R167, R291 to R293, R296, R347: a stalled instruction issues again once what it waits for
is there, after the rest of an interrupted replay, and what stood behind it, is back in the sequencer; SSEND, SRECV and
CBADV complete where they wait, SRECV with OUT_OF_SLOT reason 5 where its window missed an element; a suspension point
goes on in its slot only in an open phase; EXIT ends the thread once no reply is outstanding. Else nothing changes, nor
for a member of a gang, which goes on with it. -/
def Sys2Proof.Claims.StallsEnd : Prop :=
  ∀ (s : State), (s.th.ganged = true → exec .slotStallEnd s = .next s) ∧ (s.th.ganged = false →
    (∀ w, s.th.stall = some (.retry w) → (∀ r, w ≠ .pop r) →
      (Gone w s → s.th.replay = none → s.th.vecBehind = [] → exec .slotStallEnd s =
        .next (s.up (fun t => { t with stall := none, turn := turnAfter w t }))) ∧
      (Gone w s → ∀ p, s.th.replay = some p → 0 < p.left →
        (seqRoom (p.len + (s.th.vecBehind.map (·.held)).sum) s = .ok () → ∃ (t u : State) (e : SeqEntry),
          exec .slotStallEnd s = .next t ∧ Entered s u e ∧ e.replay = some p ∧ e.held = p.len ∧ t.mem = s.mem ∧
          t.seqs = u.seqs ++ s.th.vecBehind.map (fun (x : SeqEntry) => { x with quire := s.th.quire, core := s.th.core }) ∧
          t.th = { s.th with replay := none, vecBehind := [], stall := some (.retry .drain), turn := turnAfter w s.th }) ∧
        (seqRoom (p.len + (s.th.vecBehind.map (·.held)).sum) s ≠ .ok () → exec .slotStallEnd s =
          .next (s.up (fun t => { t with stall := some (.retry .sequencer), turn := turnAfter w t })))) ∧
      (¬Gone w s → exec .slotStallEnd s = .next s)) ∧
    (∀ r, s.th.stall = some (.retry (.pop r)) →
      (Gone (.pop r) s → s.th.replay = none → s.th.vecBehind = [] → ∃ t : State, exec .slotStallEnd s = .next t ∧ t.mem = s.mem ∧
        t.th.stall = none ∧ t.th.pc = s.th.pc ∧ t.th.g = s.th.g) ∧
      (¬Gone (.pop r) s → exec .slotStallEnd s = .next s)) ∧
    (∀ w, s.th.stall = some (.suspend w) →
      (s.th.phase ≠ none → waitHolds s s.th w = true → exec .slotStallEnd s = .next (s.up (fun t => { t with
        pc := t.pc + 4
        stall := none
        abandoned := none
        turn := none
        arrived := if waitKind w = 6 then false else t.arrived }))) ∧
      (s.th.phase = none ∨ waitHolds s s.th w = false → exec .slotStallEnd s = .next s)) ∧
    (∀ p n w k r t, s.th.stall = some (.cbadv p n w k) → readRing (ringAddr s.th.cbbase n.toNat) s = .ok (r, t) →
      (w ≤ (if p then r.free else r.fill) → exec .slotStallEnd s = .next (s.advance 4)) ∧
      ((if p then r.free else r.fill) < w → exec .slotStallEnd s = .next s)) ∧
    (∀ i p w, s.th.phase = some p → p.windows.getLast? = some w →
      (s.th.stall = some (.ssend i) → w.send = true →
        (p.start + w.offset ≤ s.cycle.toNat → exec .slotStallEnd s = .next (s.advance 4)) ∧
        (s.cycle.toNat < p.start + w.offset → exec .slotStallEnd s = .next s)) ∧
      (s.th.stall = some (.srecv i) → w.send = false →
        (s.cycle.toNat < p.start + w.offset + 32 + w.len ∨ w.waits s = true → exec .slotStallEnd s = .next s) ∧
        (p.start + w.offset + 32 + w.len ≤ s.cycle.toNat → w.waits s = false →
          ((∀ j < w.len, j ∈ w.got) → exec .slotStallEnd s = .next ((storeHeld w s).advance 4)) ∧
          ((∃ j < w.len, j ∉ w.got) → exec .slotStallEnd s =
            .next (takeTrap .outOfSlot false (slotWord 5 p.domain w.index) s.th.pc false (storeHeld w s)))))) ∧
    (s.th.stall = some .exit →
      (s.th.replies ≠ 0 → exec .slotStallEnd s = .next s) ∧
      (s.th.replies = 0 → ∃ t : State, exec .slotStallEnd s = .next t ∧ t.th.code = .exited)))

/-- R29, R30, R254, R311, R320, R378: at an instruction boundary a pending trap is taken: first the oldest one that does
not wait for the instruction at PC to complete, with which a thread whose save area faulted becomes faulted, then the
oldest remote fault, which waits for the end of a suspension point. A thread that waits in the rendezvous of GANG leaves
it. With neither nothing changes, nor for a member of a gang. -/
def Sys2Proof.Claims.PendingTrapsTaken : Prop :=
  ∀ (s : State), (s.th.ganged = true → exec .trapEntry s = .next s) ∧
    (s.th.ganged = false → (∀ x, s.th.stall = some x → (∃ w, x = .retry w) ∨ (∃ w, x = .suspend w)) →
      let due := s.th.pendTraps.find? (fun p => p.after.all (fun x => s.th.pc != x.1))
      let r := withdrawWait s.th.launch s.th.tid s
      (∀ p, due = some p → p.dead = false → exec .trapEntry s =
        .next (takeTrap p.cause p.job p.tval s.th.pc false (r.up (fun t => { t with pendTraps := t.pendTraps.erase p })))) ∧
      (∀ p, due = some p → p.dead = true → exec .trapEntry s =
        .next (becomeFaulted s.th.pc (r.up (trapRegs s.cycle.toNat p.cause false p.tval s.th.pc)))) ∧
      (∀ v l, due = none → s.th.rfq = v :: l →
        ((∀ w, s.th.stall ≠ some (.suspend w)) → exec .trapEntry s =
          .next (takeTrap .remoteFault false v s.th.pc false (r.up (fun t => { t with rfq := l })))) ∧
        ((∃ w, s.th.stall = some (.suspend w)) → exec .trapEntry s = .next s)) ∧
      (due = none → s.th.rfq = [] → exec .trapEntry s = .next s))

/-- R12, R13, R14, R28: a thread alone at a suspension point is written back once its sequencer is empty, and is saved as
suspended at the point with its wait descriptor; with a phase open it keeps its slot. A saved thread whose condition
holds becomes ready past the point, a gang's only with every member; one with a trap pending is ready at it. -/
def Sys2Proof.Claims.SuspendedAndWoken : Prop :=
  ∀ (s : State),
    (∀ w u m, s.th.ganged = false → Distinct s → s.th.code = .running → s.th.stall = some (.suspend w) →
      s.th.pendTraps = [] → s.isSaved s.th.launch s.th.tid = false →
      (s.th.phase ≠ none ∨ s.entries ≠ [] → exec .writeBack s = .next s) ∧
      (s.th.phase = none → s.entries = [] →
        u = { s.th with code := .suspended, wait := w, liveSet := none } → Saves u s m →
        ((waitKind w = 0 ∧ s.th.mbox = []) ∨ (waitKind w = 5 ∧ s.th.replies ≠ 0)) → ∃ t v, exec .writeBack s = .next t ∧
          LeftAs s m t v ∧ v.code = .suspended ∧ v.wait = w ∧ v.pc = s.th.pc)) ∧
    (∀ launch tid t, s.conts.find? (·.is launch tid) = some t → t.code = .suspended →
      (t.pendTraps = [] → waitHolds s t t.wait = false → exec (.wakeUp launch tid) s = .next s) ∧
      (∀ g, t.pendTraps = [] → s.gangOf launch tid = some g → waitKind t.wait ≠ 7 →
        (∃ m ∈ g.members, ∀ x, s.conts.find? (·.is launch m) = some x → x.code ≠ .suspended ∨ waitHolds s x x.wait = false) →
          exec (.wakeUp launch tid) s = .next s) ∧
      (t.pendTraps = [] → (s.gangOf launch tid = none ∨ waitKind t.wait = 7) → waitHolds s t t.wait = true →
        ∃ (u : State) (x : Thread), exec (.wakeUp launch tid) s = .next u ∧ u.conts.find? (·.is launch tid) = some x ∧
          { x with pendTraps := [] } = { t with
            pc := t.pc + 4
            stall := none
            abandoned := none
            turn := none
            arrived := if waitKind t.wait = 6 then false else t.arrived
            code := .ready
            wait := if waitKind t.wait = 7 then t.wait else 0
            readyAt := s.cycle.toNat }) ∧
      ((∃ p ∈ t.pendTraps, p.after = none) → (∀ p ∈ t.pendTraps, p.dead = false) → s.gangOf launch tid = none →
        ∃ (u : State) (x : Thread), exec (.wakeUp launch tid) s = .next u ∧ u.conts.find? (·.is launch tid) = some x ∧
          { x with pendTraps := t.pendTraps } = { t with
            code := .ready
            wait := if waitKind t.wait = 7 then t.wait else 0
            readyAt := s.cycle.toNat }))

/-- R10, R11, R12, R138, R300, R307, R323: a free slot picks up the first of the ready continuations that fit it, in
R307's order, but for one whose record or frame parks: the thread runs there with the registers of its frame, with the
tier and priority that its queue has given it since, before its launch started, and is no longer saved. A slot that is
taken, and one that no continuation fits, changes nothing. -/
def Sys2Proof.Claims.SlotsPickUp : Prop :=
  ∀ (q c k : Nat) (s : State),
    (slotFree s q c k = false ∨ (∀ t ∈ s.conts, fits s q c k t = false) → exec (.pickup q c k) s = .next s) ∧
    (∀ t w u r, slotFree s q c k = true → s.conts.find? (·.is t.launch t.tid) = some t → fits s q c k t = true →
      t.ganged = false → (∀ x ∈ s.conts, fits s q c k x = true → x = t ∨ Before s q t x) → poolPark s t = none →
      loadThread t s = some w →
      ((t.requeued = true ∧ u = { w with tier := t.tier, queuePrio := t.queuePrio, prio := t.prio }) ∨
        (t.requeued = false ∧ u = w)) →
      u.code = .ready → restoreSlice u s = .ok r → u.replay = none → u.vecBehind = [] →
        ∃ (v : State) (n : BitVec 12), exec (.pickup q c k) s = .next v ∧
          v.th = { u with
            code := .running
            core := c
            slot := k
            serial := n
            wait := 0
            preempt := none
            ckptAt := r.cycle.toNat
            parkedAt := none
            requeued := false } ∧
          SameSaved v.conts (r.conts.filter (fun x => !x.is t.launch t.tid)) ∧ v.others = r.slots)

/-- R167, R297, R307, R322: a slot is asked to give way to a ready continuation that is crowded out; a thread that has not
reached a checkpoint 500 µs after the request is saved at its instruction, with the passes left of a replay between two of
them and what stands behind it (R167), counted in CTXSTAT, unless a phase or an arrival holds it; charges return to zero
every 250 µs. -/
def Obligations.PreemptionAndRounds : Prop :=
  ∀ (s : State), s.th.code = .running →
    (s.find s.th.launch s.th.tid = some s.th → s.isSaved s.th.launch s.th.tid = false →
      ((∃ t ∈ s.conts, Crowds s t s.th) → ∃ u : State, exec (.preemptionRequest s.th.launch s.th.tid) s = .next u ∧
        u.mem = s.mem ∧ u.conts = s.conts ∧
        u.th = { s.th with preempt := some (s.th.preempt.getD s.cycle.toNat) }) ∧
      ((∀ t ∈ s.conts, ¬Crowds s t s.th) → exec (.preemptionRequest s.th.launch s.th.tid) s = .next s)) ∧
    ((∀ t ∈ s.slots, ∀ p, t.preempt = some p → s.cycle.toNat < p + 600000 ∨ t.phase ≠ none ∨
        ∃ n c, t.stall = some (.whistle n c)) → exec .forcedSave s = .next s) ∧
    (∀ p r u m, s.th.preempt = some p → p + 600000 ≤ s.cycle.toNat → s.th.phase = none → s.th.ganged = false →
      Distinct s → s.th.pendTraps = [] → s.th.rfq = [] →
      (∀ x, s.th.stall = some x → ∃ w, x = .retry w) →
      ((s.entries = [] ∧ r = s) ∨ (∃ e x b, s.entries = e :: b ∧ (∀ y ∈ e :: b, y.lane = none) ∧ e.replay = some x ∧
          x.word = 0 ∧ r = { s with
        th := { s.th with replay := if 0 < x.left then some x else none, vecBehind := b }
        seqs := s.seqs.filter (fun y => !(y.launch == s.th.launch && y.tid == s.th.tid)) })) →
      u = { r.th with code := .ready, wait := 0, liveSet := none } → Saves u r m →
        ∃ t v, exec .forcedSave s = .next t ∧ LeftAs s m t v ∧ v.pc = s.th.pc ∧ v.code = .ready ∧
          (t.ctx s.th.ctx).stat.toNat % 2 ^ 16 = min ((s.ctx s.th.ctx).stat.toNat % 2 ^ 16 + 1) 65535 ∧
          (t.ctx s.th.ctx).stat.toNat / 2 ^ 24 = 0x0F) ∧
    (s.cycle.toNat < s.roundAt + 300000 → exec .accountingRound s = .next s) ∧
    (s.roundAt + 300000 ≤ s.cycle.toNat → ∃ r, r ≤ s.cycle.toNat ∧ s.cycle.toNat < r + 300000 ∧
      (r - s.roundAt) % 300000 = 0 ∧ s.roundAt ≤ r ∧ exec .accountingRound s = .next { s with
        charges := Vector.replicate 8 0
        quireCharges := []
        roundAt := r })

/-! ## Registers of the package -/

/-- R98, R100, R101, R102, R299, R300, R328, R329, R330: what a function's writes to a queue's doorbell, QCTL and QSCHED
do, once the islands that they reach are on (R334). An OVERFLOW gives up what the command processor held of the queue's head.
QSCHED gives its tier and priority to the queue's launches that have not started, too (R300, R306). A function that does not
own the queue, and a write that sets a reserved bit, changes nothing. -/
def Sys2Proof.Claims.QueueRegistersWritten : Prop :=
  ∀ (fn q : Nat) (v : Word) (r s : State) (x : Queue), q < 1024 → s = r.reached → x = s.queue q →
    (fn ≠ 0 → x.qown.toNat % 32 ≠ fn → exec (.doorbell fn q v) r = .next s ∧ exec (.qctlEnable fn q v) r = .next s ∧
      exec (.qschedWrite fn q v) r = .next s) ∧
    (fn = 0 ∨ x.qown.toNat % 32 = fn →
      (∀ y, y = { x with
          qprod := BitVec.ofNat 64 (v.toNat % 2 ^ 32)
          bellAt := s.cycle.toNat } →
        (stateOf x ≠ 1 ∨ fillOf y ≤ 2 ^ (x.qlog2.toNat % 64) / 128 → ∃ t, exec (.doorbell fn q v) r = .next t ∧ QueueIs s t q y) ∧
        (stateOf x = 1 → 2 ^ (x.qlog2.toNat % 64) / 128 < fillOf y → ∃ t : State, exec (.doorbell fn q v) r = .next t ∧
          QueueIs s { t with msix := s.msix, taken := s.taken } q { y with
            qstat := qstatOf 2 4 (latchOf x)
            parkedAt := none } ∧ t.taken = notTaken s q ∧
          t.msix = if x.qctl.getLsbD 1 then s.msix ++ [(x.qown.toNat % 32, q % 64)] else s.msix)) ∧
      (v.toNat / 4 ≠ 0 ∨ (v.toNat % 2 = 1 ∧ s.boot.recovery = true) → exec (.qctlEnable fn q v) r = .next s) ∧
      (v.toNat / 4 = 0 → v.toNat % 2 = 0 → ∃ t : State, exec (.qctlEnable fn q v) r = .next t ∧
        QueueIs s { t with taken := s.taken } q { x with
          qctl := v
          qstat := qstatOf 0 (x.qstat.toNat / 2 ^ 8 % 256) (latchOf x)
          parkedAt := none } ∧ t.taken = notTaken s q) ∧
      (v.toNat / 4 = 0 → v.toNat % 2 = 1 → s.boot.recovery = false →
        (x.qbase.toNat % 4096 = 0 → 12 ≤ x.qlog2.toNat → x.qlog2.toNat ≤ 30 → ∃ t, exec (.qctlEnable fn q v) r = .next t ∧
          QueueIs s t q { x with
            qctl := v
            qstat := qstatOf 1 0 (latchOf x) }) ∧
        (x.qbase.toNat % 4096 ≠ 0 ∨ x.qlog2.toNat < 12 ∨ 30 < x.qlog2.toNat → ∃ t, exec (.qctlEnable fn q v) r = .next t ∧
          QueueIs s t q { x with
            qctl := v &&& 2
            qstat := qstatOf 0 1 (latchOf x) })) ∧
      (∀ c : Ctx, c = v.setWidth 6 →
        (v &&& ~~~0x7F073F ≠ 0 ∨ (x.qctl.getLsbD 0 = true ∧ c ≠ x.qsched.setWidth 6) ∨
          (fn ≠ 0 ∧ ((s.ctx c).own.toNat % 32 ≠ fn ∨ (s.ctx c).own.getLsbD 5 = false)) →
            exec (.qschedWrite fn q v) r = .next s) ∧
        (v &&& ~~~0x7F073F = 0 → (x.qctl.getLsbD 0 = true → c = x.qsched.setWidth 6) →
          (fn = 0 ∨ ((s.ctx c).own.toNat % 32 = fn ∧ (s.ctx c).own.getLsbD 5 = true)) →
            ∃ t : State, exec (.qschedWrite fn q v) r = .next t ∧
              QueueIs s { t with launches := s.launches, conts := s.conts } q { x with qsched := v } ∧
              t.launches = s.launches.map (fun l => if l.queue = q ∧ l.started = false then
                { l with tier := v.toNat / 2 ^ 8 % 8, queuePrio := v.toNat / 2 ^ 16 % 2 ^ 7 } else l) ∧
              t.conts = s.conts.map (fun u => if ∃ l ∈ s.launches, l.num = u.launch ∧ l.queue = q ∧ l.started = false then
                { u with
                  tier := v.toNat / 2 ^ 8 % 8
                  queuePrio := v.toNat / 2 ^ 16 % 2 ^ 7
                  prio := v.toNat / 2 ^ 16 % 2 ^ 7
                  requeued := true } else u))))

/-- R298, R301, R326, R328, R334, R336: the weights, the islands' clocks and states, and the RAS counters. The registers
outside the queue block are the PF's alone; a write reaches their islands. -/
def Obligations.WeightsPowerAndCounters : Prop :=
  ∀ (fn i k pa : Nat) (v : Word) (step : BitVec 4) (s : State), i < 256 → k < 12 →
    (fn ≠ 0 → ∀ x ∈ [Instr.tierwWrite fn v, .pwrctlStateWrite fn i v, .pwrctlFstepWrite fn i v, .rasCounterClear fn k,
      .collcanWrite fn v, .attestationGo fn v], exec x s = .next s) ∧
    (((∀ n < 8, weightOf v n = 0) ∨ ∃ n < 8, weightOf v n ≠ 0 ∧
        64 * weightOf v n < ((List.range 8).map (weightOf v)).sum) → exec (.tierwWrite 0 v) s = .next s.reached) ∧
    ((∃ n < 8, weightOf v n ≠ 0) → (∀ n < 8, weightOf v n = 0 ∨ ((List.range 8).map (weightOf v)).sum ≤ 64 * weightOf v n) →
      exec (.tierwWrite 0 v) s = .next { s.reached with tierw := v }) ∧
    (∀ x ∈ [Instr.pwrctlStateWrite 0 i v, .pwrctlFstepWrite 0 i v], ∀ r, r = s.reached →
      (PowerRefused i v r → ∃ t, exec x s = .next t ∧ PowerIs r t i ((r.pwrctl i).toNat % 2 ^ 12 + 2 ^ 12)) ∧
      (¬PowerRefused i v r → ∃ t : State, exec x s = .next t ∧
        PowerIs r { t with changing := s.changing } i (v.toNat % 2 ^ 6 + (r.pwrctl i).toNat / 2 ^ 8 % 16 * 2 ^ 8) ∧
        ∀ k, k ∈ t.changing ↔ if k = i then (i % 64 < 48 ∨ 58 ≤ i % 64) ∧
          v.toNat / 4 % 16 ≠ (r.pwrctl i).toNat / 2 ^ 8 % 16 else k ∈ s.changing)) ∧
    (∃ t : State, exec (.rasCounterClear 0 k) s = .next t ∧ t.rasOf k = (if k = 10 then s.rasOf k &&& 1 else 0) ∧
      (∀ n, n ≠ k → t.rasOf n = s.rasOf n) ∧ { t with ras := s.ras } = s.reached) ∧
    (let cur := (s.pwrctl i).toNat / 2 ^ 8 % 16
     let set := fun n => (s.pwrctl i).toNat % 2 ^ 8 + n * 2 ^ 8 + (s.pwrctl i).toNat / 2 ^ 12 * 2 ^ 12
     let moves := (i % 64 < 48 ∨ 58 ≤ i % 64) ∧ islandHeld s i = false
     (moves → ∃ t : State, exec (.dvfsChange i) s = .next t ∧
       PowerIs s { t with changing := s.changing } i (set ((s.pwrctl i).toNat / 2 ^ 2 % 16)) ∧
       ∀ k, k ∈ t.changing ↔ k ∈ s.changing ∧ k ≠ i) ∧
     (¬moves → exec (.dvfsChange i) s = .next s ∧ exec (.throttle i step) s = .next s) ∧
     (moves → 0 < step.toNat → step.toNat < cur → ∃ t : State, exec (.throttle i step) s = .next t ∧
       PowerIs s { t with ras := s.ras } i (set step.toNat) ∧
       (t.rasOf 11).toNat = min ((s.rasOf 11).toNat + 1) (2 ^ 64 - 1) ∧ ∀ n, n ≠ 11 → t.rasOf n = s.rasOf n) ∧
     (step.toNat = 0 ∨ cur ≤ step.toNat → exec (.throttle i step) s = .next s)) ∧
    (let n := (s.ecc.filter (inScrubLine pa)).length
     (n = 0 ∨ (inSlices pa = false ∧ inHbm pa = false) → exec (.scrub pa) s = .next s) ∧
     (n ≠ 0 → (inSlices pa = true ∨ inHbm pa = true) → ∃ t : State, exec (.scrub pa) s = .next t ∧ t.mem = s.mem ∧ t.th = s.th ∧
       t.ecc = s.ecc.filter (fun e => !inScrubLine pa e) ∧
       (∀ m, m = (if inSlices pa then 0 else 2) → (t.rasOf m).toNat = min ((s.rasOf m).toNat + n) (2 ^ 64 - 1) ∧
         ∀ o, o ≠ m → t.rasOf o = s.rasOf o)))

/-- R274, R330, R331, R332, R333: the boot ROM runs the accepted slot of the higher VERSION, the other one where that
fails, and stays in recovery where both fail; an attestation report is written 64 bytes after the nonce; COLLCAN
forwards its pair. -/
def Obligations.BootAndAttestation : Prop :=
  ∀ (v : Word) (s : State) (fa fb : Nat), fa = fwFailure s.boot.flashA → fb = fwFailure s.boot.flashB →
    (∀ img, fwFailure img = 0 ↔ Accepted img) ∧
    (s.boot.recovery = false → exec .boot s = .next s) ∧
    (s.boot.recovery = true → ∃ b, exec .boot s = .next { s with boot := b } ∧
      (fwVersion s.boot.flashB ≤ fwVersion s.boot.flashA → fa = 0 → BootedFrom s.boot b 1 0 0 s.boot.flashA) ∧
      (fwVersion s.boot.flashB ≤ fwVersion s.boot.flashA → fa ≠ 0 → fb = 0 → BootedFrom s.boot b 2 fa 0 s.boot.flashB) ∧
      (fwVersion s.boot.flashA < fwVersion s.boot.flashB → fb = 0 → BootedFrom s.boot b 2 0 0 s.boot.flashB) ∧
      (fwVersion s.boot.flashA < fwVersion s.boot.flashB → fb ≠ 0 → fa = 0 → BootedFrom s.boot b 1 0 fb s.boot.flashA) ∧
      (fa ≠ 0 → fb ≠ 0 → b = { s.boot with bootst := BitVec.ofNat 64 (fa * 2 ^ 2 + fb * 2 ^ 6) })) ∧
    (v.toNat / 8 ≠ 0 ∨ v.toNat % 2 = 0 ∨ s.boot.attst.toNat / 2 % 4 = 1 → exec (.attestationGo 0 v) s = .next s.reached) ∧
    (v.toNat / 8 = 0 → v.toNat % 2 = 1 → s.boot.attst.toNat / 2 % 4 ≠ 1 →
      exec (.attestationGo 0 v) s = .next { s.reached with boot := { s.boot with attst := 2 } }) ∧
    (s.boot.attst.toNat / 2 % 4 ≠ 1 → exec .attestationReport s = .next s) ∧
    (s.boot.attst.toNat / 2 % 4 = 1 → ∀ a body, a = s.boot.attaddr.toNat →
      (2 ^ 47 < a + 2612 → exec .attestationReport s = .next { s with boot := { s.boot with attst := 6 } }) ∧
      (a + 2612 ≤ 2 ^ 47 → eccAt s (0x800000000000 + a) 32 = true ∨ eccPartial s (0x800000000000 + a + 64) 2548 = true →
        exec .attestationReport s = .next { s with boot := { s.boot with attst := 6 } }) ∧
      (a + 2612 ≤ 2 ^ 47 → eccAt s (0x800000000000 + a) 32 = false → eccPartial s (0x800000000000 + a + 64) 2548 = false →
        body = s.mem.readBytes (0x800000000000 + a) 32 ++ (s.boot.digest ++ List.replicate 32 0).take 32 ++
          toBytesLE 8 (s.boot.bootst.toNat / 2 ^ 10 % 2 ^ 32) ++ toBytesLE 8 s.boot.defsig.toNat ++
          sha3_256 (chainBytes s.boot.features) ++ List.replicate 16 0 →
        ∃ t : State, exec .attestationReport s = .next t ∧ t.boot = { s.boot with attst := 4 } ∧ t.th = s.th ∧
          t.mem = (s.store 0 (0x800000000000 + a + 64) (body ++ (Config.signature body).toList)).mem)) ∧
    exec (.collcanWrite 0 v) s = .next { s.reached with
      collcan := v
      collcanst := 3 }

/-- R141: a mark and an unmark of resident granules, and a quota, act only with STATUS 0; a value with a reserved field
changes nothing. -/
def Sys2Proof.Claims.ResidencyMapped : Prop :=
  ∀ (v : Word) (s : State), (resmapBad v.toNat = true ∨ v.toNat % 4 ≠ 1 → exec (.resmapMark v) s = .next s) ∧
    (resmapBad v.toNat = true ∨ v.toNat % 4 ≠ 2 → exec (.resmapUnmark v) s = .next s) ∧
    (resmapBad v.toNat = true ∨ v.toNat % 4 ≠ 3 → exec (.resmapSetQuota v) s = .next s) ∧
    (resmapBad v.toNat = false →
      (v.toNat % 4 = 1 → ∀ added, added = newGranules s (mapCtx v) (mapQuire v) (mapFirst v) (mapCount v) →
        let exceeds := quotaOf s (mapCtx v).toNat (mapQuire v) < residentCount s (mapCtx v) (mapQuire v) + added.length
        (320 < mapFirst v + mapCount v → Maps (.resmapMark v) v s 2 s.residents s.quotas) ∧
        (mapFirst v + mapCount v ≤ 320 → mapTaken v s → ¬exceeds → Maps (.resmapMark v) v s 3 s.residents s.quotas) ∧
        (mapFirst v + mapCount v ≤ 320 → ¬mapTaken v s → exceeds → Maps (.resmapMark v) v s 1 s.residents s.quotas) ∧
        (mapFirst v + mapCount v ≤ 320 → mapTaken v s → exceeds → ∃ st, (st = 1 ∨ st = 3) ∧
          Maps (.resmapMark v) v s st s.residents s.quotas) ∧
        (mapFirst v + mapCount v ≤ 320 → ¬mapTaken v s → ¬exceeds →
          Maps (.resmapMark v) v s 0 (s.residents ++ added.map (fun g => ⟨mapCtx v, mapQuire v, g⟩)) s.quotas) ∧
        ∀ g, g ∈ added ↔ mapFirst v ≤ g ∧ g < mapFirst v + mapCount v ∧ (⟨mapCtx v, mapQuire v, g⟩ : Resident) ∉ s.residents) ∧
      (v.toNat % 4 = 2 →
        (320 < mapFirst v + mapCount v → Maps (.resmapUnmark v) v s 2 s.residents s.quotas) ∧
        (mapFirst v + mapCount v ≤ 320 → mapTaken v s → Maps (.resmapUnmark v) v s 3 s.residents s.quotas) ∧
        (mapFirst v + mapCount v ≤ 320 → ¬mapTaken v s → ∃ l, Maps (.resmapUnmark v) v s 0 l s.quotas ∧ ∀ r, r ∈ l ↔
          r ∈ s.residents ∧ ¬(r.ctx = mapCtx v ∧ r.quire = mapQuire v ∧ mapFirst v ≤ r.granule ∧
            r.granule < mapFirst v + mapCount v))) ∧
      (v.toNat % 4 = 3 →
        let held := ((s.quotas.filter (fun x => x.2.1 == mapQuire v && x.1 != (mapCtx v).toNat)).map (fun x => x.2.2)).sum
        let fails := 320 < held + mapCount v ∨ mapCount v < residentCount s (mapCtx v) (mapQuire v)
        (fails → Maps (.resmapSetQuota v) v s 1 s.residents s.quotas) ∧
        (¬fails → ∃ (t : State) (l : List (Nat × Nat × Nat)), exec (.resmapSetQuota v) s = .next t ∧
          Maps (.resmapSetQuota v) v s 0 s.residents l ∧ t.quotas = l ∧ quotaOf t (mapCtx v).toNat (mapQuire v) = mapCount v ∧
          ∀ c q, (c ≠ (mapCtx v).toNat ∨ q ≠ mapQuire v) → quotaOf t c q = quotaOf s c q)))

/-- R54, R56, R57, R285: the other privileged writes as steps: CNTWIN clears the counters of its window, ASIDCTL selects
a context and enables it, BDTAB loads the domains and withdraws arrivals once no phase is open, PRIO stays at or below
the queue's. A value that sets a reserved bit changes nothing. -/
def Sys2Proof.Claims.SystemRegistersWritten : Prop :=
  ∀ (v : Word) (s : State),
    (writeCntwin v s = none → exec (.cntwinWrite v) s = .next s) ∧
    (v.toNat / 2 ^ 17 = 0 → v.toNat % 2 ^ 8 + v.toNat / 2 ^ 8 ≤ 256 → ctxBusy s s.asidSel = false →
      (∀ c : Ctx, c ≠ s.asidSel → ∀ k, v.toNat % 2 ^ 8 ≤ k → k < v.toNat % 2 ^ 8 + v.toNat / 2 ^ 8 →
        ¬(windowBase s c ≤ k ∧ k < windowBase s c + windowCount s c)) →
        ∃ t : State, exec (.cntwinWrite v) s = .next t ∧ (t.ctx s.asidSel).cntwin = v ∧ t.mem = s.mem ∧ t.th = s.th ∧
          (∀ c : Ctx, c ≠ s.asidSel → t.ctx c = s.ctx c) ∧
          ∀ q k, k < 256 → t.counter q k =
            if v.toNat % 2 ^ 8 ≤ k ∧ k < v.toNat % 2 ^ 8 + v.toNat / 2 ^ 8 then 0 else s.counter q k) ∧
    (v.toNat / 2 ^ 8 ≠ 0 → exec (.asidctlWrite v) s = .next s) ∧
    (v.toNat / 2 ^ 8 = 0 → ∃ t : State, exec (.asidctlWrite v) s = .next t ∧ t.asidSel = v.setWidth 6 ∧ t.th = s.th ∧
      t.mem = s.mem ∧ (∀ c : Ctx, c ≠ v.setWidth 6 → t.ctx c = s.ctx c) ∧
      t.ctx (v.setWidth 6) = if v.getLsbD 7 then s.ctx (v.setWidth 6) else { s.ctx (v.setWidth 6) with enable := v.getLsbD 6 }) ∧
    (phaseOpen s = true ∨ v &&& ~~~0x0000FFFFFFFFF000 ≠ 0 → exec (.bdtabWrite v) s = .next s) ∧
    (phaseOpen s = false → v &&& ~~~0x0000FFFFFFFFF000 = 0 → ∃ t : State, exec (.bdtabWrite v) s = .next t ∧ t.bdtab = v ∧
      t.mem = s.mem ∧ t.conts = s.conts ∧
      (∀ n (h : n < 64), t.domains[n].valid = (s.mem.readNat (v.toNat + 512 * n) 8).testBit 0 ∧
        t.domains[n].ctx = BitVec.ofNat 6 (s.mem.readNat (v.toNat + 512 * n) 8 / 2) ∧
        t.domains[n].plen = s.mem.readNat (v.toNat + 512 * n) 8 / 2 ^ 16 % 2 ^ 16) ∧
      (s.th.code = .running → (∀ d since, s.th.stall ≠ some (.whistle d since)) → t.th = s.th) ∧
      (∀ d since, s.th.code = .running → s.th.stall = some (.whistle d since) → t.th = { s.th with
        stall := none
        preempt := heldSince since s
        pendTraps := s.th.pendTraps ++ [⟨.outOfSlot, false, slotWord 9 d 0, none, false⟩] })) ∧
    (128 ≤ v.toNat → exec (.prioWrite v) s = .next s) ∧
    (v.toNat < 128 → exec (.prioWrite v) s = .next (s.up (fun t => { t with prio := min v.toNat t.queuePrio })))

/-- R98, R299, R328, R332, R334: a write of a register of the MMIO region by a function: the queue registers that the
function owns, and for the PF the owner of a queue or a context, and ATTADDR. Elsewhere, and with a reserved bit, it changes
nothing; but islands 56 to 63 of every die that are in retention are on, where a register is reached. -/
def Sys2Proof.Claims.RegistersReached : Prop :=
  ∀ (fn q pa : Nat) (v : Word) (r s : State), q < 1024 → s = r.reached →
    { s with pwr := r.pwr } = r ∧
    (∀ i < 256, s.pwrctl i = if 56 ≤ i % 64 ∧ (r.pwrctl i).toNat % 4 = 1 then r.pwrctl i - 1 else r.pwrctl i) ∧
    (pa % 8 ≠ 0 ∨ inMmio pa = false → exec (.registerWrite fn pa v) r = .next r) ∧
    (fn ≠ 0 → 0x020000010000 ≤ pa → pa % 8 = 0 → inMmio pa = true → exec (.registerWrite fn pa v) r = .next s) ∧
    (fn = 0 ∨ (s.queue q).qown.toNat % 32 = fn → ∀ base, base = 0x020000000000 + 64 * q →
      (∃ t, exec (.registerWrite fn base v) r = .next t ∧ QueueIs s t q { s.queue q with qbase := v }) ∧
      (∃ t, exec (.registerWrite fn (base + 8) v) r = .next t ∧ QueueIs s t q { s.queue q with qlog2 := v }) ∧
      (∃ t : State, exec (.registerWrite fn (base + 24) v) r = .next t ∧
        QueueIs s { t with taken := s.taken } q { s.queue q with
          qcons := BitVec.ofNat 64 (v.toNat % 2 ^ 32)
          parkedAt := none } ∧ t.taken = notTaken s q) ∧
      exec (.registerWrite fn (base + 16) v) r = exec (.doorbell fn q v) r ∧
      exec (.registerWrite fn (base + 32) v) r = exec (.qctlEnable fn q v) r ∧
      exec (.registerWrite fn (base + 40) v) r = .next s ∧
      exec (.registerWrite fn (base + 48) v) r = exec (.qschedWrite fn q v) r ∧
      (fn ≠ 0 ∨ 16 < v.toNat → exec (.registerWrite fn (base + 56) v) r = .next s) ∧
      (fn = 0 → v.toNat ≤ 16 → ∃ t, exec (.registerWrite 0 (base + 56) v) r = .next t ∧
        QueueIs s t q { s.queue q with qown := v })) ∧
    (∀ c : Ctx, ∀ a, a = 0x020000020000 + 8 * c.toNat →
      (v.toNat / 2 ^ 6 ≠ 0 ∨ 16 < v.toNat % 32 → exec (.registerWrite 0 a v) r = .next s) ∧
      (v.toNat / 2 ^ 6 = 0 → v.toNat % 32 ≤ 16 → ∃ t : State, exec (.registerWrite 0 a v) r = .next t ∧
        t.ctx c = { s.ctx c with own := v } ∧ (∀ e, e ≠ c → t.ctx e = s.ctx e) ∧ t.mem = s.mem ∧ t.th = s.th)) ∧
    (v &&& ~~~0xFFFFFFFFFFC0 = 0 → exec (.registerWrite 0 0x020000050010 v) r =
      .next { s with boot := { s.boot with attaddr := v } }) ∧
    (v &&& ~~~0xFFFFFFFFFFC0 ≠ 0 → exec (.registerWrite 0 0x020000050010 v) r = .next s)

/-! ## Launch queues -/

/-- R99 to R102, R138, R302, R327, R334: what the packet at a queue's head does: a packet that is not whole waits, one
that breaks R99 halts its queue, and the three plain types hold it, store VALUE, or pass. One whose address has met MIG =
1 for 10 ms halts the queue. The command processor reaches the ring and what the packet names as an access does (R327,
R334). -/
def Obligations.PacketsAct : Prop :=
  ∀ (q w : Nat) (s : State) (x : Queue), q < 1024 → x = s.queue q → w = packetSlot s x 0 →
    (∀ i ∈ [Instr.launchPacket q, .counterWait q, .valueWrite q, .noOp q],
      (¬Present s x → exec i s = .next s) ∧
      (Present s x → ¬GoodHeader w → HaltsQueue i s q 2) ∧
      (Present s x → GoodHeader w → (typeOf w = 0 ∨ 4 < typeOf w) → HaltsQueue i s q 3)) ∧
    (Present s x → GoodHeader w →
      (∀ k i, (i, k) ∈ [(Instr.launchPacket q, 1), (.counterWait q, 2), (.valueWrite q, 3), (.noOp q, 4)] →
        1 ≤ typeOf w → typeOf w ≤ 4 → typeOf w ≠ k → exec i s = .next s) ∧
      (∀ k i, (i, k) ∈ [(Instr.counterWait q, 2), (.valueWrite q, 3), (.noOp q, 4)] → typeOf w = k →
        (w / 2 ^ 40 % 2 ^ 24 ≠ 0 ∨ w / 2 ^ 192 ≠ 0 ∨ w / 2 ^ 24 % 4 ≠ 0 ∨ (k ≠ 4 ∧ w / 2 ^ 64 % 8 ≠ 0)) → HaltsQueue i s q 2) ∧
      (w / 2 ^ 40 % 2 ^ 24 = 0 → w / 2 ^ 192 = 0 → w / 2 ^ 24 % 4 = 0 →
        (typeOf w = 4 → Passes (.noOp q) s q w) ∧
        (typeOf w = 2 → w / 2 ^ 64 % 8 = 0 → ∀ va, va = w / 2 ^ 64 % 2 ^ 64 →
          (∀ v, walk s (x.qsched.setWidth 6) va .load = .fault v → HaltsQueue (.counterWait q) s q 5) ∧
          (∀ pa p z a b, walk s (x.qsched.setWidth 6) va .load = .ok pa p z a b → inMmio pa = false → Calm s →
            (eccAt s pa 8 = true → HaltsQueue (.counterWait q) s q 5) ∧
            (eccAt s pa 8 = false → w / 2 ^ 128 ≤ s.mem.readNat pa 8 → Passes (.counterWait q) s q w) ∧
            (eccAt s pa 8 = false → s.mem.readNat pa 8 < w / 2 ^ 128 →
              ∃ t, exec (.counterWait q) s = .next t ∧ PacketIs s t q { x with parkedAt := none })) ∧
          (∀ since, walk s (x.qsched.setWidth 6) va .load = .park → ParksSince s q va since →
            (since + 12000000 ≤ s.cycle.toNat → HaltsQueue (.counterWait q) s q 5) ∧
            (s.cycle.toNat < since + 12000000 → ∃ t, exec (.counterWait q) s = .next t ∧
              PacketIs s t q { x with parkedAt := some (va / 4096, since) }))) ∧
        (typeOf w = 3 → w / 2 ^ 64 % 8 = 0 → ∀ va, va = w / 2 ^ 64 % 2 ^ 64 →
          ((∃ l ∈ s.launches, l.queue = q) → ∃ t, exec (.valueWrite q) s = .next t ∧ PacketIs s t q x) ∧
          ((∀ l ∈ s.launches, l.queue ≠ q) →
            (∀ v, walk s (x.qsched.setWidth 6) va .store = .fault v → HaltsQueue (.valueWrite q) s q 5) ∧
            (∀ since, walk s (x.qsched.setWidth 6) va .store = .park → ParksSince s q va since →
              (since + 12000000 ≤ s.cycle.toNat → HaltsQueue (.valueWrite q) s q 5) ∧
              (s.cycle.toNat < since + 12000000 → ∃ t, exec (.valueWrite q) s = .next t ∧
                PacketIs s t q { x with parkedAt := some (va / 4096, since) })) ∧
            (∀ pa p z a b, walk s (x.qsched.setWidth 6) va .store = .ok pa p z a b → inMmio pa = false →
              ∃ t : State, exec (.valueWrite q) s = .next t ∧ t.queue q = past x w ∧ t.th = s.th ∧
                t.mem = (s.store (x.qsched.setWidth 6) pa (toBytesLE 8 (w / 2 ^ 128))).mem)))))

/-- R20, R35, R138, R303 to R306, R327, R331, R334: a launch packet. One that breaks a range of R303 halts its queue; one
whose tier has weight 0, or that is not first in R306's order, or that finds the command processor at another, waits; one
that is taken and meets MIG = 1 is held; one that is refused stores its code and goes past; one that passes creates its
threads, ready, in thread order, and huddle 0 of all of them. What it reads and writes is reached as an access of its
context is. -/
def Sys2Proof.Claims.LaunchesTaken : Prop :=
  ∀ (q w : Nat) (s : State) (x : Queue) (c : Ctx), q < 1024 → x = s.queue q → w = packetSlot s x 0 → c = x.qsched.setWidth 6 →
    Present s x → GoodHeader w → typeOf w = 1 →
    (launchOk w = false → HaltsQueue (.launchPacket q) s q 2) ∧
    ((w / 2 ^ 224 % 2 ^ 32 = 0 ∨ 1048576 < w / 2 ^ 192 % 2 ^ 32 ∨ w / 2 ^ 64 % 64 ≠ 0 ∨ w / 2 ^ 128 % 16 ≠ 0 ∨
      w / 2 ^ 320 % 2 ^ 20 < 64 ∨ w / 2 ^ 576 ≠ 0) → HaltsQueue (.launchPacket q) s q 2) ∧
    (launchOk w = true →
      ((4096 ≤ s.huddles.length ∨ (s.taken ≠ some q ∧ (s.taken ≠ none ∨ tierWeight s.tierw x.tier = 0 ∨
          ∃ a < 1024, a ≠ q ∧ launchReady s a = true ∧ Precedes s a q))) →
        ∃ t, exec (.launchPacket q) s = .next t ∧ PacketIs s t q x) ∧
      (∀ k, k = launchTouched q w (ringWoken x s) → PacketIs s k q x ∧
       (s.huddles.length < 4096 → (s.taken = some q ∨ (s.taken = none ∧ tierWeight s.tierw x.tier ≠ 0 ∧
          ∀ a < 1024, a ≠ q → launchReady s a = true → Precedes s q a)) →
        (∀ r bs, makeLaunch q w k = .ok r → ctxLoadBytes k c (w / 2 ^ 64 % 2 ^ 64) 64 = some bs →
          ∃ (t : State) (us vs : List Thread), exec (.launchPacket q) s = .next t ∧ t.mem = r.mem ∧ t.th = s.th ∧
            t.queue q = past x w ∧ t.taken = none ∧ t.conts = vs ++ us ∧ SameSaved vs s.conts ∧
            us.length = w / 2 ^ 224 % 2 ^ 32 ∧ (∀ i u, us[i]? = some u → IsLaunched s x w (ofBytesLE bs) i u) ∧
            t.huddles = s.huddles ++ [⟨s.nextLaunch, 0, List.range (w / 2 ^ 224 % 2 ^ 32), 0, [], false, 0⟩] ∧
            (s.ctx c).enable = true) ∧
        (∀ va since, makeLaunch q w k = .error (.inr va) → ParksSince s q va since →
          ∃ t : State, exec (.launchPacket q) s = .next t ∧ t.mem = s.mem ∧ t.conts = s.conts ∧ t.launches = s.launches ∧
            t.th = s.th ∧ t.taken = some q ∧ t.queue q = { x with parkedAt := some (va / 4096, since) }) ∧
        (∀ code since, makeLaunch q w k = .error (.inl code) → ParksSince s q (w / 2 ^ 512 % 2 ^ 64) since →
          (statusParks c (w / 2 ^ 512 % 2 ^ 64) s = true → s.cycle.toNat < since + 12000000 →
            ∃ t : State, exec (.launchPacket q) s = .next t ∧ t.mem = s.mem ∧ t.taken = some q ∧
              t.queue q = { x with parkedAt := some (w / 2 ^ 512 % 2 ^ 64 / 4096, since) }) ∧
          (statusParks c (w / 2 ^ 512 % 2 ^ 64) s = false ∨ since + 12000000 ≤ s.cycle.toNat →
            ∃ t : State, exec (.launchPacket q) s = .next t ∧ SameSaved t.conts s.conts ∧ t.launches = s.launches ∧
              t.queue q = past x w ∧ t.taken = none ∧ t.th = s.th ∧
              (w / 2 ^ 512 % 2 ^ 64 = 0 → t.mem = s.mem) ∧
              (∀ pa, w / 2 ^ 512 % 2 ^ 64 ≠ 0 → physOf s c (w / 2 ^ 512 % 2 ^ 64) .store = some pa →
                t.mem = (s.store c pa (toBytesLE 8 code)).mem))) ∧
        ((s.ctx c).enable = false → makeLaunch q w k = .error (.inl 8)))))

/-- R138, R305, R321, R329: once every thread of a launch has exited or faulted and every job has ended, its status word is
stored, its owner signalled, and its continuations, huddles and space are free. Until then nothing changes; a store that
meets MIG = 1 is tried for 10 ms. -/
def Sys2Proof.Claims.LaunchesEnd : Prop :=
  ∀ (n : Nat) (s : State) (l : Launch), s.launches.find? (fun k => k.num == n) = some l →
    ((l.live ≠ 0 ∨ ∃ j ∈ s.jobs, j.launch = l.num ∧ j.stage ≠ .ended) → exec (.launchStatusWrite n) s = .next s) ∧
    (∀ since, since = l.statParked.getD s.cycle.toNat → l.live = 0 → (∀ j ∈ s.jobs, j.launch = l.num → j.stage = .ended) →
      statusParks l.ctx l.stat s = true → s.cycle.toNat < since + 12000000 → exec (.launchStatusWrite n) s =
        .next { s with launches := s.launches.map (fun k => if k.num = l.num then { k with statParked := some since } else k) }) ∧
    (l.live = 0 → (∀ j ∈ s.jobs, j.launch = l.num → j.stage = .ended) →
      statusParks l.ctx l.stat s = false ∨ l.statParked.getD s.cycle.toNat + 12000000 ≤ s.cycle.toNat →
      ∃ t : State, exec (.launchStatusWrite n) s = .next t ∧ t.th = s.th ∧
        t.launches = s.launches.filter (fun k => k.num != n) ∧ SameSaved t.conts (s.conts.filter (fun u => u.launch != n)) ∧
        t.huddles = s.huddles.filter (fun h => h.launch != n) ∧
        (l.stat = 0 → t.mem = s.mem ∧ t.msix = s.msix) ∧
        (l.stat ≠ 0 → t.msix = (if (s.queue l.queue).qctl.getLsbD 1 then
          s.msix ++ [((s.queue l.queue).qown.toNat % 32, l.queue % 64)] else s.msix)) ∧
        (∀ pa, l.stat ≠ 0 → physOf s l.ctx l.stat .store = some pa → t.mem = (s.store l.ctx pa (toBytesLE 8
          ((if 0 < l.faults then 1 else 0) + (if l.rounded then 2 ^ 8 else 0) + (if l.late then 2 ^ 9 else 0) +
            l.faults % 2 ^ 32 * 2 ^ 32))).mem))

/-! ## Collectives -/

/-- R269, R270, R273, R275: a registration: the first one of a pair opens the next number and sends it to every engine
of the member table; a later one joins the number, and a further one of the same member receives it again; START follows
once all members have registered, unless the deadline has passed, which cancels the number; a cancelled number closes with
its last member. Where no number may be opened, and at a package that is no primary, it changes nothing. A member of this
package registers with its waiting job, which gets the number, and with a cancelled one ends CANCELLED. -/
def Sys2Proof.Claims.MembersRegister : Prop :=
  ∀ (commid key n : BitVec 32) (members : List Member) (who : Member) (deadline : Word) (s : State),
    n = BitVec.ofNat 32 (s.referee.last + 1) →
    let i := Instr.registration commid key members who deadline
    let fresh := ∀ k ∈ s.referee.opens, k.commid ≠ commid ∨ k.key ≠ key
    let room := s.referee.opens.length < 65536 ∧ (n.toNat + 2 ^ 32 - s.referee.acked % 2 ^ 32) % 2 ^ 32 ≤ 2 ^ 16 - 1
    let open_ := s.referee.opens ++ [⟨n, commid, key, members, [who], [], deadline, decide (∀ m ∈ members, m = who), none⟩]
    let own := fun (j : Job) => who.pkg = s.pkgid ∧ waitingJob s who.die.toNat commid.toNat key.toNat = some j ∧
      j.group.members = members ∧ j.deadline = deadline
    (s.referee.role ≠ .primary → exec i s = .next s) ∧
    (who.pkg = s.pkgid → waitingJob s who.die.toNat commid.toNat key.toNat = none → exec i s = .next s) ∧
    (s.referee.role = .primary → fresh → ¬room → exec i s = .next s) ∧
    (∀ j, own j → s.referee.role = .primary → fresh → room → (∀ k ∈ s.referee.opens, k.num ≠ n) →
      (deadline = 0 ∨ s.now ≤ deadline.toNat → ∃ t : State, exec i s = .next t ∧ t.mem = s.mem ∧ t.referee.opens = open_ ∧
        t.jobs = s.jobs.map (fun k => if k.id = j.id then { k with number := some n.toNat } else k)) ∧
      (deadline ≠ 0 → deadline.toNat < s.now → s.jobOf j.id = some j → ∃ (t : State) (e : Job), exec i s = .next t ∧
        t.mem = s.mem ∧ t.jobOf j.id = some e ∧ e.number = some n.toNat ∧ e.status = 4 ∧ e.stage = .running)) ∧
    (who.pkg ≠ s.pkgid → s.referee.role = .primary → fresh → room → (∀ k ∈ s.referee.opens, k.num ≠ n) →
      (deadline = 0 ∨ s.now ≤ deadline.toNat) → (∀ e ∈ s.engineNums, e.num ≠ n.toNat) → ∃ t : State, exec i s = .next t ∧
        t.mem = s.mem ∧ t.jobs = s.jobs ∧ t.referee.last = n.toNat ∧ t.referee.opens = open_ ∧
        (∀ m ∈ members, m.pkg = s.pkgid → (⟨m.die.toNat, n.toNat, commid.toNat, key.toNat,
          decide (∀ m ∈ members, m = who), false⟩ : EngineNumber) ∈ t.engineNums)) ∧
    (∀ k, s.referee.role = .primary → OpenNumber s k → k.commid = commid → k.key = key →
      let d := if k.deadline = 0 then deadline else if deadline = 0 then k.deadline
        else if deadline.toNat < k.deadline.toNat then deadline else k.deadline
      let regs := if who ∈ k.registered then k.registered else k.registered ++ [who]
      let full := ∀ m ∈ k.members, m ∈ regs
      let late := d ≠ 0 ∧ d.toNat < s.now
      let after := fun (f : Kickoff → Kickoff) => opensAfter s k.num (fun x => f { x with
        registered := regs
        deadline := d })
      let closed := s.referee.opens.filter (fun x => x.num != k.num)
      (who.pkg ≠ s.pkgid →
        ((k.cancelled = none ∧ (k.started = true ∨ (¬late ∧ ¬full))) ∨ (k.cancelled ≠ none ∧ ¬full) →
          exec i s = .next { s with referee := { s.referee with opens := after id } }) ∧
        (k.cancelled = none → k.started = false → ¬late → full → ∃ t : State, exec i s = .next t ∧
          t.mem = s.mem ∧ t.referee.opens = after (fun x => { x with started := true }) ∧
          ∀ e ∈ t.engineNums, e.num = k.num.toNat → (∃ m ∈ k.members, m.pkg = s.pkgid ∧ m.die.toNat = e.die) →
            e.started = true) ∧
        (k.cancelled = none → k.started = false → late → ∃ t : State, exec i s = .next t ∧ t.mem = s.mem ∧
          (¬full → t.referee.opens = after (fun x => { x with cancelled := some s.cycle.toNat })) ∧
          (full → t.referee.opens = closed)) ∧
        (k.cancelled ≠ none → full → ∃ t : State, exec i s = .next t ∧
          t.mem = s.mem ∧ t.jobs = s.jobs ∧ t.referee.opens = closed)) ∧
      (∀ j, own j → k.cancelled = none → k.started = true → ∃ t : State, exec i s = .next t ∧ t.mem = s.mem ∧
        t.jobs = s.jobs.map (fun x => if x.id = j.id then { x with number := some k.num.toNat } else x) ∧
        t.referee.opens = after id ∧
        ∃ e ∈ t.engineNums, e.die = who.die.toNat ∧ e.num = k.num.toNat ∧ e.started = true) ∧
      (∀ j, own j → k.cancelled ≠ none → s.jobOf j.id = some j → ∃ (t : State) (e : Job), exec i s = .next t ∧
        t.mem = s.mem ∧ t.jobOf j.id = some e ∧ e.number = some k.num.toNat ∧ e.status = 4 ∧ e.stage = .running))

/-- R269, R273, R274: an open number without START is cancelled by its deadline or by its owner, never one with START;
a cancelled number closes after 1 s, and a started one when every member has reported it terminal. COLLCANST reports
what became of the pair. -/
def Sys2Proof.Claims.NumbersCancelledAndClosed : Prop :=
  ∀ (k : Kickoff) (s : State), OpenNumber s k → s.referee.role = .primary →
    (k.started = false → k.cancelled = none → k.deadline ≠ 0 → k.deadline.toNat < s.now →
      ∃ t, exec (.deadlineCancel k.num) s = .next t ∧ Cancels s t k) ∧
    ((k.started = true ∨ k.cancelled ≠ none ∨ k.deadline = 0 ∨ s.now ≤ k.deadline.toNat) →
      exec (.deadlineCancel k.num) s = .next s) ∧
    (∀ r, r = (if k.started then 1 else 0) →
      (k.started = true ∨ k.cancelled ≠ none → ∃ t : State, exec (.ownerCancel k.commid k.key) s = .next t ∧
        t.referee = s.referee ∧ t.jobs = s.jobs ∧ t.mem = s.mem ∧
        (s.collcanst = 3 → s.collcan.toNat = k.commid.toNat + k.key.toNat * 2 ^ 32 → t.collcanst = BitVec.ofNat 64 r)) ∧
      (k.started = false → k.cancelled = none → ∃ t, exec (.ownerCancel k.commid k.key) s = .next t ∧ Cancels s t k ∧
        (s.collcanst = 3 → s.collcan.toNat = k.commid.toNat + k.key.toNat * 2 ^ 32 → t.collcanst = 0))) ∧
    (∀ commid key : BitVec 32, (∀ x ∈ s.referee.opens, x.commid ≠ commid ∨ x.key ≠ key) → s.collcanst = 3 →
      s.collcan.toNat = commid.toNat + key.toNat * 2 ^ 32 →
      exec (.ownerCancel commid key) s = .next { s with collcanst := 2 }) ∧
    ((∀ c, k.cancelled = some c → s.cycle.toNat < c + 1200000000) → exec (.cancelClose k.num) s = .next s) ∧
    (∀ c, k.cancelled = some c → c + 1200000000 ≤ s.cycle.toNat → ∃ t : State, exec (.cancelClose k.num) s = .next t ∧
      t.mem = s.mem ∧ t.jobs = s.jobs ∧ t.referee.opens = s.referee.opens.filter (fun x => x.num != k.num)) ∧
    (k.started = true → (∀ m ∈ k.members, m ∈ k.reported) → ∃ t : State, exec (.numberClose k.num) s = .next t ∧
      t.mem = s.mem ∧ t.jobs = s.jobs ∧ t.referee.opens = s.referee.opens.filter (fun x => x.num != k.num)) ∧
    ((k.started = false ∨ ∃ m ∈ k.members, m ∉ k.reported) → exec (.numberClose k.num) s = .next s)

/-- R275: the primary replicates its high-water mark; a standby that has heard nothing for 1 ms takes over, keeps the
numbers up to HW, keeps a gap number that an engine of the pod holds START for, cancels the others, and goes on at
HW + 2^16. -/
def Sys2Proof.Claims.StandbyTakesOver : Prop :=
  ∀ (s : State),
    (s.referee.role ≠ .primary → exec .hwReplication s = .next s) ∧
    (s.referee.role = .primary → exec .hwReplication s = .next { s with referee := { s.referee with
      hw := s.referee.last
      acked := s.referee.last } }) ∧
    (s.referee.role ≠ .standby ∨ s.cycle.toNat < s.referee.heard + 1200000 → exec .failover s = .next s) ∧
    (s.referee.role = .standby → s.referee.heard + 1200000 ≤ s.cycle.toNat → ∃ t : State, exec .failover s = .next t ∧
      t.mem = s.mem ∧ t.th = s.th ∧ t.referee.role = .primary ∧ t.referee.last = (s.referee.hw + 2 ^ 16 - 1) % 2 ^ 32 ∧
      t.referee.acked = t.referee.last ∧ t.referee.hw = t.referee.last ∧
      (∀ k ∈ s.referee.held, NumberBefore s.referee.hw k.num.toNat →
        (k.num.toNat + 2 ^ 32 - s.referee.hw % 2 ^ 32) % 2 ^ 32 < 2 ^ 16 → ∃ x ∈ t.referee.opens, x.num = k.num ∧ x.started = true) ∧
      (∀ k ∈ s.referee.replica, ∃ k' ∈ t.referee.opens, k' = { k with started := k.started || startHeld s k.num.toNat }) ∧
      (∀ e ∈ s.engineNums, NumberBefore s.referee.hw e.num →
        (e.num + 2 ^ 32 - s.referee.hw % 2 ^ 32) % 2 ^ 32 < 2 ^ 16 →
        (startHeld s e.num = false → ∃ x ∈ t.engineNums, x.die = e.die ∧ x.num = e.num ∧ x.cancelled = true) ∧
        (e.started = true → e.num < 2 ^ 32 → ∃ k ∈ t.referee.opens, k.num.toNat = e.num ∧ k.started = true)))

/-- R271, R281, R283: an engine starts the collective of the lowest number that it has START for, not before T, and
marks it LATE after T; a block of a moving collective becomes final with its flag. Else nothing changes. -/
def Sys2Proof.Claims.CollectivesStart : Prop :=
  ∀ (die : Nat) (s : State) (j : Job),
    ((∀ e, ¬Startable s die e) → (∀ e ∈ s.engineNums, ∀ x ∈ s.engineNums, e.die = die → x.die = die →
        e.cancelled = false → x.cancelled = false → e = x ∨ NumberBefore e.num x.num ∨ NumberBefore x.num e.num) →
      exec (.start die) s = .next s) ∧
    (∀ e g, Startable s die e → s.jobs.find? (numberJob die e.num) = some j → j.comm = some g →
      (∀ t, collAt j = some t → s.now < t → exec (.start die) s = .next s) ∧
      (∀ c r, (∀ t, collAt j = some t → t ≤ s.now) → collContribute j g e.num s = .ok (c, r) →
        ∃ t : State, exec (.start die) s = .next t ∧ t.mem = r.mem ∧ t.th = r.th ∧
          t.jobs = r.jobs.map (fun k => if k.id = j.id then { k.walked with
            stage := .started
            status := if ∃ x, collAt j = some x ∧ x < s.now then 2 ^ 8 else 0 } else k) ∧
          c ∈ t.contributions ∧ ∀ x ∈ t.contributions, x.num = e.num → x.rank = c.rank → x.self = c.self → x = c)) ∧
    (∀ source, s.jobOf j.id = some j → j.stage = .running →
      (blockReady j source = false → exec (.blockFinal j.id source) s = .next s.chunksDone) ∧
      (∀ g cs b r u, blockReady j source = true → j.comm = some g → b = blockOf j source →
        allContributions (j.number.getD 0) g (collParams j g) s = some cs →
        writeChunks j g b (((destBlockBytes j g cs)[b]?).getD []) (List.range (blockChunks g.count)) s = .ok r →
        writeFlag j g source r = .ok u →
        (∃ x < destBlocks (collOp j) g.members.length, x ≠ b ∧ x ∉ j.entered) →
          ∃ t : State, exec (.blockFinal j.id source) s = .next t ∧ t.mem = u.mem ∧ t.th = u.th ∧
            t.jobs = u.jobs.map (fun k => if k.id = j.id then { k.walked with
              finals := j.finals ++ ((List.range (blockChunks g.count)).map (fun c => b * blockChunks g.count + c)).filter
                (fun c => !j.finals.contains c)
              entered := k.entered ++ [b] } else k)))

/-! ## Words, steps and the machine as a whole -/

/-- R71 to R94, R97, R193: the words of a well-formed instruction decode to it, whatever its operands: control words,
tile commands, and the slots of routines. -/
def Obligations.DecodingInvertsEncoding : Prop :=
  ∀ i : Instr, wellFormedInstr i = true →
    (bitLength i = 32 → (∀ l t, i ≠ .rconst l t) → decodeControl (encode i) = .ok i ∧ encode i < 2 ^ 32) ∧
    (bitLength i = 256 → decodeTile (encode i) = .ok i ∧ encode i < 2 ^ 256) ∧
    (bitLength i = 16 → decodeSlot (encode i) = .ok i ∧ encode i < 2 ^ 16) ∧
    (∀ l t, i = .rconst l t → decodeSlot (encode i) = .ok i)

/-- Words written out from the encodings of the instructions' entries (20_ref_a_c, 21_ref_d_l, 22_ref_m_r, 23_ref_s_u and
24_ref_v_z) and from R94, R360 and R413, and the instructions they stand for. -/
def Obligations.WordsDecode : Prop :=
  decodeTableWord 32 0x08000000 = some .nop ∧
  decodeTableWord 32 0x0492_8B24 = some (.sel 9 10 11) ∧
  decodeTableWord 32 0x4092_800B = some (.fclass 9 10 0) ∧
  decodeTableWord 32 0x6095_4004 = some (.cgetLen 9 21) ∧
  decodeTableWord 32 0x77FF_FFFB = some (.j (BitVec.ofInt 26 (-5))) ∧
  decodeTableWord 32 0x9495_0A07 = some (.cas 9 20 10 1 3) ∧
  decodeTableWord 32 0x9800_0850 = some (.fence 2 1 2) ∧
  decodeTableWord 32 0xC402_4811 = some (.suspCnt 9 17) ∧
  decodeTableWord 32 0xA780_0000 = some (.sfree 56) ∧
  decodeTableWord 32 0xEC43_8400 = some (.vseq 1 14 0) ∧
  decodeTableWord 32 0xFA00_0032 = some (.csrr 32 0x032) ∧
  decodeTableWord 32 0xF800_1007 = some (.trap 7) ∧
  decodeTableWord 32 0xDC06_0000 = some (.whistle 24) ∧
  decodeTableWord 16 0x4A04 = some (.rcmplt 2 0 1) ∧
  decodeTableWord 16 0x8005 = some (.rshr 0 0 1 1) ∧
  (∃ t : Tile, decodeTableWord 256 (0xFD400100 + 0x00824001 * 2 ^ 32 + 0x400 * 2 ^ 64 + 0x03550000 * 2 ^ 128) = some (.mma t) ∧
    t.d = 20 ∧ t.x = 0 ∧ t.y = 8 ∧ t.z = 9 ∧ t.shape = 1 ∧ t.scope = 2 ∧ t.w4 = 0x03550000)

/-- R71, R97, R432: where the bytes at PC decode to an instruction, a step is that instruction, at the state that the
fetch leaves; a step of the routine unit runs its slot, and a step of the device runs as the agenda gives it
(assumptions 1 and 12). No access of it races (R157, assumption 50). A word that is no instruction is ILLEGAL, and the first
of a fused softmax sequence has the sequence's fault (R170, assumption 25). A fetch reads PC's bytes of memory, where the
core's cache holds no copy; one that does not translate is FETCH_FAULT outside the mapping, else PAGE_FAULT
(assumption 11). -/
def Obligations.StepRunsDecoded : Prop :=
  ∀ (s : State) (i : Instr),
    (∀ w r, s.agenda = .event w i :: r → bitLength i = 0 → step s = exec i (State.tick { s with
      agenda := r
      racing := .off } w)) ∧
    (s.agenda = [] → s.rt.active = true → decodeSlot s.rt.word = .ok i → step s = exec i { s with racing := .off }) ∧
    (∀ u, ((s.agenda = [] ∧ u = (State.tick { s with racing := .off } 1).wakeQuire) ∨
        (∃ w q c k r, s.agenda = .issue w q c k :: r ∧ u = ((State.tick { s with
          agenda := r
          racing := .off } w).focus q c k).wakeQuire)) →
      s.rt.active = false → u.th.code = .running → u.th.ganged = false →
      u.th.stall = none → u.th.pendTraps = [] → u.th.rfq = [] → u.mem = s.mem ∧ Calm u ∧
      (∀ bs t, fetchBytes 4 u = .ok (bs, t) → ofBytesLE bs / 2 ^ 26 % 2 ^ 6 ≠ 0x3F → decodeControl (ofBytesLE bs) = .ok i →
        step s = exec i t) ∧
      (∀ bs t cs v, fetchBytes 4 u = .ok (bs, t) → ofBytesLE bs / 2 ^ 26 % 2 ^ 6 = 0x3F → u.th.pc.toNat % 32 = 0 →
        fetchBytes 32 t = .ok (cs, v) → decodeTile (ofBytesLE cs) = .ok i → step s = exec i v) ∧
      (∀ bs t e, fetchBytes 4 u = .ok (bs, t) → ofBytesLE bs / 2 ^ 26 % 2 ^ 6 ≠ 0x3F →
        decodeControl (ofBytesLE bs) = .error e →
          ((∀ j, softmaxStart (ofBytesLE bs) = some j → ∃ r, softmaxScan u.th.pc.toNat 7 [j] (some 0) u = .ok r) →
            step s = .next (takeTrap .illegal false (BitVec.ofNat 64 (ofBytesLE bs % 2 ^ 32)) u.th.pc false u)) ∧
          (∀ j c v, softmaxStart (ofBytesLE bs) = some j → softmaxScan u.th.pc.toNat 7 [j] (some 0) u = .error (.trap c v) →
            step s = .next (takeTrap c false v u.th.pc (fetchCause c) u))) ∧
      (∀ n pa p z a b t, u.th.pc.toNat % 4 = 0 → capCheck u.th.fetchCap u.th.pc.toNat n permExec = .ok () →
        MayWalk u u.th.pc.toNat →
        translate u u.th.quire u.th.ctx u.th.pc.toNat .fetch = (.ok pa p z a b, t) → eccAt u pa n = false →
        icacheFind t t.th.pc.toNat = none →
        ∃ v, fetchBytes n u = .ok (s.mem.readBytes pa n, v) ∧ v.th = u.th ∧ v.mem = s.mem ∧ v.conts = u.conts ∧
          v.others = u.others) ∧
      (∀ n r t, u.th.pc.toNat % 4 = 0 → capCheck u.th.fetchCap u.th.pc.toNat n permExec = .ok () →
        MayWalk u u.th.pc.toNat →
        translate u u.th.quire u.th.ctx u.th.pc.toNat .fetch = (.fault r, t) →
        fetchBytes n u = .error (if r.toNat / 2 ^ 56 % 16 = 0 then .trap .fetchFault u.th.pc else .trap .pageFault r)))

/-- R2, R12, R311: every instruction answers with a next state on every operand and in every state: it has its effect,
or takes its trap, or waits in its slot; and so does every step. -/
def Obligations.EveryInstructionGoesOn : Prop := (∀ (i : Instr) (s : State), Goes (exec i s)) ∧ ∀ s : State, Goes (step s)

/-- Every step keeps the memory's canonical form: its cells in rising order with none at the reset value, its tags in
rising order. -/
def Obligations.StepKeepsMemoryForm : Prop :=
  ∀ (s t : State), s.mem.wf = true → step s = .next t → t.mem.wf = true

/-- R56, R57, R285, R314: no instruction of an unprivileged thread writes a privileged control register, of its own
context or of another. -/
def Obligations.UnprivilegedCodeKeepsControl : Prop :=
  ∀ (i : Instr) (s t : State), bitLength i = 32 ∨ bitLength i = 256 → s.priv = false →
    exec i s = .next t → ControlKept s t

/-- What the spec gives for reset (R54, R56, R102, R141, R274, R285, R301, R320, R321, R330, R332, R334), and that reset's
memory has its form. -/
def Obligations.ResetState : Prop :=
  let s := State.reset
  s.mem.wf = true ∧ s.cycle = 0 ∧ s.resmap = 0 ∧ s.bdtab = 0 ∧ s.tierw = 0x0808080808080808 ∧ s.collcan = 0 ∧ s.collcanst = 0 ∧
    s.boot.bootst = 0 ∧ s.boot.defsig = 0 ∧ s.boot.attaddr = 0 ∧ s.boot.attst = 0 ∧
    (∀ c : Ctx, s.ctx c = Context.reset) ∧ Context.reset.ptroot = 0 ∧ Context.reset.cntwin = 0 ∧ Context.reset.mode = 0 ∧
    Context.reset.enable = false ∧ Context.reset.own = 0 ∧ Context.reset.savebase = 0 ∧ Context.reset.stat = 0 ∧
    Context.reset.poolbase = 0 ∧ Context.reset.poolcnt = 0 ∧ s.asidSel = 0 ∧
    (∀ q, s.queue q = Queue.reset) ∧ Queue.reset.qstat = 0 ∧ Queue.reset.qctl = 0 ∧ Queue.reset.qsched = 0 ∧ Queue.reset.qown = 0 ∧
    (∀ i < 256, s.pwrctl i = if i % 64 < 48 ∨ 58 ≤ i % 64 then 0x820 else 0x800) ∧ ∀ k, s.rasOf k = 0

/-! ## The statements of several parts -/

/-- R340, R343, R395, R397, R400, R403, R419, R423, R429, R449: the integer forms, their words and their results. -/
def Obligations.IntegerForms : Prop := IntegerRegisterForms ∧ IntegerImmediateForms ∧ IntegerWords

/-- R106, R366, R369, R374, R376: floating comparisons, classes, signs, and the lesser and greater operand. -/
def Obligations.FloatTestsAndExtremes : Prop := FloatTests ∧ FloatMinMax

/-- R370, R371: FCVT, and the conversion of a format to itself. -/
def Obligations.FormatConversions : Prop := FcvtConverts ∧ ConversionToItself

/-- R345, R348 to R351, R359: what the capability instructions make, and what they need a tag for. -/
def Obligations.CapabilityResults : Prop := CapabilityMoves ∧ CapabilityBoundsSet ∧ CapabilityTagNeeded

/-- R33, R43, R46, R53, R252, R326: how operands are read, what stops an instruction at them, and where results go. -/
def Obligations.OperandsAndResults : Prop := OperandsRead ∧ StreamPopsInOrder ∧ OperandStops ∧ GeneralOperandsReady ∧ ResultsWritten

/-- R311, R312, R364, R434: taking a trap, TRAP and ERET. -/
def Obligations.TrapsAndReturn : Prop := TrapEntryState ∧ TrapAndReturn

/-- R389, R390, R426, R428: stores, and the bytes they change. -/
def Obligations.StoresReachMemory : Prop := StoresWrite ∧ StoredBytes

/-- R372, R382, R406, R432: FENCE, PREF, IDLE and SYNCI. -/
def Obligations.OrderingAndIdling : Prop := FenceAndPref ∧ IdleAndSynci

/-- R53, R314, R360, R361: CSRR, CSRW and CSRX, and what they trap on. -/
def Obligations.ControlRegistersAccessed : Prop := ControlRegisterMoves ∧ ControlRegisterTraps

/-- R387, R388, R398: JPOLL, JWAIT and MPOP. -/
def Obligations.JobsAndMailSeen : Prop := JobStatusSeen ∧ MpopTakesOldest

/-- R347, R354: the counter forms and CBADV. -/
def Obligations.CountersAndRings : Prop := CountersAct ∧ RingAdvances

/-- R22, R23, R25, R380, R386, R392: JOIN, LEAVE and HBAR. -/
def Obligations.HuddlesAndBarriers : Prop := HuddlesJoinedAndLeft ∧ BarriersMeet

/-- R28, R378, R435: GANG and UNGANG. -/
def Obligations.GangsFormAndDisband : Prop := GangsForm ∧ UngangDisbands

/-- R19, R316 to R318, R352, R365, R450: YIELD, EXIT and CKPT. -/
def Obligations.ThreadsYieldExitAndSave : Prop := YieldAndExit ∧ CheckpointSaves

/-- R45, R416, R422: SBIND and SFREE. -/
def Obligations.StreamsBoundAndFreed : Prop := SbindBinds ∧ SfreeUnbinds

/-- R46, R247, R249, R420: SEND, and the arrival of a message. -/
def Obligations.MessagesSentAndReceived : Prop := SendEntersQueue ∧ MessagesArrive

/-- R251 to R254, R409 to R411: RLD, RST and RAMO, and their replies. -/
def Obligations.RemoteOperationsAnswered : Prop := RemoteOperationsIssue ∧ RepliesReachTheirThread

/-- R255 to R262: links, routes, failed packages, ranks and time. -/
def Obligations.FabricEvents : Prop := LinksAndRoutes ∧ FailuresRanksAndTime

/-- R286, R287, R294, R297: WHISTLE, and the phases it opens. -/
def Obligations.BarrierDomains : Prop := WhistleArrives ∧ PhasesOpenAndClose

/-- R289 to R294: SSEND, SRECV and the elements on the lanes. -/
def Obligations.ScheduledTransfers : Prop := ScheduledTransfersPosted ∧ ScheduledElementsMove

/-- R122, R436 to R447: the vector words that work element by element. -/
def Obligations.VectorElementResults : Prop := VectorArithmetic ∧ VectorMovesAndConversions

/-- R124, R436: vector masks, reductions and the fused softmax. -/
def Obligations.VectorMasksAndSums : Prop := VectorMasksAndReductions ∧ FusedSoftmaxRuns

/-- R161 to R167, R441 to R447: VSETL, VMOVG, vector loads and stores, and the sequencer. -/
def Obligations.VectorUnitStates : Prop := VsetlAndVmovg ∧ VectorLoadsAndStores ∧ ReplaysAndLanes

/-- R91 to R96, R182, R183: the push of a tile command, and what makes it ILLEGAL. -/
def Obligations.TileCommandsPushed : Prop := TileCommandsPush ∧ TileCommandsIllegal

/-- R152, R153, R184, R185, R210, R212, R213, R222, R227: what a job posts and counts. -/
def Obligations.JobsReport : Prop := JobMessages ∧ WindowsTicketsAndElements

/-- R12, R30, R46, R254, R311: the ends of stalls, and pending traps. -/
def Obligations.StallsAndPendingTraps : Prop := StallsEnd ∧ PendingTrapsTaken

/-- R10 to R14, R307: write-back, wake-up and pick-up. -/
def Obligations.ContinuationsSavedAndPickedUp : Prop := SuspendedAndWoken ∧ SlotsPickUp

/-- R98 to R102, R299, R300, R328, R329: the registers that a function of PCI Express writes. -/
def Obligations.FunctionsWriteRegisters : Prop := QueueRegistersWritten ∧ RegistersReached

/-- R54, R56, R57, R141, R285: what privileged writes do. -/
def Obligations.PrivilegedRegistersAct : Prop := ResidencyMapped ∧ SystemRegistersWritten

/-- R269 to R275: kickoff numbers opened, started, cancelled and closed. -/
def Obligations.RefereeDecides : Prop := MembersRegister ∧ NumbersCancelledAndClosed

/-- R271, R275, R281, R283: the start of collectives, and the standby's takeover. -/
def Obligations.CollectivesRunAndFailOver : Prop := CollectivesStart ∧ StandbyTakesOver

/-- R35, R303 to R306: a launch taken, and its end. -/
def Obligations.LaunchesRun : Prop := LaunchesTaken ∧ LaunchesEnd
end

