-- ==== Sys2Proof/Laws/Dispatch.lean ====
section
/-!
SUPPORT. What `exec` does with each instruction: the call of its meaning, so that a proof about one instruction
need not open the whole dispatch.
-/
namespace Sys2Proof.Machine

variable (st : State)

@[simp] theorem exec_add (d a b : BitVec 6) : exec (.add d a b) st = execAdd d a b st := rfl
@[simp] theorem exec_sub (d a b : BitVec 6) : exec (.sub d a b) st = execSub d a b st := rfl
@[simp] theorem exec_mul (d a b : BitVec 6) : exec (.mul d a b) st = execMul d a b st := rfl
@[simp] theorem exec_mulh (d a b : BitVec 6) : exec (.mulh d a b) st = execMulh d a b st := rfl
@[simp] theorem exec_mulhU (d a b : BitVec 6) : exec (.mulhU d a b) st = execMulhU d a b st := rfl
@[simp] theorem exec_div (d a b : BitVec 6) : exec (.div d a b) st = execDiv d a b st := rfl
@[simp] theorem exec_divU (d a b : BitVec 6) : exec (.divU d a b) st = execDivU d a b st := rfl
@[simp] theorem exec_rem (d a b : BitVec 6) : exec (.rem d a b) st = execRem d a b st := rfl
@[simp] theorem exec_remU (d a b : BitVec 6) : exec (.remU d a b) st = execRemU d a b st := rfl
@[simp] theorem exec_and (d a b : BitVec 6) : exec (.and d a b) st = execAnd d a b st := rfl
@[simp] theorem exec_andn (d a b : BitVec 6) : exec (.andn d a b) st = execAndn d a b st := rfl
@[simp] theorem exec_or (d a b : BitVec 6) : exec (.or d a b) st = execOr d a b st := rfl
@[simp] theorem exec_xor (d a b : BitVec 6) : exec (.xor d a b) st = execXor d a b st := rfl
@[simp] theorem exec_shl (d a b : BitVec 6) : exec (.shl d a b) st = execShl d a b st := rfl
@[simp] theorem exec_shr (d a b : BitVec 6) : exec (.shr d a b) st = execShr d a b st := rfl
@[simp] theorem exec_shrA (d a b : BitVec 6) : exec (.shrA d a b) st = execShrA d a b st := rfl
@[simp] theorem exec_rot (d a b : BitVec 6) : exec (.rot d a b) st = execRot d a b st := rfl
@[simp] theorem exec_min (d a b : BitVec 6) : exec (.min d a b) st = execMin d a b st := rfl
@[simp] theorem exec_minU (d a b : BitVec 6) : exec (.minU d a b) st = execMinU d a b st := rfl
@[simp] theorem exec_max (d a b : BitVec 6) : exec (.max d a b) st = execMax d a b st := rfl
@[simp] theorem exec_maxU (d a b : BitVec 6) : exec (.maxU d a b) st = execMaxU d a b st := rfl
@[simp] theorem exec_sel (d a b : BitVec 6) : exec (.sel d a b) st = execSel d a b st := rfl
@[simp] theorem exec_clz (d a : BitVec 6) : exec (.clz d a) st = execClz d a st := rfl
@[simp] theorem exec_ctz (d a : BitVec 6) : exec (.ctz d a) st = execCtz d a st := rfl
@[simp] theorem exec_popc (d a : BitVec 6) : exec (.popc d a) st = execPopc d a st := rfl
@[simp] theorem exec_set (d a b : BitVec 6) (c : BitVec 3) : exec (.set d a b c) st = execSet d a b c st := rfl
@[simp] theorem exec_addsh (d a b : BitVec 6) (s : BitVec 2) : exec (.addsh d a b s) st = execAddsh d a b s st := rfl
@[simp] theorem exec_addi (d a : BitVec 6) (i : BitVec 14) : exec (.addi d a i) st = execAddi d a i st := rfl
@[simp] theorem exec_nop : exec .nop st = execNop st := rfl
@[simp] theorem exec_andi (d a : BitVec 6) (i : BitVec 14) : exec (.andi d a i) st = execAndi d a i st := rfl
@[simp] theorem exec_ori (d a : BitVec 6) (i : BitVec 14) : exec (.ori d a i) st = execOri d a i st := rfl
@[simp] theorem exec_xori (d a : BitVec 6) (i : BitVec 14) : exec (.xori d a i) st = execXori d a i st := rfl
@[simp] theorem exec_shi (d a : BitVec 6) (k : BitVec 2) (s : BitVec 6) : exec (.shi d a k s) st = execShi d a k s st := rfl
@[simp] theorem exec_seti (d a : BitVec 6) (c : BitVec 3) (i : BitVec 11) : exec (.seti d a c i) st = execSeti d a c i st := rfl
@[simp] theorem exec_movi (d : BitVec 6) (i : BitVec 20) : exec (.movi d i) st = execMovi d i st := rfl
@[simp] theorem exec_movhi (d : BitVec 6) (i : BitVec 20) : exec (.movhi d i) st = execMovhi d i st := rfl
@[simp] theorem exec_muli (d a : BitVec 6) (i : BitVec 14) : exec (.muli d a i) st = execMuli d a i st := rfl
@[simp] theorem exec_fadd (d a b : BitVec 6) (t r : BitVec 2) : exec (.fadd d a b t r) st = execFadd d a b t r st := rfl
@[simp] theorem exec_fsub (d a b : BitVec 6) (t r : BitVec 2) : exec (.fsub d a b t r) st = execFsub d a b t r st := rfl
@[simp] theorem exec_fmul (d a b : BitVec 6) (t r : BitVec 2) : exec (.fmul d a b t r) st = execFmul d a b t r st := rfl
@[simp] theorem exec_fdiv (d a b : BitVec 6) (t r : BitVec 2) : exec (.fdiv d a b t r) st = execFdiv d a b t r st := rfl
@[simp] theorem exec_fsqrt (d a : BitVec 6) (t r : BitVec 2) : exec (.fsqrt d a t r) st = execFsqrt d a t r st := rfl
@[simp] theorem exec_fmin (d a b : BitVec 6) (t : BitVec 2) : exec (.fmin d a b t) st = execFmin d a b t st := rfl
@[simp] theorem exec_fmax (d a b : BitVec 6) (t : BitVec 2) : exec (.fmax d a b t) st = execFmax d a b t st := rfl
@[simp] theorem exec_fsetEq (d a b : BitVec 6) (t : BitVec 2) : exec (.fsetEq d a b t) st = execFsetEq d a b t st := rfl
@[simp] theorem exec_fsetLt (d a b : BitVec 6) (t : BitVec 2) : exec (.fsetLt d a b t) st = execFsetLt d a b t st := rfl
@[simp] theorem exec_fsetLe (d a b : BitVec 6) (t : BitVec 2) : exec (.fsetLe d a b t) st = execFsetLe d a b t st := rfl
@[simp] theorem exec_fsetUn (d a b : BitVec 6) (t : BitVec 2) : exec (.fsetUn d a b t) st = execFsetUn d a b t st := rfl
@[simp] theorem exec_fclass (d a : BitVec 6) (t : BitVec 2) : exec (.fclass d a t) st = execFclass d a t st := rfl
@[simp] theorem exec_fneg (d a : BitVec 6) (t : BitVec 2) : exec (.fneg d a t) st = execFneg d a t st := rfl
@[simp] theorem exec_fabs (d a : BitVec 6) (t : BitVec 2) : exec (.fabs d a t) st = execFabs d a t st := rfl
@[simp] theorem exec_fmaFp32 (d a b c : BitVec 6) (r : BitVec 2) : exec (.fmaFp32 d a b c r) st = execFmaFp32 d a b c r st := rfl
@[simp] theorem exec_fmaFp16 (d a b c : BitVec 6) (r : BitVec 2) : exec (.fmaFp16 d a b c r) st = execFmaFp16 d a b c r st := rfl
@[simp] theorem exec_fcvt (d a : BitVec 6) (s e : BitVec 4) (r : BitVec 2) : exec (.fcvt d a s e r) st = execFcvt d a s e r st := rfl
@[simp] theorem exec_cbnd (d a b : BitVec 6) : exec (.cbnd d a b) st = execCbnd d a b st := rfl
@[simp] theorem exec_cbndX (d a b : BitVec 6) : exec (.cbndX d a b) st = execCbndX d a b st := rfl
@[simp] theorem exec_cprm (d a b : BitVec 6) : exec (.cprm d a b) st = execCprm d a b st := rfl
@[simp] theorem exec_cgetBase (d a : BitVec 6) : exec (.cgetBase d a) st = execCgetBase d a st := rfl
@[simp] theorem exec_cgetLen (d a : BitVec 6) : exec (.cgetLen d a) st = execCgetLen d a st := rfl
@[simp] theorem exec_cgetPerm (d a : BitVec 6) : exec (.cgetPerm d a) st = execCgetPerm d a st := rfl
@[simp] theorem exec_cgetTag (d a : BitVec 6) : exec (.cgetTag d a) st = execCgetTag d a st := rfl
@[simp] theorem exec_cclr (d a : BitVec 6) : exec (.cclr d a) st = execCclr d a st := rfl
@[simp] theorem exec_cadd (d a b : BitVec 6) : exec (.cadd d a b) st = execCadd d a b st := rfl
@[simp] theorem exec_ldC (d a b : BitVec 6) : exec (.ldC d a b) st = execLdC d a b st := rfl
@[simp] theorem exec_stC (d a b : BitVec 6) : exec (.stC d a b) st = execStC d a b st := rfl
@[simp] theorem exec_caddi (d a : BitVec 6) (i : BitVec 14) : exec (.caddi d a i) st = execCaddi d a i st := rfl
@[simp] theorem exec_b (a b : BitVec 6) (c : BitVec 3) (o : BitVec 11) : exec (.b a b c o) st = execB a b c o st := rfl
@[simp] theorem exec_j (o : BitVec 26) : exec (.j o) st = execJ o st := rfl
@[simp] theorem exec_jal (d : BitVec 6) (i : BitVec 20) : exec (.jal d i) st = execJal d i st := rfl
@[simp] theorem exec_jr (d a : BitVec 6) (i : BitVec 14) : exec (.jr d a i) st = execJr d a i st := rfl
@[simp] theorem exec_ld (d a : BitVec 6) (s : BitVec 2) (o c : BitVec 3) (f : BitVec 6) : exec (.ld d a s o c f) st = execLd d a s o c f st := rfl
@[simp] theorem exec_st (d a : BitVec 6) (s : BitVec 2) (o c : BitVec 3) (f : BitVec 6) : exec (.st d a s o c f) st = execSt d a s o c f st := rfl
@[simp] theorem exec_ldX (d a : BitVec 6) (s : BitVec 2) (o c : BitVec 3) (i : BitVec 6) : exec (.ldX d a s o c i) st = execLdX d a s o c i st := rfl
@[simp] theorem exec_stX (d a : BitVec 6) (s : BitVec 2) (o c : BitVec 3) (i : BitVec 6) : exec (.stX d a s o c i) st = execStX d a s o c i st := rfl
@[simp] theorem exec_amo (d a b : BitVec 6) (p : BitVec 4) (o z : BitVec 2) : exec (.amo d a b p o z) st = execAmo d a b p o z st := rfl
@[simp] theorem exec_cas (d a b : BitVec 6) (o z : BitVec 2) : exec (.cas d a b o z) st = execCas d a b o z st := rfl
@[simp] theorem exec_fence (b a : BitVec 4) (s : BitVec 3) : exec (.fence b a s) st = execFence b a s st := rfl
@[simp] theorem exec_pref (a : BitVec 6) (s : BitVec 2) (f : BitVec 6) : exec (.pref a s f) st = execPref a s f st := rfl
@[simp] theorem exec_sbind (d a : BitVec 6) (k : BitVec 2) : exec (.sbind d a k) st = execSbind d a k st := rfl
@[simp] theorem exec_sfree (d : BitVec 6) : exec (.sfree d) st = execSfree d st := rfl
@[simp] theorem exec_send (a b : BitVec 6) (c : BitVec 8) : exec (.send a b c) st = execSend a b c st := rfl
@[simp] theorem exec_rld (d a : BitVec 6) (s : BitVec 2) (o c : BitVec 3) (f : BitVec 6) : exec (.rld d a s o c f) st = execRld d a s o c f st := rfl
@[simp] theorem exec_rst (d a : BitVec 6) (s : BitVec 2) (o c : BitVec 3) (f : BitVec 6) : exec (.rst d a s o c f) st = execRst d a s o c f st := rfl
@[simp] theorem exec_ramo (d a b : BitVec 6) (p : BitVec 4) (o z : BitVec 2) : exec (.ramo d a b p o z) st = execRamo d a b p o z st := rfl
@[simp] theorem exec_mwait : exec .mwait st = execMwait st := rfl
@[simp] theorem exec_mpop (d : BitVec 6) : exec (.mpop d) st = execMpop d st := rfl
@[simp] theorem exec_cntw (a k : BitVec 6) (h : BitVec 2) : exec (.cntw a k h) st = execCntw a k h st := rfl
@[simp] theorem exec_cntr (d k : BitVec 6) (h : BitVec 2) : exec (.cntr d k h) st = execCntr d k h st := rfl
@[simp] theorem exec_cnts (a k : BitVec 6) (h : BitVec 2) : exec (.cnts a k h) st = execCnts a k h st := rfl
@[simp] theorem exec_cnta (a k : BitVec 6) (h : BitVec 2) : exec (.cnta a k h) st = execCnta a k h st := rfl
@[simp] theorem exec_cbadvP (a : BitVec 6) (n : BitVec 4) : exec (.cbadvP a n) st = execCbadvP a n st := rfl
@[simp] theorem exec_cbadvC (a : BitVec 6) (n : BitVec 4) : exec (.cbadvC a n) st = execCbadvC a n st := rfl
@[simp] theorem exec_spawn (d a b : BitVec 6) : exec (.spawn d a b) st = execSpawn d a b st := rfl
@[simp] theorem exec_spawnP (d a b : BitVec 6) (p : BitVec 7) : exec (.spawnP d a b p) st = execSpawnP d a b p st := rfl
@[simp] theorem exec_suspMbox : exec .suspMbox st = execSuspMbox st := rfl
@[simp] theorem exec_suspCnt (a : BitVec 6) (k : BitVec 8) : exec (.suspCnt a k) st = execSuspCnt a k st := rfl
@[simp] theorem exec_suspJob (a : BitVec 6) : exec (.suspJob a) st = execSuspJob a st := rfl
@[simp] theorem exec_suspStrm (n : BitVec 3) : exec (.suspStrm n) st = execSuspStrm n st := rfl
@[simp] theorem exec_suspTime (a : BitVec 6) : exec (.suspTime a) st = execSuspTime a st := rfl
@[simp] theorem exec_suspReply : exec .suspReply st = execSuspReply st := rfl
@[simp] theorem exec_yield : exec .yield st = execYield st := rfl
@[simp] theorem exec_exit : exec .exit st = execExit st := rfl
@[simp] theorem exec_join (a : BitVec 6) : exec (.join a) st = execJoin a st := rfl
@[simp] theorem exec_leave (a : BitVec 6) : exec (.leave a) st = execLeave a st := rfl
@[simp] theorem exec_hbar (a : BitVec 6) : exec (.hbar a) st = execHbar a st := rfl
@[simp] theorem exec_hbarArrive (a : BitVec 6) : exec (.hbarArrive a) st = execHbarArrive a st := rfl
@[simp] theorem exec_hbarWait (a : BitVec 6) : exec (.hbarWait a) st = execHbarWait a st := rfl
@[simp] theorem exec_gang (n : BitVec 3) : exec (.gang n) st = execGang n st := rfl
@[simp] theorem exec_gangF : exec .gangF st = execGangF st := rfl
@[simp] theorem exec_ungang : exec .ungang st = execUngang st := rfl
@[simp] theorem exec_jwait (a : BitVec 6) : exec (.jwait a) st = execJwait a st := rfl
@[simp] theorem exec_jpoll (d a : BitVec 6) : exec (.jpoll d a) st = execJpoll d a st := rfl
@[simp] theorem exec_whistle (a : BitVec 6) : exec (.whistle a) st = execWhistle a st := rfl
@[simp] theorem exec_ssend (a : BitVec 6) : exec (.ssend a) st = execSsend a st := rfl
@[simp] theorem exec_srecv (a : BitVec 6) : exec (.srecv a) st = execSrecv a st := rfl
@[simp] theorem exec_vadd (d a b : BitVec 4) (e : BitVec 2) (m s t : BitVec 1) (h c : BitVec 2) : exec (.vadd d a b e m s t h c) st = execVadd d a b e m s t h c st := rfl
@[simp] theorem exec_vsub (d a b : BitVec 4) (e : BitVec 2) (m s t : BitVec 1) (h c : BitVec 2) : exec (.vsub d a b e m s t h c) st = execVsub d a b e m s t h c st := rfl
@[simp] theorem exec_vmul (d a b : BitVec 4) (e : BitVec 2) (m s t : BitVec 1) (h c : BitVec 2) : exec (.vmul d a b e m s t h c) st = execVmul d a b e m s t h c st := rfl
@[simp] theorem exec_vfma (d a b : BitVec 4) (e : BitVec 2) (m s t : BitVec 1) (h c : BitVec 2) : exec (.vfma d a b e m s t h c) st = execVfma d a b e m s t h c st := rfl
@[simp] theorem exec_vmin (d a b : BitVec 4) (e : BitVec 2) (m s t : BitVec 1) (h c : BitVec 2) : exec (.vmin d a b e m s t h c) st = execVmin d a b e m s t h c st := rfl
@[simp] theorem exec_vmax (d a b : BitVec 4) (e : BitVec 2) (m s t : BitVec 1) (h c : BitVec 2) : exec (.vmax d a b e m s t h c) st = execVmax d a b e m s t h c st := rfl
@[simp] theorem exec_vand (d a b : BitVec 4) (e : BitVec 2) (m s t : BitVec 1) (h c : BitVec 2) : exec (.vand d a b e m s t h c) st = execVand d a b e m s t h c st := rfl
@[simp] theorem exec_vor (d a b : BitVec 4) (e : BitVec 2) (m s t : BitVec 1) (h c : BitVec 2) : exec (.vor d a b e m s t h c) st = execVor d a b e m s t h c st := rfl
@[simp] theorem exec_vxor (d a b : BitVec 4) (e : BitVec 2) (m s t : BitVec 1) (h c : BitVec 2) : exec (.vxor d a b e m s t h c) st = execVxor d a b e m s t h c st := rfl
@[simp] theorem exec_vshl (d a b : BitVec 4) (e : BitVec 2) (m s t : BitVec 1) (h c : BitVec 2) : exec (.vshl d a b e m s t h c) st = execVshl d a b e m s t h c st := rfl
@[simp] theorem exec_vshr (d a b : BitVec 4) (e : BitVec 2) (m s t : BitVec 1) (h c : BitVec 2) : exec (.vshr d a b e m s t h c) st = execVshr d a b e m s t h c st := rfl
@[simp] theorem exec_vsel (d a b : BitVec 4) (e : BitVec 2) (m s t : BitVec 1) (h c : BitVec 2) : exec (.vsel d a b e m s t h c) st = execVsel d a b e m s t h c st := rfl
@[simp] theorem exec_vset (c a b : BitVec 4) (e : BitVec 2) (m s t : BitVec 1) (h k : BitVec 2) : exec (.vset c a b e m s t h k) st = execVset c a b e m s t h k st := rfl
@[simp] theorem exec_vexp (d a : BitVec 4) (e : BitVec 2) (m t : BitVec 1) (c : BitVec 2) : exec (.vexp d a e m t c) st = execVexp d a e m t c st := rfl
@[simp] theorem exec_vrcp (d a : BitVec 4) (e : BitVec 2) (m t : BitVec 1) (c : BitVec 2) : exec (.vrcp d a e m t c) st = execVrcp d a e m t c st := rfl
@[simp] theorem exec_vrsq (d a : BitVec 4) (e : BitVec 2) (m t : BitVec 1) (c : BitVec 2) : exec (.vrsq d a e m t c) st = execVrsq d a e m t c st := rfl
@[simp] theorem exec_vredAdd (d a : BitVec 4) (e : BitVec 2) (m t : BitVec 1) (c : BitVec 2) : exec (.vredAdd d a e m t c) st = execVredAdd d a e m t c st := rfl
@[simp] theorem exec_vredMin (d a : BitVec 4) (e : BitVec 2) (m t : BitVec 1) (c : BitVec 2) : exec (.vredMin d a e m t c) st = execVredMin d a e m t c st := rfl
@[simp] theorem exec_vredMax (d a : BitVec 4) (e : BitVec 2) (m t : BitVec 1) (c : BitVec 2) : exec (.vredMax d a e m t c) st = execVredMax d a e m t c st := rfl
@[simp] theorem exec_vperm (d a b : BitVec 4) (e : BitVec 2) (m s t : BitVec 1) (h : BitVec 2) : exec (.vperm d a b e m s t h) st = execVperm d a b e m s t h st := rfl
@[simp] theorem exec_vbcast (d a b : BitVec 4) (e : BitVec 2) (m s t : BitVec 1) (h c : BitVec 2) : exec (.vbcast d a b e m s t h c) st = execVbcast d a b e m s t h c st := rfl
@[simp] theorem exec_vidx (d : BitVec 4) (e : BitVec 2) (m t : BitVec 1) : exec (.vidx d e m t) st = execVidx d e m t st := rfl
@[simp] theorem exec_vmovg (d k b : BitVec 4) (e : BitVec 2) (t : BitVec 1) (h : BitVec 2) : exec (.vmovg d k b e t h) st = execVmovg d k b e t h st := rfl
@[simp] theorem exec_vcvt (d a s : BitVec 4) (m t : BitVec 1) (e : BitVec 4) : exec (.vcvt d a s m t e) st = execVcvt d a s m t e st := rfl
@[simp] theorem exec_vld (d : BitVec 4) (a : BitVec 6) (e : BitVec 2) (o : BitVec 6) (m : BitVec 1) : exec (.vld d a e o m) st = execVld d a e o m st := rfl
@[simp] theorem exec_vst (d : BitVec 4) (a : BitVec 6) (e : BitVec 2) (o : BitVec 6) (m : BitVec 1) : exec (.vst d a e o m) st = execVst d a e o m st := rfl
@[simp] theorem exec_vldShape (d : BitVec 4) (a : BitVec 6) (e : BitVec 2) (o : BitVec 6) (n : BitVec 5) (m : BitVec 1) : exec (.vldShape d a e o n m) st = execVldShape d a e o n m st := rfl
@[simp] theorem exec_vstShape (d : BitVec 4) (a : BitVec 6) (e : BitVec 2) (o : BitVec 6) (n : BitVec 5) (m : BitVec 1) : exec (.vstShape d a e o n m) st = execVstShape d a e o n m st := rfl
@[simp] theorem exec_vseq (l b : BitVec 4) (h : BitVec 2) : exec (.vseq l b h) st = execVseq l b h st := rfl
@[simp] theorem exec_vsetl (b : BitVec 4) (h : BitVec 2) : exec (.vsetl b h) st = execVsetl b h st := rfl
@[simp] theorem exec_ckpt (i : BitVec 20) : exec (.ckpt i) st = execCkpt i st := rfl
@[simp] theorem exec_csrr (d : BitVec 6) (n : BitVec 12) : exec (.csrr d n) st = execCsrr d n st := rfl
@[simp] theorem exec_csrw (a : BitVec 6) (n : BitVec 12) : exec (.csrw a n) st = execCsrw a n st := rfl
@[simp] theorem exec_csrx (d a : BitVec 6) (n : BitVec 12) : exec (.csrx d a n) st = execCsrx d a n st := rfl
@[simp] theorem exec_trap (c : BitVec 12) : exec (.trap c) st = execTrap c st := rfl
@[simp] theorem exec_eret : exec .eret st = execEret st := rfl
@[simp] theorem exec_idle : exec .idle st = execIdle st := rfl
@[simp] theorem exec_synci (a : BitVec 6) : exec (.synci a) st = execSynci a st := rfl
@[simp] theorem exec_tlbi (a : BitVec 6) : exec (.tlbi a) st = execTlbi a st := rfl
@[simp] theorem exec_mma (c : Tile) : exec (.mma c) st = execMma c st := rfl
@[simp] theorem exec_accrd (c : Tile) : exec (.accrd c) st = execAccrd c st := rfl
@[simp] theorem exec_accrel (c : Tile) : exec (.accrel c) st = execAccrel c st := rfl
@[simp] theorem exec_outer (c : Tile) : exec (.outer c) st = execOuter c st := rfl
@[simp] theorem exec_fold (c : Tile) : exec (.fold c) st = execFold c st := rfl
@[simp] theorem exec_scan (c : Tile) : exec (.scan c) st = execScan c st := rfl
@[simp] theorem exec_zip (c : Tile) : exec (.zip c) st = execZip c st := rfl
@[simp] theorem exec_copy (c : Tile) : exec (.copy c) st = execCopy c st := rfl
@[simp] theorem exec_get (c : Tile) : exec (.get c) st = execGet c st := rfl
@[simp] theorem exec_put (c : Tile) : exec (.put c) st = execPut c st := rfl
@[simp] theorem exec_putAdd (c : Tile) : exec (.putAdd c) st = execPutAdd c st := rfl
@[simp] theorem exec_pack (c : Tile) : exec (.pack c) st = execPack c st := rfl
@[simp] theorem exec_compact (c : Tile) : exec (.compact c) st = execCompact c st := rfl
@[simp] theorem exec_qfence (c : Tile) : exec (.qfence c) st = execQfence c st := rfl
@[simp] theorem exec_lookup (c : Tile) : exec (.lookup c) st = execLookup c st := rfl
@[simp] theorem exec_coll (c : Tile) : exec (.coll c) st = execColl c st := rfl
@[simp] theorem exec_rmov (t a : BitVec 3) : exec (.rmov t a) st = execRmov t a st := rfl
@[simp] theorem exec_radd (t a b : BitVec 3) : exec (.radd t a b) st = execRadd t a b st := rfl
@[simp] theorem exec_rsub (t a b : BitVec 3) : exec (.rsub t a b) st = execRsub t a b st := rfl
@[simp] theorem exec_rmul (t a b : BitVec 3) : exec (.rmul t a b) st = execRmul t a b st := rfl
@[simp] theorem exec_rfma (t a b : BitVec 3) : exec (.rfma t a b) st = execRfma t a b st := rfl
@[simp] theorem exec_rmin (t a b : BitVec 3) : exec (.rmin t a b) st = execRmin t a b st := rfl
@[simp] theorem exec_rmax (t a b : BitVec 3) : exec (.rmax t a b) st = execRmax t a b st := rfl
@[simp] theorem exec_rneg (t a : BitVec 3) : exec (.rneg t a) st = execRneg t a st := rfl
@[simp] theorem exec_rabs (t a : BitVec 3) : exec (.rabs t a) st = execRabs t a st := rfl
@[simp] theorem exec_rcmplt (t a b : BitVec 3) : exec (.rcmplt t a b) st = execRcmplt t a b st := rfl
@[simp] theorem exec_rcmpeq (t a b : BitVec 3) : exec (.rcmpeq t a b) st = execRcmpeq t a b st := rfl
@[simp] theorem exec_rsel (t a b : BitVec 3) : exec (.rsel t a b) st = execRsel t a b st := rfl
@[simp] theorem exec_rand (t a b : BitVec 3) : exec (.rand t a b) st = execRand t a b st := rfl
@[simp] theorem exec_ror (t a b : BitVec 3) : exec (.ror t a b) st = execRor t a b st := rfl
@[simp] theorem exec_rxor (t a b : BitVec 3) : exec (.rxor t a b) st = execRxor t a b st := rfl
@[simp] theorem exec_rshl (t a b : BitVec 3) : exec (.rshl t a b) st = execRshl t a b st := rfl
@[simp] theorem exec_rshr (t a b : BitVec 3) (m : BitVec 1) : exec (.rshr t a b m) st = execRshr t a b m st := rfl
@[simp] theorem exec_rcvt (t a g : BitVec 3) : exec (.rcvt t a g) st = execRcvt t a g st := rfl
@[simp] theorem exec_rexp (t a : BitVec 3) : exec (.rexp t a) st = execRexp t a st := rfl
@[simp] theorem exec_rconst (l : BitVec 16) (t : BitVec 3) : exec (.rconst l t) st = execRconst l t st := rfl
@[simp] theorem exec_rret : exec .rret st = execRret st := rfl
@[simp] theorem exec_slotStallEnd : exec .slotStallEnd st = execSlotStallEnd st := rfl
@[simp] theorem exec_vectorEntryBind (quire core lane : Nat) : exec (.vectorEntryBind quire core lane) st = execVectorEntryBind quire core lane st := rfl
@[simp] theorem exec_trapEntry : exec .trapEntry st = execTrapEntry st := rfl
@[simp] theorem exec_writeBack : exec .writeBack st = execWriteBack st := rfl
@[simp] theorem exec_wakeUp (launch tid : Nat) : exec (.wakeUp launch tid) st = execWakeUp launch tid st := rfl
@[simp] theorem exec_pickup (quire core slot : Nat) : exec (.pickup quire core slot) st = execPickup quire core slot st := rfl
@[simp] theorem exec_preemptionRequest (launch tid : Nat) : exec (.preemptionRequest launch tid) st = execPreemptionRequest launch tid st := rfl
@[simp] theorem exec_forcedSave : exec .forcedSave st = execForcedSave st := rfl
@[simp] theorem exec_accountingRound : exec .accountingRound st = execAccountingRound st := rfl
@[simp] theorem exec_jobStart (cls unit core : Nat) : exec (.jobStart cls unit core) st = execJobStart cls unit core st := rfl
@[simp] theorem exec_ticketGrant (job : Nat) : exec (.ticketGrant job) st = execTicketGrant job st := rfl
@[simp] theorem exec_srcFree (job : Nat) : exec (.srcFree job) st = execSrcFree job st := rfl
@[simp] theorem exec_visible (job : Nat) : exec (.visible job) st = execVisible job st := rfl
@[simp] theorem exec_jobDone (job : Nat) : exec (.jobDone job) st = execJobDone job st := rfl
@[simp] theorem exec_copyStreamElement (job member : Nat) : exec (.copyStreamElement job member) st = execCopyStreamElement job member st := rfl
@[simp] theorem exec_messageArrival (ctx : BitVec 6) (chan : BitVec 8) (quire core : Nat) (payload : Word) : exec (.messageArrival ctx chan quire core payload) st = execMessageArrival ctx chan quire core payload st := rfl
@[simp] theorem exec_remoteRequest (n : Nat) : exec (.remoteRequest n) st = execRemoteRequest n st := rfl
@[simp] theorem exec_rldReply (n : Nat) (data : Word) : exec (.rldReply n data) st = execRldReply n data st := rfl
@[simp] theorem exec_rstAcknowledgement (n : Nat) : exec (.rstAcknowledgement n) st = execRstAcknowledgement n st := rfl
@[simp] theorem exec_ramoReply (n : Nat) (data : Word) : exec (.ramoReply n data) st = execRamoReply n data st := rfl
@[simp] theorem exec_faultReply (n : Nat) (reason : BitVec 4) : exec (.faultReply n reason) st = execFaultReply n reason st := rfl
@[simp] theorem exec_remoteTimeout (n : Nat) : exec (.remoteTimeout n) st = execRemoteTimeout n st := rfl
@[simp] theorem exec_flitReceive (port : Nat) (flit : List Byte) : exec (.flitReceive port flit) st = execFlitReceive port flit st := rfl
@[simp] theorem exec_linkRetrain (port : Nat) (ok : Bool) : exec (.linkRetrain port ok) st = execLinkRetrain port ok st := rfl
@[simp] theorem exec_routeChange (pkg : BitVec 12) (route : Nat) : exec (.routeChange pkg route) st = execRouteChange pkg route st := rfl
@[simp] theorem exec_timeSync (reference : Nat) (held : Bool) : exec (.timeSync reference held) st = execTimeSync reference held st := rfl
@[simp] theorem exec_tlbiAcknowledgement : exec .tlbiAcknowledgement st = execTlbiAcknowledgement st := rfl
@[simp] theorem exec_parkedWalkRetry : exec .parkedWalkRetry st = execParkedWalkRetry st := rfl
@[simp] theorem exec_migrationTimeout : exec .migrationTimeout st = execMigrationTimeout st := rfl
@[simp] theorem exec_doorbell (fn queue : Nat) (value : Word) : exec (.doorbell fn queue value) st = execDoorbell fn queue value st := rfl
@[simp] theorem exec_launchPacket (queue : Nat) : exec (.launchPacket queue) st = execLaunchPacket queue st := rfl
@[simp] theorem exec_counterWait (queue : Nat) : exec (.counterWait queue) st = execCounterWait queue st := rfl
@[simp] theorem exec_valueWrite (queue : Nat) : exec (.valueWrite queue) st = execValueWrite queue st := rfl
@[simp] theorem exec_noOp (queue : Nat) : exec (.noOp queue) st = execNoOp queue st := rfl
@[simp] theorem exec_launchStatusWrite (launch : Nat) : exec (.launchStatusWrite launch) st = execLaunchStatusWrite launch st := rfl
@[simp] theorem exec_qctlEnable (fn queue : Nat) (value : Word) : exec (.qctlEnable fn queue value) st = execQctlEnable fn queue value st := rfl
@[simp] theorem exec_qschedWrite (fn queue : Nat) (value : Word) : exec (.qschedWrite fn queue value) st = execQschedWrite fn queue value st := rfl
@[simp] theorem exec_tierwWrite (fn : Nat) (value : Word) : exec (.tierwWrite fn value) st = execTierwWrite fn value st := rfl
@[simp] theorem exec_resmapMark (value : Word) : exec (.resmapMark value) st = execResmapMark value st := rfl
@[simp] theorem exec_resmapUnmark (value : Word) : exec (.resmapUnmark value) st = execResmapUnmark value st := rfl
@[simp] theorem exec_resmapSetQuota (value : Word) : exec (.resmapSetQuota value) st = execResmapSetQuota value st := rfl
@[simp] theorem exec_cntwinWrite (value : Word) : exec (.cntwinWrite value) st = execCntwinWrite value st := rfl
@[simp] theorem exec_asidctlWrite (value : Word) : exec (.asidctlWrite value) st = execAsidctlWrite value st := rfl
@[simp] theorem exec_rankcntWrite (value : Word) : exec (.rankcntWrite value) st = execRankcntWrite value st := rfl
@[simp] theorem exec_bdtabWrite (value : Word) : exec (.bdtabWrite value) st = execBdtabWrite value st := rfl
@[simp] theorem exec_prioWrite (value : Word) : exec (.prioWrite value) st = execPrioWrite value st := rfl
@[simp] theorem exec_registerWrite (fn pa : Nat) (value : Word) : exec (.registerWrite fn pa value) st = execRegisterWrite fn pa value st := rfl
@[simp] theorem exec_collcanWrite (fn : Nat) (value : Word) : exec (.collcanWrite fn value) st = execCollcanWrite fn value st := rfl
@[simp] theorem exec_attestationGo (fn : Nat) (value : Word) : exec (.attestationGo fn value) st = execAttestationGo fn value st := rfl
@[simp] theorem exec_attestationReport : exec .attestationReport st = execAttestationReport st := rfl
@[simp] theorem exec_pwrctlStateWrite (fn island : Nat) (value : Word) : exec (.pwrctlStateWrite fn island value) st = execPwrctlStateWrite fn island value st := rfl
@[simp] theorem exec_pwrctlFstepWrite (fn island : Nat) (value : Word) : exec (.pwrctlFstepWrite fn island value) st = execPwrctlFstepWrite fn island value st := rfl
@[simp] theorem exec_dvfsChange (island : Nat) : exec (.dvfsChange island) st = execDvfsChange island st := rfl
@[simp] theorem exec_throttle (island : Nat) (step : BitVec 4) : exec (.throttle island step) st = execThrottle island step st := rfl
@[simp] theorem exec_rasCounterClear (fn k : Nat) : exec (.rasCounterClear fn k) st = execRasCounterClear fn k st := rfl
@[simp] theorem exec_scrub (pa : Nat) : exec (.scrub pa) st = execScrub pa st := rfl
@[simp] theorem exec_boot : exec .boot st = execBoot st := rfl
@[simp] theorem exec_registration (commid key : BitVec 32) (members : List Member) (who : Member) (deadline : Word) : exec (.registration commid key members who deadline) st = execRegistration commid key members who deadline st := rfl
@[simp] theorem exec_start (die : Nat) : exec (.start die) st = execStart die st := rfl
@[simp] theorem exec_blockFinal (job source : Nat) : exec (.blockFinal job source) st = execBlockFinal job source st := rfl
@[simp] theorem exec_numberClose (num : BitVec 32) : exec (.numberClose num) st = execNumberClose num st := rfl
@[simp] theorem exec_deadlineCancel (num : BitVec 32) : exec (.deadlineCancel num) st = execDeadlineCancel num st := rfl
@[simp] theorem exec_cancelClose (num : BitVec 32) : exec (.cancelClose num) st = execCancelClose num st := rfl
@[simp] theorem exec_failover : exec .failover st = execFailover st := rfl
@[simp] theorem exec_domainRelease (domain : Nat) : exec (.domainRelease domain) st = execDomainRelease domain st := rfl
@[simp] theorem exec_phaseClose (domain : Nat) : exec (.phaseClose domain) st = execPhaseClose domain st := rfl
@[simp] theorem exec_releaseTimeout (domain : Nat) : exec (.releaseTimeout domain) st = execReleaseTimeout domain st := rfl
@[simp] theorem exec_scheduledElement (quire core port : Nat) (payload : Word) : exec (.scheduledElement quire core port payload) st = execScheduledElement quire core port payload st := rfl
@[simp] theorem exec_vectorEntryCompletion (quire lane : Nat) : exec (.vectorEntryCompletion quire lane) st = execVectorEntryCompletion quire lane st := rfl
@[simp] theorem exec_scheduledElementSend (quire core : Nat) : exec (.scheduledElementSend quire core) st = execScheduledElementSend quire core st := rfl
@[simp] theorem exec_windowVisible (job : Nat) : exec (.windowVisible job) st = execWindowVisible job st := rfl
@[simp] theorem exec_ownerCancel (commid key : BitVec 32) : exec (.ownerCancel commid key) st = execOwnerCancel commid key st := rfl
@[simp] theorem exec_packageFailure (pkg : BitVec 12) : exec (.packageFailure pkg) st = execPackageFailure pkg st := rfl
@[simp] theorem exec_hwReplication : exec .hwReplication st = execHwReplication st := rfl

end Sys2Proof.Machine
end

