-- ==== Sys2Proof/Laws/Memory.lean ====
section
/-!
SUPPORT. The laws of sparse tables and of memory: what reads as what after a write, and that every
operation keeps the canonical form (R5, R43).
-/
namespace Sys2Proof.Machine

/-! ## Sparse tables -/

section
variable {α : Type} [DecidableEq α] {d : α}

theorem sparseGet_below {l : List (Nat × α)} {lo a : Nat} (h : sparseFrom d lo l = true) (ha : a < lo) :
    sparseGet d l a = d := by
  induction l generalizing lo with
  | nil => rfl
  | cons p r ih =>
    obtain ⟨k, v⟩ := p
    simp only [sparseFrom, Bool.and_eq_true, decide_eq_true_eq] at h
    have hk : k ≠ a := by omega
    simp only [sparseGet, if_neg hk]
    exact ih h.2 (by omega)

/-- A read after a write: the value at the place, what was there elsewhere. -/
theorem sparseGet_set {l : List (Nat × α)} {lo : Nat} (h : sparseFrom d lo l = true) (a b : Nat) (x : α) :
    sparseGet d (sparseSet d l a x) b = if b = a then x else sparseGet d l b := by
  induction l generalizing lo with
  | nil =>
    unfold sparseSet
    split <;> rename_i hx
    · subst hx; simp [sparseGet]
    · simp [sparseGet, eq_comm]
  | cons p r ih =>
    obtain ⟨k, v⟩ := p
    simp only [sparseFrom, Bool.and_eq_true, decide_eq_true_eq] at h
    simp only [sparseSet]
    have below : ∀ {c}, c ≤ k → sparseGet d r c = d := fun hc => sparseGet_below h.2 (by omega)
    split
    · rename_i hak
      split <;> rename_i hx
      · split
        · rename_i hb; subst hb; subst hx
          have hk : k ≠ b := by omega
          simp [sparseGet, hk, below (Nat.le_of_lt hak)]
        · rfl
      · simp only [sparseGet, eq_comm (a := a)]
    · split
      · rename_i hak; subst hak
        split <;> rename_i hx
        · by_cases hb : b = a
          · subst hb; simp [below (Nat.le_refl _), hx]
          · simp [sparseGet, hb, Ne.symm hb]
        · by_cases hb : b = a
          · subst hb; simp [sparseGet]
          · simp [sparseGet, hb, Ne.symm hb]
      · by_cases hb : b = k
        · subst hb
          have : b ≠ a := by omega
          simp [sparseGet, this]
        · simp [sparseGet, Ne.symm hb, ih h.2]

/-- A write keeps the canonical form. -/
theorem sparseFrom_set {l : List (Nat × α)} {lo : Nat} (h : sparseFrom d lo l = true) (a : Nat) (ha : lo ≤ a) (x : α) :
    sparseFrom d lo (sparseSet d l a x) = true := by
  induction l generalizing lo with
  | nil => unfold sparseSet; split <;> simp_all [sparseFrom]
  | cons p r ih =>
    obtain ⟨k, v⟩ := p
    have h' := h
    simp only [sparseFrom, Bool.and_eq_true, decide_eq_true_eq] at h
    simp only [sparseSet]
    split
    · split
      · exact h'
      · rename_i hak hx
        simp only [sparseFrom, Bool.and_eq_true, decide_eq_true_eq]
        exact ⟨⟨ha, hx⟩, ⟨by omega, h.1.2⟩, h.2⟩
    · split
      · rename_i hak; subst hak
        split
        · exact sparseFrom_weaken h.2 (by omega)
        · rename_i hx
          simp only [sparseFrom, Bool.and_eq_true, decide_eq_true_eq]
          exact ⟨⟨ha, hx⟩, h.2⟩
      · simp only [sparseFrom, Bool.and_eq_true, decide_eq_true_eq]
        exact ⟨h.1, ih h.2 (by omega)⟩
where
  sparseFrom_weaken {l : List (Nat × α)} {lo lo' : Nat} (h : sparseFrom d lo l = true) (hl : lo' ≤ lo) :
      sparseFrom d lo' l = true := by
    cases l with
    | nil => rfl
    | cons p r =>
      simp only [sparseFrom, Bool.and_eq_true, decide_eq_true_eq] at h ⊢
      exact ⟨⟨by omega, h.1.2⟩, h.2⟩

end

/-! ## Rising lists -/

theorem setFrom_weaken {l : List Nat} {lo lo' : Nat} (h : setFrom lo l = true) (hl : lo' ≤ lo) :
    setFrom lo' l = true := by
  cases l with
  | nil => rfl
  | cons k r =>
    simp only [setFrom, Bool.and_eq_true, decide_eq_true_eq] at h ⊢
    exact ⟨by omega, h.2⟩

theorem setHas_below {l : List Nat} {lo a : Nat} (h : setFrom lo l = true) (ha : a < lo) : setHas l a = false := by
  induction l generalizing lo with
  | nil => rfl
  | cons k r ih =>
    simp only [setFrom, Bool.and_eq_true, decide_eq_true_eq] at h
    have : k ≠ a := by omega
    simp [setHas, this, ih h.2 (by omega)]

theorem setFrom_insert {l : List Nat} {lo : Nat} (h : setFrom lo l = true) (a : Nat) (ha : lo ≤ a) :
    setFrom lo (setInsert l a) = true := by
  induction l generalizing lo with
  | nil => simp [setInsert, setFrom, ha]
  | cons k r ih =>
    have h' := h
    simp only [setFrom, Bool.and_eq_true, decide_eq_true_eq] at h
    simp only [setInsert]
    split
    · simp only [setFrom, Bool.and_eq_true, decide_eq_true_eq]; exact ⟨ha, by omega, h.2⟩
    · split
      · exact h'
      · simp only [setFrom, Bool.and_eq_true, decide_eq_true_eq]
        exact ⟨h.1, ih h.2 (by omega)⟩

theorem setFrom_remove {l : List Nat} {lo : Nat} (h : setFrom lo l = true) (a : Nat) :
    setFrom lo (setRemove l a) = true := by
  induction l generalizing lo with
  | nil => rfl
  | cons k r ih =>
    have h' := h
    simp only [setFrom, Bool.and_eq_true, decide_eq_true_eq] at h
    simp only [setRemove]
    split
    · exact setFrom_weaken h.2 (by omega)
    · split
      · exact h'
      · simp only [setFrom, Bool.and_eq_true, decide_eq_true_eq]
        exact ⟨h.1, ih h.2⟩

theorem setHas_insert {l : List Nat} (a b : Nat) :
    setHas (setInsert l a) b = (decide (b = a) || setHas l b) := by
  induction l with
  | nil => simp [setInsert, setHas, eq_comm]
  | cons k r ih =>
    simp only [setInsert]
    split
    · simp [setHas, eq_comm]
    · split
      · rename_i h; subst h
        by_cases hb : a = b <;> simp [setHas, hb, eq_comm]
      · simp only [setHas, ih]
        by_cases hb : b = a <;> simp [hb]

theorem setHas_remove {l : List Nat} {lo : Nat} (h : setFrom lo l = true) (a b : Nat) :
    setHas (setRemove l a) b = (decide (b ≠ a) && setHas l b) := by
  induction l generalizing lo with
  | nil => simp [setRemove, setHas]
  | cons k r ih =>
    simp only [setFrom, Bool.and_eq_true, decide_eq_true_eq] at h
    simp only [setRemove]
    split
    · rename_i hk; subst hk
      by_cases hb : b = a
      · subst hb; simp [setHas_below h.2]
      · simp [setHas, hb, Ne.symm hb]
    · split
      · rename_i hk ha
        by_cases hb : b = a
        · subst hb
          simp [setHas, Ne.symm hk, setHas_below h.2 (show b < k + 1 by omega)]
        · simp [hb]
      · simp only [setHas, ih h.2]
        by_cases hb : b = a
        · subst hb; rename_i hk _; simp [Ne.symm hk]
        · simp [hb]

/-! ## Memory -/

theorem Memory.wf_iff {m : Memory} : m.wf = true ↔ sparseFrom unlisted 0 m.cells = true ∧ setFrom 0 m.tags = true := by
  simp [Memory.wf]

theorem Memory.reset_wf : (State.reset).mem.wf = true := rfl

theorem Memory.write_wf {m : Memory} (h : m.wf = true) (a : Nat) (b : Byte) : (m.write a b).wf = true := by
  rw [Memory.wf_iff] at h ⊢
  exact ⟨sparseFrom_set h.1 a (Nat.zero_le _) b, setFrom_remove h.2 _⟩

theorem Memory.writeBytes_wf {m : Memory} (h : m.wf = true) (a : Nat) (bs : List Byte) : (m.writeBytes a bs).wf = true := by
  induction bs generalizing m a with
  | nil => exact h
  | cons b bs ih => exact ih (Memory.write_wf h a b) (a + 1)

theorem Memory.writeNat_wf {m : Memory} (h : m.wf = true) (a n x : Nat) : (m.writeNat a n x).wf = true :=
  Memory.writeBytes_wf h a _

theorem Memory.setTag_wf {m : Memory} (h : m.wf = true) (a : Nat) (t : Bool) : (m.setTag a t).wf = true := by
  rw [Memory.wf_iff] at h ⊢
  refine ⟨h.1, ?_⟩
  unfold Memory.setTag
  cases t
  · exact setFrom_remove h.2 _
  · exact setFrom_insert h.2 _ (Nat.zero_le _)

theorem Memory.writeCap_wf {m : Memory} (h : m.wf = true) (a : Nat) (r : Reg) : (m.writeCap a r).wf = true :=
  Memory.setTag_wf (Memory.writeNat_wf h a 16 _) a r.tag

/-- A byte read after a byte written. -/
theorem Memory.read_write {m : Memory} (h : m.wf = true) (a b : Nat) (x : Byte) :
    (m.write a x).read b = if b = a then x else m.read b := sparseGet_set (Memory.wf_iff.mp h).1 a b x

/-- A byte read after a list of bytes written: the list's inside, what was there outside. -/
theorem Memory.read_writeBytes {m : Memory} (h : m.wf = true) (a b : Nat) (bs : List Byte) :
    (m.writeBytes a bs).read b = if a ≤ b ∧ b < a + bs.length then bs.getD (b - a) 0 else m.read b := by
  induction bs generalizing m a with
  | nil => simp [Memory.writeBytes] <;> omega
  | cons x bs ih =>
    rw [Memory.writeBytes, ih (Memory.write_wf h a x), Memory.read_write h, List.length_cons]
    by_cases hb : b = a
    · subst hb; rw [if_neg (by omega), if_pos rfl, if_pos (by omega)]; simp
    · by_cases hin : a ≤ b ∧ b < a + (bs.length + 1)
      · rw [if_pos (by omega), if_pos hin]
        obtain ⟨n, rfl⟩ : ∃ n, b = a + 1 + n := ⟨b - a - 1, by omega⟩
        have h1 : a + 1 + n - (a + 1) = n := by omega
        have h2 : a + 1 + n - a = n + 1 := by omega
        rw [h1, h2]; simp
      · rw [if_neg (by omega), if_neg hb, if_neg hin]

theorem Memory.read_setTag (m : Memory) (a b : Nat) (t : Bool) : (m.setTag a t).read b = m.read b := rfl

theorem toBytesLE_length (n x : Nat) : (toBytesLE n x).length = n := by
  induction n generalizing x with
  | zero => rfl
  | succ n ih => simp [toBytesLE, ih]

theorem ofBytesLE_toBytesLE (n x : Nat) : ofBytesLE (toBytesLE n x) = x % 256 ^ n := by
  induction n generalizing x with
  | zero => simp [toBytesLE, ofBytesLE, Nat.mod_one]
  | succ n ih =>
    rw [toBytesLE, ofBytesLE, ih, BitVec.toNat_ofNat, Nat.pow_succ 256 n, Nat.mul_comm (256 ^ n) 256, Nat.mod_mul]

/-- Bytes read where a list of bytes has just been written. -/
theorem Memory.readBytes_writeBytes {m : Memory} (h : m.wf = true) (a : Nat) (bs : List Byte) :
    (m.writeBytes a bs).readBytes a bs.length = bs := by
  suffices ∀ (k : Nat) (cs : List Byte), cs = bs.drop k → k + cs.length = bs.length →
      (m.writeBytes a bs).readBytes (a + k) cs.length = cs from this 0 bs (by simp) (by simp)
  intro k cs
  induction cs generalizing k with
  | nil => intros; rfl
  | cons c cs ih =>
    intro hc hl
    simp only [List.length_cons] at hl ⊢
    rw [Memory.readBytes, Memory.read_writeBytes h, if_pos (by omega)]
    have hk : a + k - a = k := by omega
    have hget : bs.getD k 0 = c := by
      have := congrArg (fun l => l.getD 0 0) hc
      simpa using this.symm
    rw [hk, hget, Nat.add_assoc, ih (k + 1) ?_ (by omega)]
    have := congrArg List.tail hc
    simpa [List.tail_drop] using this

/-- A number read where it has just been written (R5). -/
theorem Memory.readNat_writeNat {m : Memory} (h : m.wf = true) (a n x : Nat) :
    (m.writeNat a n x).readNat a n = x % 256 ^ n := by
  have := Memory.readBytes_writeBytes h a (toBytesLE n x)
  rw [toBytesLE_length] at this
  rw [Memory.readNat, Memory.writeNat, this, ofBytesLE_toBytesLE]

/-! ## Stores -/

theorem State.rawStore_wf {s : State} (h : s.mem.wf = true) (c : Ctx) (pa : Nat) (bs : List Byte) :
    (s.rawStore c pa bs).mem.wf = true := Memory.writeBytes_wf h pa bs

theorem setStat_mem (s : State) (c : Ctx) (b : Nat) : (s.setStat c b).mem = s.mem := rfl

theorem imageLost_mem (i : LineImage) (c : Cause) (v : Word) (s : State) : (imageLost i c v s).mem = s.mem := rfl

theorem storeImage_wf {s : State} (h : s.mem.wf = true) (i : LineImage) (pa : Nat) : (storeImage i pa s).mem.wf = true :=
  (State.rawStore_wf h i.ctx pa i.bytes :)

theorem writeImage_wf {s : State} (h : s.mem.wf = true) (i : LineImage) : (writeImage i s).mem.wf = true := by
  simp only [writeImage]
  split
  · exact storeImage_wf h _ _
  · rw [imageLost_mem]; exact h
  · rw [imageLost_mem]; exact h
  · split
    · rw [imageLost_mem]; exact h
    · exact h

theorem imageLine_wf {s : State} (h : s.mem.wf = true) (n : Nat) (c : Ctx) : (imageLine n s c).mem.wf = true := by
  simp only [imageLine]
  split
  · exact writeImage_wf h _
  · exact h

theorem imageFor_wf {s : State} (h : s.mem.wf = true) (n : Nat) (cs : List Ctx) : (cs.foldl (imageLine n) s).mem.wf = true := by
  induction cs generalizing s with
  | nil => exact h
  | cons c cs ih => exact ih (imageLine_wf h n c)

theorem imageLines_wf {s : State} (h : s.mem.wf = true) (c : Ctx) (n k : Nat) : (imageLines c n k s).mem.wf = true := by
  induction k generalizing s n with
  | zero => exact h
  | succ k ih => exact ih (imageFor_wf h _ _) _

theorem State.noted_mem (s : State) (pa n : Nat) : (s.noted pa n).mem = s.mem := by unfold State.noted; split <;> rfl

theorem State.store_wf {s : State} (h : s.mem.wf = true) (c : Ctx) (pa : Nat) (bs : List Byte) :
    (s.store c pa bs).mem.wf = true := by
  unfold State.store
  split <;> rw [State.noted_mem]
  · exact State.rawStore_wf (imageLines_wf h _ _ _) _ _ _
  · exact State.rawStore_wf h _ _ _

theorem State.storeNat_wf {s : State} (h : s.mem.wf = true) (c : Ctx) (pa n x : Nat) :
    (s.storeNat c pa n x).mem.wf = true := State.store_wf h _ _ _

theorem State.storeCap_wf {s : State} (h : s.mem.wf = true) (c : Ctx) (pa : Nat) (r : Reg) :
    (s.storeCap c pa r).mem.wf = true := Memory.setTag_wf (State.storeNat_wf h _ _ _ _) _ _

theorem storeWordsBy_wf {l : List (Nat × Option Nat)} {c : Ctx} {ws : List (Nat × Nat)} {s t : State} (h : s.mem.wf = true)
    (hs : storeWordsBy l c ws s = some t) : t.mem.wf = true := by
  induction ws generalizing s with
  | nil => cases hs; exact h
  | cons w ws ih =>
    simp only [storeWordsBy] at hs
    split at hs
    · exact ih (State.storeNat_wf h _ _ _ _) hs
    · cases hs

theorem ctxStoreWords_wf {c : Ctx} {ws : List (Nat × Nat)} {s t : State} (h : s.mem.wf = true)
    (hs : ctxStoreWords c ws s = some t) : t.mem.wf = true := storeWordsBy_wf h hs

theorem storeCapsBy_wf {l : List (Nat × Option Nat)} {c : Ctx} {ws : List (Nat × Reg)} {s t : State} (h : s.mem.wf = true)
    (hs : storeCapsBy l c ws s = some t) : t.mem.wf = true := by
  induction ws generalizing s with
  | nil => cases hs; exact h
  | cons w ws ih =>
    simp only [storeCapsBy] at hs
    split at hs
    · exact ih (State.storeCap_wf h _ _ _) hs
    · cases hs

theorem ctxStoreCaps_wf {c : Ctx} {ws : List (Nat × Reg)} {s t : State} (h : s.mem.wf = true)
    (hs : ctxStoreCaps c ws s = some t) : t.mem.wf = true := storeCapsBy_wf h hs

theorem ctxStoreBoth_wf {c : Ctx} {vas : List Nat} {ws : List (Nat × Nat)} {cs : List (Nat × Reg)} {s t : State}
    (h : s.mem.wf = true) (hs : ctxStoreBoth c vas ws cs s = some t) : t.mem.wf = true := by
  obtain ⟨u, h1, h2⟩ := Option.bind_eq_some_iff.mp hs
  exact storeCapsBy_wf (storeWordsBy_wf h h1) h2

theorem ctxStoreBytes_wf {c : Ctx} {va : Nat} {bs : List Byte} {s t : State} (h : s.mem.wf = true)
    (hs : ctxStoreBytes c va bs s = some t) : t.mem.wf = true := by
  induction bs generalizing s va with
  | nil => cases hs; exact h
  | cons b bs ih =>
    simp only [ctxStoreBytes] at hs
    split at hs
    · exact ih (State.store_wf h _ _ _) hs
    · cases hs

/-! ## What a store leaves -/

/-- Outside the slices a store changes the bytes it stores and no others. -/
theorem State.store_read {s : State} (h : s.mem.wf = true) (c : Ctx) {pa : Nat} (bs : List Byte) (hp : inSlices pa = false) (b : Nat) :
    (s.store c pa bs).mem.read b = if pa ≤ b ∧ b < pa + bs.length then bs.getD (b - pa) 0 else s.mem.read b := by
  unfold State.store
  rw [if_neg (by simp [hp]), State.noted_mem]
  exact Memory.read_writeBytes h pa b bs

end Sys2Proof.Machine
end

