-- ==== Sys2Proof/Laws/State.lean ====
section
/-!
SUPPORT. One lemma per field per update of the state and of a thread: what the plain updates change and
what they leave.
-/
namespace Sys2Proof.Machine

section
variable (s : State) (f : Thread → Thread)
@[simp] theorem State.up_agenda : (s.up f).agenda = s.agenda := rfl
@[simp] theorem State.up_free : (s.up f).free = s.free := rfl
@[simp] theorem State.up_th : (s.up f).th = f s.th := rfl
@[simp] theorem State.up_others : (s.up f).others = s.others := rfl
@[simp] theorem State.up_conts : (s.up f).conts = s.conts := rfl
@[simp] theorem State.up_mem : (s.up f).mem = s.mem := rfl
@[simp] theorem State.up_lines : (s.up f).lines = s.lines := rfl
@[simp] theorem State.up_stamp : (s.up f).stamp = s.stamp := rfl
@[simp] theorem State.up_ranAt : (s.up f).ranAt = s.ranAt := rfl
@[simp] theorem State.up_racing : (s.up f).racing = s.racing := rfl
@[simp] theorem State.up_images : (s.up f).images = s.images := rfl
@[simp] theorem State.up_pkgid : (s.up f).pkgid = s.pkgid := rfl
@[simp] theorem State.up_cycle : (s.up f).cycle = s.cycle := rfl
@[simp] theorem State.up_time : (s.up f).time = s.time := rfl
@[simp] theorem State.up_timeFrac : (s.up f).timeFrac = s.timeFrac := rfl
@[simp] theorem State.up_syncAt : (s.up f).syncAt = s.syncAt := rfl
@[simp] theorem State.up_asidSel : (s.up f).asidSel = s.asidSel := rfl
@[simp] theorem State.up_ctxs : (s.up f).ctxs = s.ctxs := rfl
@[simp] theorem State.up_resmap : (s.up f).resmap = s.resmap := rfl
@[simp] theorem State.up_residents : (s.up f).residents = s.residents := rfl
@[simp] theorem State.up_quotas : (s.up f).quotas = s.quotas := rfl
@[simp] theorem State.up_bdtab : (s.up f).bdtab = s.bdtab := rfl
@[simp] theorem State.up_domains : (s.up f).domains = s.domains := rfl
@[simp] theorem State.up_counters : (s.up f).counters = s.counters := rfl
@[simp] theorem State.up_tlb : (s.up f).tlb = s.tlb := rfl
@[simp] theorem State.up_chunks : (s.up f).chunks = s.chunks := rfl
@[simp] theorem State.up_icache : (s.up f).icache = s.icache := rfl
@[simp] theorem State.up_ecc : (s.up f).ecc = s.ecc := rfl
@[simp] theorem State.up_launches : (s.up f).launches = s.launches := rfl
@[simp] theorem State.up_nextLaunch : (s.up f).nextLaunch = s.nextLaunch := rfl
@[simp] theorem State.up_huddles : (s.up f).huddles = s.huddles := rfl
@[simp] theorem State.up_gangWaits : (s.up f).gangWaits = s.gangWaits := rfl
@[simp] theorem State.up_gangs : (s.up f).gangs = s.gangs := rfl
@[simp] theorem State.up_nextGang : (s.up f).nextGang = s.nextGang := rfl
@[simp] theorem State.up_seqs : (s.up f).seqs = s.seqs := rfl
@[simp] theorem State.up_vecTurns : (s.up f).vecTurns = s.vecTurns := rfl
@[simp] theorem State.up_jobs : (s.up f).jobs = s.jobs := rfl
@[simp] theorem State.up_serials : (s.up f).serials = s.serials := rfl
@[simp] theorem State.up_nextOrder : (s.up f).nextOrder = s.nextOrder := rfl
@[simp] theorem State.up_acc : (s.up f).acc = s.acc := rfl
@[simp] theorem State.up_residue : (s.up f).residue = s.residue := rfl
@[simp] theorem State.up_rt : (s.up f).rt = s.rt := rfl
@[simp] theorem State.up_inject : (s.up f).inject = s.inject := rfl
@[simp] theorem State.up_arrivals : (s.up f).arrivals = s.arrivals := rfl
@[simp] theorem State.up_requests : (s.up f).requests = s.requests := rfl
@[simp] theorem State.up_nextReq : (s.up f).nextReq = s.nextReq := rfl
@[simp] theorem State.up_forwards : (s.up f).forwards = s.forwards := rfl
@[simp] theorem State.up_links : (s.up f).links = s.links := rfl
@[simp] theorem State.up_inbound : (s.up f).inbound = s.inbound := rfl
@[simp] theorem State.up_rings : (s.up f).rings = s.rings := rfl
@[simp] theorem State.up_absent : (s.up f).absent = s.absent := rfl
@[simp] theorem State.up_unreachable : (s.up f).unreachable = s.unreachable := rfl
@[simp] theorem State.up_deadLinks : (s.up f).deadLinks = s.deadLinks := rfl
@[simp] theorem State.up_routes : (s.up f).routes = s.routes := rfl
@[simp] theorem State.up_referee : (s.up f).referee = s.referee := rfl
@[simp] theorem State.up_engineNums : (s.up f).engineNums = s.engineNums := rfl
@[simp] theorem State.up_contributions : (s.up f).contributions = s.contributions := rfl
@[simp] theorem State.up_collcan : (s.up f).collcan = s.collcan := rfl
@[simp] theorem State.up_collcanst : (s.up f).collcanst = s.collcanst := rfl
@[simp] theorem State.up_lanes : (s.up f).lanes = s.lanes := rfl
@[simp] theorem State.up_openPhases : (s.up f).openPhases = s.openPhases := rfl
@[simp] theorem State.up_sends : (s.up f).sends = s.sends := rfl
@[simp] theorem State.up_queues : (s.up f).queues = s.queues := rfl
@[simp] theorem State.up_taken : (s.up f).taken = s.taken := rfl
@[simp] theorem State.up_tierw : (s.up f).tierw = s.tierw := rfl
@[simp] theorem State.up_charges : (s.up f).charges = s.charges := rfl
@[simp] theorem State.up_quireCharges : (s.up f).quireCharges = s.quireCharges := rfl
@[simp] theorem State.up_roundAt : (s.up f).roundAt = s.roundAt := rfl
@[simp] theorem State.up_msix : (s.up f).msix = s.msix := rfl
@[simp] theorem State.up_boot : (s.up f).boot = s.boot := rfl
@[simp] theorem State.up_pwr : (s.up f).pwr = s.pwr := rfl
@[simp] theorem State.up_changing : (s.up f).changing = s.changing := rfl
@[simp] theorem State.up_ras : (s.up f).ras = s.ras := rfl
@[simp] theorem State.up_hostBus : (s.up f).hostBus = s.hostBus := rfl
end

section
variable (s : State) (n : Nat)
@[simp] theorem State.advance_agenda : (s.advance n).agenda = s.agenda := rfl
@[simp] theorem State.advance_free : (s.advance n).free = s.free := rfl
@[simp] theorem State.advance_th : (s.advance n).th = s.th.next n := rfl
@[simp] theorem State.advance_others : (s.advance n).others = s.others := rfl
@[simp] theorem State.advance_conts : (s.advance n).conts = s.conts := rfl
@[simp] theorem State.advance_mem : (s.advance n).mem = s.mem := rfl
@[simp] theorem State.advance_lines : (s.advance n).lines = s.lines := rfl
@[simp] theorem State.advance_stamp : (s.advance n).stamp = s.stamp := rfl
@[simp] theorem State.advance_ranAt : (s.advance n).ranAt = s.ranAt := rfl
@[simp] theorem State.advance_racing : (s.advance n).racing = s.racing := rfl
@[simp] theorem State.advance_images : (s.advance n).images = s.images := rfl
@[simp] theorem State.advance_pkgid : (s.advance n).pkgid = s.pkgid := rfl
@[simp] theorem State.advance_cycle : (s.advance n).cycle = s.cycle := rfl
@[simp] theorem State.advance_time : (s.advance n).time = s.time := rfl
@[simp] theorem State.advance_timeFrac : (s.advance n).timeFrac = s.timeFrac := rfl
@[simp] theorem State.advance_syncAt : (s.advance n).syncAt = s.syncAt := rfl
@[simp] theorem State.advance_asidSel : (s.advance n).asidSel = s.asidSel := rfl
@[simp] theorem State.advance_ctxs : (s.advance n).ctxs = s.ctxs := rfl
@[simp] theorem State.advance_resmap : (s.advance n).resmap = s.resmap := rfl
@[simp] theorem State.advance_residents : (s.advance n).residents = s.residents := rfl
@[simp] theorem State.advance_quotas : (s.advance n).quotas = s.quotas := rfl
@[simp] theorem State.advance_bdtab : (s.advance n).bdtab = s.bdtab := rfl
@[simp] theorem State.advance_domains : (s.advance n).domains = s.domains := rfl
@[simp] theorem State.advance_counters : (s.advance n).counters = s.counters := rfl
@[simp] theorem State.advance_tlb : (s.advance n).tlb = s.tlb := rfl
@[simp] theorem State.advance_chunks : (s.advance n).chunks = s.chunks := rfl
@[simp] theorem State.advance_icache : (s.advance n).icache = s.icache := rfl
@[simp] theorem State.advance_ecc : (s.advance n).ecc = s.ecc := rfl
@[simp] theorem State.advance_launches : (s.advance n).launches = s.launches := rfl
@[simp] theorem State.advance_nextLaunch : (s.advance n).nextLaunch = s.nextLaunch := rfl
@[simp] theorem State.advance_huddles : (s.advance n).huddles = s.huddles := rfl
@[simp] theorem State.advance_gangWaits : (s.advance n).gangWaits = s.gangWaits := rfl
@[simp] theorem State.advance_gangs : (s.advance n).gangs = s.gangs := rfl
@[simp] theorem State.advance_nextGang : (s.advance n).nextGang = s.nextGang := rfl
@[simp] theorem State.advance_seqs : (s.advance n).seqs = s.seqs := rfl
@[simp] theorem State.advance_vecTurns : (s.advance n).vecTurns = s.vecTurns := rfl
@[simp] theorem State.advance_jobs : (s.advance n).jobs = s.jobs := rfl
@[simp] theorem State.advance_serials : (s.advance n).serials = s.serials := rfl
@[simp] theorem State.advance_nextOrder : (s.advance n).nextOrder = s.nextOrder := rfl
@[simp] theorem State.advance_acc : (s.advance n).acc = s.acc := rfl
@[simp] theorem State.advance_residue : (s.advance n).residue = s.residue := rfl
@[simp] theorem State.advance_rt : (s.advance n).rt = s.rt := rfl
@[simp] theorem State.advance_inject : (s.advance n).inject = s.inject := rfl
@[simp] theorem State.advance_arrivals : (s.advance n).arrivals = s.arrivals := rfl
@[simp] theorem State.advance_requests : (s.advance n).requests = s.requests := rfl
@[simp] theorem State.advance_nextReq : (s.advance n).nextReq = s.nextReq := rfl
@[simp] theorem State.advance_forwards : (s.advance n).forwards = s.forwards := rfl
@[simp] theorem State.advance_links : (s.advance n).links = s.links := rfl
@[simp] theorem State.advance_inbound : (s.advance n).inbound = s.inbound := rfl
@[simp] theorem State.advance_rings : (s.advance n).rings = s.rings := rfl
@[simp] theorem State.advance_absent : (s.advance n).absent = s.absent := rfl
@[simp] theorem State.advance_unreachable : (s.advance n).unreachable = s.unreachable := rfl
@[simp] theorem State.advance_deadLinks : (s.advance n).deadLinks = s.deadLinks := rfl
@[simp] theorem State.advance_routes : (s.advance n).routes = s.routes := rfl
@[simp] theorem State.advance_referee : (s.advance n).referee = s.referee := rfl
@[simp] theorem State.advance_engineNums : (s.advance n).engineNums = s.engineNums := rfl
@[simp] theorem State.advance_contributions : (s.advance n).contributions = s.contributions := rfl
@[simp] theorem State.advance_collcan : (s.advance n).collcan = s.collcan := rfl
@[simp] theorem State.advance_collcanst : (s.advance n).collcanst = s.collcanst := rfl
@[simp] theorem State.advance_lanes : (s.advance n).lanes = s.lanes := rfl
@[simp] theorem State.advance_openPhases : (s.advance n).openPhases = s.openPhases := rfl
@[simp] theorem State.advance_sends : (s.advance n).sends = s.sends := rfl
@[simp] theorem State.advance_queues : (s.advance n).queues = s.queues := rfl
@[simp] theorem State.advance_taken : (s.advance n).taken = s.taken := rfl
@[simp] theorem State.advance_tierw : (s.advance n).tierw = s.tierw := rfl
@[simp] theorem State.advance_charges : (s.advance n).charges = s.charges := rfl
@[simp] theorem State.advance_quireCharges : (s.advance n).quireCharges = s.quireCharges := rfl
@[simp] theorem State.advance_roundAt : (s.advance n).roundAt = s.roundAt := rfl
@[simp] theorem State.advance_msix : (s.advance n).msix = s.msix := rfl
@[simp] theorem State.advance_boot : (s.advance n).boot = s.boot := rfl
@[simp] theorem State.advance_pwr : (s.advance n).pwr = s.pwr := rfl
@[simp] theorem State.advance_changing : (s.advance n).changing = s.changing := rfl
@[simp] theorem State.advance_ras : (s.advance n).ras = s.ras := rfl
@[simp] theorem State.advance_hostBus : (s.advance n).hostBus = s.hostBus := rfl
end

section
variable (s : State) (p : Word)
@[simp] theorem State.jumpTo_agenda : (s.jumpTo p).agenda = s.agenda := rfl
@[simp] theorem State.jumpTo_free : (s.jumpTo p).free = s.free := rfl
@[simp] theorem State.jumpTo_others : (s.jumpTo p).others = s.others := rfl
@[simp] theorem State.jumpTo_conts : (s.jumpTo p).conts = s.conts := rfl
@[simp] theorem State.jumpTo_mem : (s.jumpTo p).mem = s.mem := rfl
@[simp] theorem State.jumpTo_lines : (s.jumpTo p).lines = s.lines := rfl
@[simp] theorem State.jumpTo_stamp : (s.jumpTo p).stamp = s.stamp := rfl
@[simp] theorem State.jumpTo_ranAt : (s.jumpTo p).ranAt = s.ranAt := rfl
@[simp] theorem State.jumpTo_racing : (s.jumpTo p).racing = s.racing := rfl
@[simp] theorem State.jumpTo_images : (s.jumpTo p).images = s.images := rfl
@[simp] theorem State.jumpTo_pkgid : (s.jumpTo p).pkgid = s.pkgid := rfl
@[simp] theorem State.jumpTo_cycle : (s.jumpTo p).cycle = s.cycle := rfl
@[simp] theorem State.jumpTo_time : (s.jumpTo p).time = s.time := rfl
@[simp] theorem State.jumpTo_timeFrac : (s.jumpTo p).timeFrac = s.timeFrac := rfl
@[simp] theorem State.jumpTo_syncAt : (s.jumpTo p).syncAt = s.syncAt := rfl
@[simp] theorem State.jumpTo_asidSel : (s.jumpTo p).asidSel = s.asidSel := rfl
@[simp] theorem State.jumpTo_ctxs : (s.jumpTo p).ctxs = s.ctxs := rfl
@[simp] theorem State.jumpTo_resmap : (s.jumpTo p).resmap = s.resmap := rfl
@[simp] theorem State.jumpTo_residents : (s.jumpTo p).residents = s.residents := rfl
@[simp] theorem State.jumpTo_quotas : (s.jumpTo p).quotas = s.quotas := rfl
@[simp] theorem State.jumpTo_bdtab : (s.jumpTo p).bdtab = s.bdtab := rfl
@[simp] theorem State.jumpTo_domains : (s.jumpTo p).domains = s.domains := rfl
@[simp] theorem State.jumpTo_counters : (s.jumpTo p).counters = s.counters := rfl
@[simp] theorem State.jumpTo_tlb : (s.jumpTo p).tlb = s.tlb := rfl
@[simp] theorem State.jumpTo_chunks : (s.jumpTo p).chunks = s.chunks := rfl
@[simp] theorem State.jumpTo_icache : (s.jumpTo p).icache = s.icache := rfl
@[simp] theorem State.jumpTo_ecc : (s.jumpTo p).ecc = s.ecc := rfl
@[simp] theorem State.jumpTo_launches : (s.jumpTo p).launches = s.launches := rfl
@[simp] theorem State.jumpTo_nextLaunch : (s.jumpTo p).nextLaunch = s.nextLaunch := rfl
@[simp] theorem State.jumpTo_huddles : (s.jumpTo p).huddles = s.huddles := rfl
@[simp] theorem State.jumpTo_gangWaits : (s.jumpTo p).gangWaits = s.gangWaits := rfl
@[simp] theorem State.jumpTo_gangs : (s.jumpTo p).gangs = s.gangs := rfl
@[simp] theorem State.jumpTo_nextGang : (s.jumpTo p).nextGang = s.nextGang := rfl
@[simp] theorem State.jumpTo_seqs : (s.jumpTo p).seqs = s.seqs := rfl
@[simp] theorem State.jumpTo_vecTurns : (s.jumpTo p).vecTurns = s.vecTurns := rfl
@[simp] theorem State.jumpTo_jobs : (s.jumpTo p).jobs = s.jobs := rfl
@[simp] theorem State.jumpTo_serials : (s.jumpTo p).serials = s.serials := rfl
@[simp] theorem State.jumpTo_nextOrder : (s.jumpTo p).nextOrder = s.nextOrder := rfl
@[simp] theorem State.jumpTo_acc : (s.jumpTo p).acc = s.acc := rfl
@[simp] theorem State.jumpTo_residue : (s.jumpTo p).residue = s.residue := rfl
@[simp] theorem State.jumpTo_rt : (s.jumpTo p).rt = s.rt := rfl
@[simp] theorem State.jumpTo_inject : (s.jumpTo p).inject = s.inject := rfl
@[simp] theorem State.jumpTo_arrivals : (s.jumpTo p).arrivals = s.arrivals := rfl
@[simp] theorem State.jumpTo_requests : (s.jumpTo p).requests = s.requests := rfl
@[simp] theorem State.jumpTo_nextReq : (s.jumpTo p).nextReq = s.nextReq := rfl
@[simp] theorem State.jumpTo_forwards : (s.jumpTo p).forwards = s.forwards := rfl
@[simp] theorem State.jumpTo_links : (s.jumpTo p).links = s.links := rfl
@[simp] theorem State.jumpTo_inbound : (s.jumpTo p).inbound = s.inbound := rfl
@[simp] theorem State.jumpTo_rings : (s.jumpTo p).rings = s.rings := rfl
@[simp] theorem State.jumpTo_absent : (s.jumpTo p).absent = s.absent := rfl
@[simp] theorem State.jumpTo_unreachable : (s.jumpTo p).unreachable = s.unreachable := rfl
@[simp] theorem State.jumpTo_deadLinks : (s.jumpTo p).deadLinks = s.deadLinks := rfl
@[simp] theorem State.jumpTo_routes : (s.jumpTo p).routes = s.routes := rfl
@[simp] theorem State.jumpTo_referee : (s.jumpTo p).referee = s.referee := rfl
@[simp] theorem State.jumpTo_engineNums : (s.jumpTo p).engineNums = s.engineNums := rfl
@[simp] theorem State.jumpTo_contributions : (s.jumpTo p).contributions = s.contributions := rfl
@[simp] theorem State.jumpTo_collcan : (s.jumpTo p).collcan = s.collcan := rfl
@[simp] theorem State.jumpTo_collcanst : (s.jumpTo p).collcanst = s.collcanst := rfl
@[simp] theorem State.jumpTo_lanes : (s.jumpTo p).lanes = s.lanes := rfl
@[simp] theorem State.jumpTo_openPhases : (s.jumpTo p).openPhases = s.openPhases := rfl
@[simp] theorem State.jumpTo_sends : (s.jumpTo p).sends = s.sends := rfl
@[simp] theorem State.jumpTo_queues : (s.jumpTo p).queues = s.queues := rfl
@[simp] theorem State.jumpTo_taken : (s.jumpTo p).taken = s.taken := rfl
@[simp] theorem State.jumpTo_tierw : (s.jumpTo p).tierw = s.tierw := rfl
@[simp] theorem State.jumpTo_charges : (s.jumpTo p).charges = s.charges := rfl
@[simp] theorem State.jumpTo_quireCharges : (s.jumpTo p).quireCharges = s.quireCharges := rfl
@[simp] theorem State.jumpTo_roundAt : (s.jumpTo p).roundAt = s.roundAt := rfl
@[simp] theorem State.jumpTo_msix : (s.jumpTo p).msix = s.msix := rfl
@[simp] theorem State.jumpTo_boot : (s.jumpTo p).boot = s.boot := rfl
@[simp] theorem State.jumpTo_pwr : (s.jumpTo p).pwr = s.pwr := rfl
@[simp] theorem State.jumpTo_changing : (s.jumpTo p).changing = s.changing := rfl
@[simp] theorem State.jumpTo_ras : (s.jumpTo p).ras = s.ras := rfl
@[simp] theorem State.jumpTo_hostBus : (s.jumpTo p).hostBus = s.hostBus := rfl
end

section
variable (s : State) (w : Word)
@[simp] theorem State.orFlags_agenda : (s.orFlags w).agenda = s.agenda := rfl
@[simp] theorem State.orFlags_free : (s.orFlags w).free = s.free := rfl
@[simp] theorem State.orFlags_others : (s.orFlags w).others = s.others := rfl
@[simp] theorem State.orFlags_conts : (s.orFlags w).conts = s.conts := rfl
@[simp] theorem State.orFlags_mem : (s.orFlags w).mem = s.mem := rfl
@[simp] theorem State.orFlags_lines : (s.orFlags w).lines = s.lines := rfl
@[simp] theorem State.orFlags_stamp : (s.orFlags w).stamp = s.stamp := rfl
@[simp] theorem State.orFlags_ranAt : (s.orFlags w).ranAt = s.ranAt := rfl
@[simp] theorem State.orFlags_racing : (s.orFlags w).racing = s.racing := rfl
@[simp] theorem State.orFlags_images : (s.orFlags w).images = s.images := rfl
@[simp] theorem State.orFlags_pkgid : (s.orFlags w).pkgid = s.pkgid := rfl
@[simp] theorem State.orFlags_cycle : (s.orFlags w).cycle = s.cycle := rfl
@[simp] theorem State.orFlags_time : (s.orFlags w).time = s.time := rfl
@[simp] theorem State.orFlags_timeFrac : (s.orFlags w).timeFrac = s.timeFrac := rfl
@[simp] theorem State.orFlags_syncAt : (s.orFlags w).syncAt = s.syncAt := rfl
@[simp] theorem State.orFlags_asidSel : (s.orFlags w).asidSel = s.asidSel := rfl
@[simp] theorem State.orFlags_ctxs : (s.orFlags w).ctxs = s.ctxs := rfl
@[simp] theorem State.orFlags_resmap : (s.orFlags w).resmap = s.resmap := rfl
@[simp] theorem State.orFlags_residents : (s.orFlags w).residents = s.residents := rfl
@[simp] theorem State.orFlags_quotas : (s.orFlags w).quotas = s.quotas := rfl
@[simp] theorem State.orFlags_bdtab : (s.orFlags w).bdtab = s.bdtab := rfl
@[simp] theorem State.orFlags_domains : (s.orFlags w).domains = s.domains := rfl
@[simp] theorem State.orFlags_counters : (s.orFlags w).counters = s.counters := rfl
@[simp] theorem State.orFlags_tlb : (s.orFlags w).tlb = s.tlb := rfl
@[simp] theorem State.orFlags_chunks : (s.orFlags w).chunks = s.chunks := rfl
@[simp] theorem State.orFlags_icache : (s.orFlags w).icache = s.icache := rfl
@[simp] theorem State.orFlags_ecc : (s.orFlags w).ecc = s.ecc := rfl
@[simp] theorem State.orFlags_launches : (s.orFlags w).launches = s.launches := rfl
@[simp] theorem State.orFlags_nextLaunch : (s.orFlags w).nextLaunch = s.nextLaunch := rfl
@[simp] theorem State.orFlags_huddles : (s.orFlags w).huddles = s.huddles := rfl
@[simp] theorem State.orFlags_gangWaits : (s.orFlags w).gangWaits = s.gangWaits := rfl
@[simp] theorem State.orFlags_gangs : (s.orFlags w).gangs = s.gangs := rfl
@[simp] theorem State.orFlags_nextGang : (s.orFlags w).nextGang = s.nextGang := rfl
@[simp] theorem State.orFlags_seqs : (s.orFlags w).seqs = s.seqs := rfl
@[simp] theorem State.orFlags_vecTurns : (s.orFlags w).vecTurns = s.vecTurns := rfl
@[simp] theorem State.orFlags_jobs : (s.orFlags w).jobs = s.jobs := rfl
@[simp] theorem State.orFlags_serials : (s.orFlags w).serials = s.serials := rfl
@[simp] theorem State.orFlags_nextOrder : (s.orFlags w).nextOrder = s.nextOrder := rfl
@[simp] theorem State.orFlags_acc : (s.orFlags w).acc = s.acc := rfl
@[simp] theorem State.orFlags_residue : (s.orFlags w).residue = s.residue := rfl
@[simp] theorem State.orFlags_rt : (s.orFlags w).rt = s.rt := rfl
@[simp] theorem State.orFlags_inject : (s.orFlags w).inject = s.inject := rfl
@[simp] theorem State.orFlags_arrivals : (s.orFlags w).arrivals = s.arrivals := rfl
@[simp] theorem State.orFlags_requests : (s.orFlags w).requests = s.requests := rfl
@[simp] theorem State.orFlags_nextReq : (s.orFlags w).nextReq = s.nextReq := rfl
@[simp] theorem State.orFlags_forwards : (s.orFlags w).forwards = s.forwards := rfl
@[simp] theorem State.orFlags_links : (s.orFlags w).links = s.links := rfl
@[simp] theorem State.orFlags_inbound : (s.orFlags w).inbound = s.inbound := rfl
@[simp] theorem State.orFlags_rings : (s.orFlags w).rings = s.rings := rfl
@[simp] theorem State.orFlags_absent : (s.orFlags w).absent = s.absent := rfl
@[simp] theorem State.orFlags_unreachable : (s.orFlags w).unreachable = s.unreachable := rfl
@[simp] theorem State.orFlags_deadLinks : (s.orFlags w).deadLinks = s.deadLinks := rfl
@[simp] theorem State.orFlags_routes : (s.orFlags w).routes = s.routes := rfl
@[simp] theorem State.orFlags_referee : (s.orFlags w).referee = s.referee := rfl
@[simp] theorem State.orFlags_engineNums : (s.orFlags w).engineNums = s.engineNums := rfl
@[simp] theorem State.orFlags_contributions : (s.orFlags w).contributions = s.contributions := rfl
@[simp] theorem State.orFlags_collcan : (s.orFlags w).collcan = s.collcan := rfl
@[simp] theorem State.orFlags_collcanst : (s.orFlags w).collcanst = s.collcanst := rfl
@[simp] theorem State.orFlags_lanes : (s.orFlags w).lanes = s.lanes := rfl
@[simp] theorem State.orFlags_openPhases : (s.orFlags w).openPhases = s.openPhases := rfl
@[simp] theorem State.orFlags_sends : (s.orFlags w).sends = s.sends := rfl
@[simp] theorem State.orFlags_queues : (s.orFlags w).queues = s.queues := rfl
@[simp] theorem State.orFlags_taken : (s.orFlags w).taken = s.taken := rfl
@[simp] theorem State.orFlags_tierw : (s.orFlags w).tierw = s.tierw := rfl
@[simp] theorem State.orFlags_charges : (s.orFlags w).charges = s.charges := rfl
@[simp] theorem State.orFlags_quireCharges : (s.orFlags w).quireCharges = s.quireCharges := rfl
@[simp] theorem State.orFlags_roundAt : (s.orFlags w).roundAt = s.roundAt := rfl
@[simp] theorem State.orFlags_msix : (s.orFlags w).msix = s.msix := rfl
@[simp] theorem State.orFlags_boot : (s.orFlags w).boot = s.boot := rfl
@[simp] theorem State.orFlags_pwr : (s.orFlags w).pwr = s.pwr := rfl
@[simp] theorem State.orFlags_changing : (s.orFlags w).changing = s.changing := rfl
@[simp] theorem State.orFlags_ras : (s.orFlags w).ras = s.ras := rfl
@[simp] theorem State.orFlags_hostBus : (s.orFlags w).hostBus = s.hostBus := rfl
end

section
variable (s : State) (n : Nat)
@[simp] theorem State.tick_agenda : (s.tick n).agenda = s.agenda := rfl
@[simp] theorem State.tick_free : (s.tick n).free = s.free := rfl
@[simp] theorem State.tick_conts : (s.tick n).conts = s.conts := rfl
@[simp] theorem State.tick_mem : (s.tick n).mem = s.mem := rfl
@[simp] theorem State.tick_lines : (s.tick n).lines = s.lines := rfl
@[simp] theorem State.tick_stamp : (s.tick n).stamp = s.stamp := rfl
@[simp] theorem State.tick_ranAt : (s.tick n).ranAt = s.ranAt := rfl
@[simp] theorem State.tick_racing : (s.tick n).racing = s.racing := rfl
@[simp] theorem State.tick_images : (s.tick n).images = s.images := rfl
@[simp] theorem State.tick_pkgid : (s.tick n).pkgid = s.pkgid := rfl
@[simp] theorem State.tick_cycle : (s.tick n).cycle = s.cycle + BitVec.ofNat 64 n := rfl
@[simp] theorem State.tick_syncAt : (s.tick n).syncAt = s.syncAt := rfl
@[simp] theorem State.tick_asidSel : (s.tick n).asidSel = s.asidSel := rfl
@[simp] theorem State.tick_ctxs : (s.tick n).ctxs = s.ctxs := rfl
@[simp] theorem State.tick_resmap : (s.tick n).resmap = s.resmap := rfl
@[simp] theorem State.tick_residents : (s.tick n).residents = s.residents := rfl
@[simp] theorem State.tick_quotas : (s.tick n).quotas = s.quotas := rfl
@[simp] theorem State.tick_bdtab : (s.tick n).bdtab = s.bdtab := rfl
@[simp] theorem State.tick_domains : (s.tick n).domains = s.domains := rfl
@[simp] theorem State.tick_counters : (s.tick n).counters = s.counters := rfl
@[simp] theorem State.tick_tlb : (s.tick n).tlb = s.tlb := rfl
@[simp] theorem State.tick_chunks : (s.tick n).chunks = s.chunks := rfl
@[simp] theorem State.tick_icache : (s.tick n).icache = s.icache := rfl
@[simp] theorem State.tick_ecc : (s.tick n).ecc = s.ecc := rfl
@[simp] theorem State.tick_launches : (s.tick n).launches = s.launches := rfl
@[simp] theorem State.tick_nextLaunch : (s.tick n).nextLaunch = s.nextLaunch := rfl
@[simp] theorem State.tick_huddles : (s.tick n).huddles = s.huddles := rfl
@[simp] theorem State.tick_gangWaits : (s.tick n).gangWaits = s.gangWaits := rfl
@[simp] theorem State.tick_gangs : (s.tick n).gangs = s.gangs := rfl
@[simp] theorem State.tick_nextGang : (s.tick n).nextGang = s.nextGang := rfl
@[simp] theorem State.tick_seqs : (s.tick n).seqs = s.seqs := rfl
@[simp] theorem State.tick_vecTurns : (s.tick n).vecTurns = s.vecTurns := rfl
@[simp] theorem State.tick_jobs : (s.tick n).jobs = s.jobs := rfl
@[simp] theorem State.tick_serials : (s.tick n).serials = s.serials := rfl
@[simp] theorem State.tick_nextOrder : (s.tick n).nextOrder = s.nextOrder := rfl
@[simp] theorem State.tick_acc : (s.tick n).acc = s.acc := rfl
@[simp] theorem State.tick_residue : (s.tick n).residue = s.residue := rfl
@[simp] theorem State.tick_rt : (s.tick n).rt = s.rt := rfl
@[simp] theorem State.tick_inject : (s.tick n).inject = s.inject := rfl
@[simp] theorem State.tick_arrivals : (s.tick n).arrivals = s.arrivals := rfl
@[simp] theorem State.tick_requests : (s.tick n).requests = s.requests := rfl
@[simp] theorem State.tick_nextReq : (s.tick n).nextReq = s.nextReq := rfl
@[simp] theorem State.tick_forwards : (s.tick n).forwards = s.forwards := rfl
@[simp] theorem State.tick_links : (s.tick n).links = s.links := rfl
@[simp] theorem State.tick_inbound : (s.tick n).inbound = s.inbound := rfl
@[simp] theorem State.tick_rings : (s.tick n).rings = s.rings := rfl
@[simp] theorem State.tick_absent : (s.tick n).absent = s.absent := rfl
@[simp] theorem State.tick_unreachable : (s.tick n).unreachable = s.unreachable := rfl
@[simp] theorem State.tick_deadLinks : (s.tick n).deadLinks = s.deadLinks := rfl
@[simp] theorem State.tick_routes : (s.tick n).routes = s.routes := rfl
@[simp] theorem State.tick_referee : (s.tick n).referee = s.referee := rfl
@[simp] theorem State.tick_engineNums : (s.tick n).engineNums = s.engineNums := rfl
@[simp] theorem State.tick_contributions : (s.tick n).contributions = s.contributions := rfl
@[simp] theorem State.tick_collcan : (s.tick n).collcan = s.collcan := rfl
@[simp] theorem State.tick_collcanst : (s.tick n).collcanst = s.collcanst := rfl
@[simp] theorem State.tick_lanes : (s.tick n).lanes = s.lanes := rfl
@[simp] theorem State.tick_queues : (s.tick n).queues = s.queues := rfl
@[simp] theorem State.tick_taken : (s.tick n).taken = s.taken := rfl
@[simp] theorem State.tick_tierw : (s.tick n).tierw = s.tierw := rfl
@[simp] theorem State.tick_msix : (s.tick n).msix = s.msix := rfl
@[simp] theorem State.tick_boot : (s.tick n).boot = s.boot := rfl
@[simp] theorem State.tick_pwr : (s.tick n).pwr = s.pwr := rfl
@[simp] theorem State.tick_changing : (s.tick n).changing = s.changing := rfl
@[simp] theorem State.tick_ras : (s.tick n).ras = s.ras := rfl
@[simp] theorem State.tick_hostBus : (s.tick n).hostBus = s.hostBus := rfl
end

section
variable (s : State)
@[simp] theorem State.closePhases_agenda : (s.closePhases).agenda = s.agenda := rfl
@[simp] theorem State.closePhases_free : (s.closePhases).free = s.free := rfl
@[simp] theorem State.closePhases_conts : (s.closePhases).conts = s.conts := rfl
@[simp] theorem State.closePhases_mem : (s.closePhases).mem = s.mem := rfl
@[simp] theorem State.closePhases_lines : (s.closePhases).lines = s.lines := rfl
@[simp] theorem State.closePhases_stamp : (s.closePhases).stamp = s.stamp := rfl
@[simp] theorem State.closePhases_ranAt : (s.closePhases).ranAt = s.ranAt := rfl
@[simp] theorem State.closePhases_racing : (s.closePhases).racing = s.racing := rfl
@[simp] theorem State.closePhases_images : (s.closePhases).images = s.images := rfl
@[simp] theorem State.closePhases_pkgid : (s.closePhases).pkgid = s.pkgid := rfl
@[simp] theorem State.closePhases_cycle : (s.closePhases).cycle = s.cycle := rfl
@[simp] theorem State.closePhases_time : (s.closePhases).time = s.time := rfl
@[simp] theorem State.closePhases_timeFrac : (s.closePhases).timeFrac = s.timeFrac := rfl
@[simp] theorem State.closePhases_syncAt : (s.closePhases).syncAt = s.syncAt := rfl
@[simp] theorem State.closePhases_asidSel : (s.closePhases).asidSel = s.asidSel := rfl
@[simp] theorem State.closePhases_ctxs : (s.closePhases).ctxs = s.ctxs := rfl
@[simp] theorem State.closePhases_resmap : (s.closePhases).resmap = s.resmap := rfl
@[simp] theorem State.closePhases_residents : (s.closePhases).residents = s.residents := rfl
@[simp] theorem State.closePhases_quotas : (s.closePhases).quotas = s.quotas := rfl
@[simp] theorem State.closePhases_bdtab : (s.closePhases).bdtab = s.bdtab := rfl
@[simp] theorem State.closePhases_domains : (s.closePhases).domains = s.domains := rfl
@[simp] theorem State.closePhases_counters : (s.closePhases).counters = s.counters := rfl
@[simp] theorem State.closePhases_tlb : (s.closePhases).tlb = s.tlb := rfl
@[simp] theorem State.closePhases_chunks : (s.closePhases).chunks = s.chunks := rfl
@[simp] theorem State.closePhases_icache : (s.closePhases).icache = s.icache := rfl
@[simp] theorem State.closePhases_ecc : (s.closePhases).ecc = s.ecc := rfl
@[simp] theorem State.closePhases_launches : (s.closePhases).launches = s.launches := rfl
@[simp] theorem State.closePhases_nextLaunch : (s.closePhases).nextLaunch = s.nextLaunch := rfl
@[simp] theorem State.closePhases_huddles : (s.closePhases).huddles = s.huddles := rfl
@[simp] theorem State.closePhases_gangWaits : (s.closePhases).gangWaits = s.gangWaits := rfl
@[simp] theorem State.closePhases_gangs : (s.closePhases).gangs = s.gangs := rfl
@[simp] theorem State.closePhases_nextGang : (s.closePhases).nextGang = s.nextGang := rfl
@[simp] theorem State.closePhases_seqs : (s.closePhases).seqs = s.seqs := rfl
@[simp] theorem State.closePhases_vecTurns : (s.closePhases).vecTurns = s.vecTurns := rfl
@[simp] theorem State.closePhases_jobs : (s.closePhases).jobs = s.jobs := rfl
@[simp] theorem State.closePhases_serials : (s.closePhases).serials = s.serials := rfl
@[simp] theorem State.closePhases_nextOrder : (s.closePhases).nextOrder = s.nextOrder := rfl
@[simp] theorem State.closePhases_acc : (s.closePhases).acc = s.acc := rfl
@[simp] theorem State.closePhases_residue : (s.closePhases).residue = s.residue := rfl
@[simp] theorem State.closePhases_rt : (s.closePhases).rt = s.rt := rfl
@[simp] theorem State.closePhases_inject : (s.closePhases).inject = s.inject := rfl
@[simp] theorem State.closePhases_arrivals : (s.closePhases).arrivals = s.arrivals := rfl
@[simp] theorem State.closePhases_requests : (s.closePhases).requests = s.requests := rfl
@[simp] theorem State.closePhases_nextReq : (s.closePhases).nextReq = s.nextReq := rfl
@[simp] theorem State.closePhases_forwards : (s.closePhases).forwards = s.forwards := rfl
@[simp] theorem State.closePhases_links : (s.closePhases).links = s.links := rfl
@[simp] theorem State.closePhases_inbound : (s.closePhases).inbound = s.inbound := rfl
@[simp] theorem State.closePhases_rings : (s.closePhases).rings = s.rings := rfl
@[simp] theorem State.closePhases_absent : (s.closePhases).absent = s.absent := rfl
@[simp] theorem State.closePhases_unreachable : (s.closePhases).unreachable = s.unreachable := rfl
@[simp] theorem State.closePhases_deadLinks : (s.closePhases).deadLinks = s.deadLinks := rfl
@[simp] theorem State.closePhases_routes : (s.closePhases).routes = s.routes := rfl
@[simp] theorem State.closePhases_referee : (s.closePhases).referee = s.referee := rfl
@[simp] theorem State.closePhases_engineNums : (s.closePhases).engineNums = s.engineNums := rfl
@[simp] theorem State.closePhases_contributions : (s.closePhases).contributions = s.contributions := rfl
@[simp] theorem State.closePhases_collcan : (s.closePhases).collcan = s.collcan := rfl
@[simp] theorem State.closePhases_collcanst : (s.closePhases).collcanst = s.collcanst := rfl
@[simp] theorem State.closePhases_lanes : (s.closePhases).lanes = s.lanes := rfl
@[simp] theorem State.closePhases_queues : (s.closePhases).queues = s.queues := rfl
@[simp] theorem State.closePhases_taken : (s.closePhases).taken = s.taken := rfl
@[simp] theorem State.closePhases_tierw : (s.closePhases).tierw = s.tierw := rfl
@[simp] theorem State.closePhases_charges : (s.closePhases).charges = s.charges := rfl
@[simp] theorem State.closePhases_quireCharges : (s.closePhases).quireCharges = s.quireCharges := rfl
@[simp] theorem State.closePhases_roundAt : (s.closePhases).roundAt = s.roundAt := rfl
@[simp] theorem State.closePhases_msix : (s.closePhases).msix = s.msix := rfl
@[simp] theorem State.closePhases_boot : (s.closePhases).boot = s.boot := rfl
@[simp] theorem State.closePhases_pwr : (s.closePhases).pwr = s.pwr := rfl
@[simp] theorem State.closePhases_changing : (s.closePhases).changing = s.changing := rfl
@[simp] theorem State.closePhases_ras : (s.closePhases).ras = s.ras := rfl
@[simp] theorem State.closePhases_hostBus : (s.closePhases).hostBus = s.hostBus := rfl
end

section
variable (s : State)
@[simp] theorem State.chunksDone_agenda : (s.chunksDone).agenda = s.agenda := rfl
@[simp] theorem State.chunksDone_free : (s.chunksDone).free = s.free := rfl
@[simp] theorem State.chunksDone_th : (s.chunksDone).th = s.th := rfl
@[simp] theorem State.chunksDone_others : (s.chunksDone).others = s.others := rfl
@[simp] theorem State.chunksDone_conts : (s.chunksDone).conts = s.conts := rfl
@[simp] theorem State.chunksDone_mem : (s.chunksDone).mem = s.mem := rfl
@[simp] theorem State.chunksDone_lines : (s.chunksDone).lines = s.lines := rfl
@[simp] theorem State.chunksDone_stamp : (s.chunksDone).stamp = s.stamp := rfl
@[simp] theorem State.chunksDone_ranAt : (s.chunksDone).ranAt = s.ranAt := rfl
@[simp] theorem State.chunksDone_racing : (s.chunksDone).racing = s.racing := rfl
@[simp] theorem State.chunksDone_images : (s.chunksDone).images = s.images := rfl
@[simp] theorem State.chunksDone_pkgid : (s.chunksDone).pkgid = s.pkgid := rfl
@[simp] theorem State.chunksDone_cycle : (s.chunksDone).cycle = s.cycle := rfl
@[simp] theorem State.chunksDone_time : (s.chunksDone).time = s.time := rfl
@[simp] theorem State.chunksDone_timeFrac : (s.chunksDone).timeFrac = s.timeFrac := rfl
@[simp] theorem State.chunksDone_syncAt : (s.chunksDone).syncAt = s.syncAt := rfl
@[simp] theorem State.chunksDone_asidSel : (s.chunksDone).asidSel = s.asidSel := rfl
@[simp] theorem State.chunksDone_ctxs : (s.chunksDone).ctxs = s.ctxs := rfl
@[simp] theorem State.chunksDone_resmap : (s.chunksDone).resmap = s.resmap := rfl
@[simp] theorem State.chunksDone_residents : (s.chunksDone).residents = s.residents := rfl
@[simp] theorem State.chunksDone_quotas : (s.chunksDone).quotas = s.quotas := rfl
@[simp] theorem State.chunksDone_bdtab : (s.chunksDone).bdtab = s.bdtab := rfl
@[simp] theorem State.chunksDone_domains : (s.chunksDone).domains = s.domains := rfl
@[simp] theorem State.chunksDone_counters : (s.chunksDone).counters = s.counters := rfl
@[simp] theorem State.chunksDone_tlb : (s.chunksDone).tlb = s.tlb := rfl
@[simp] theorem State.chunksDone_chunks : (s.chunksDone).chunks = [] := rfl
@[simp] theorem State.chunksDone_icache : (s.chunksDone).icache = s.icache := rfl
@[simp] theorem State.chunksDone_ecc : (s.chunksDone).ecc = s.ecc := rfl
@[simp] theorem State.chunksDone_launches : (s.chunksDone).launches = s.launches := rfl
@[simp] theorem State.chunksDone_nextLaunch : (s.chunksDone).nextLaunch = s.nextLaunch := rfl
@[simp] theorem State.chunksDone_huddles : (s.chunksDone).huddles = s.huddles := rfl
@[simp] theorem State.chunksDone_gangWaits : (s.chunksDone).gangWaits = s.gangWaits := rfl
@[simp] theorem State.chunksDone_gangs : (s.chunksDone).gangs = s.gangs := rfl
@[simp] theorem State.chunksDone_nextGang : (s.chunksDone).nextGang = s.nextGang := rfl
@[simp] theorem State.chunksDone_seqs : (s.chunksDone).seqs = s.seqs := rfl
@[simp] theorem State.chunksDone_vecTurns : (s.chunksDone).vecTurns = s.vecTurns := rfl
@[simp] theorem State.chunksDone_jobs : (s.chunksDone).jobs = s.jobs := rfl
@[simp] theorem State.chunksDone_serials : (s.chunksDone).serials = s.serials := rfl
@[simp] theorem State.chunksDone_nextOrder : (s.chunksDone).nextOrder = s.nextOrder := rfl
@[simp] theorem State.chunksDone_acc : (s.chunksDone).acc = s.acc := rfl
@[simp] theorem State.chunksDone_residue : (s.chunksDone).residue = s.residue := rfl
@[simp] theorem State.chunksDone_rt : (s.chunksDone).rt = s.rt := rfl
@[simp] theorem State.chunksDone_inject : (s.chunksDone).inject = s.inject := rfl
@[simp] theorem State.chunksDone_arrivals : (s.chunksDone).arrivals = s.arrivals := rfl
@[simp] theorem State.chunksDone_requests : (s.chunksDone).requests = s.requests := rfl
@[simp] theorem State.chunksDone_nextReq : (s.chunksDone).nextReq = s.nextReq := rfl
@[simp] theorem State.chunksDone_forwards : (s.chunksDone).forwards = s.forwards := rfl
@[simp] theorem State.chunksDone_links : (s.chunksDone).links = s.links := rfl
@[simp] theorem State.chunksDone_inbound : (s.chunksDone).inbound = s.inbound := rfl
@[simp] theorem State.chunksDone_rings : (s.chunksDone).rings = s.rings := rfl
@[simp] theorem State.chunksDone_absent : (s.chunksDone).absent = s.absent := rfl
@[simp] theorem State.chunksDone_unreachable : (s.chunksDone).unreachable = s.unreachable := rfl
@[simp] theorem State.chunksDone_deadLinks : (s.chunksDone).deadLinks = s.deadLinks := rfl
@[simp] theorem State.chunksDone_routes : (s.chunksDone).routes = s.routes := rfl
@[simp] theorem State.chunksDone_referee : (s.chunksDone).referee = s.referee := rfl
@[simp] theorem State.chunksDone_engineNums : (s.chunksDone).engineNums = s.engineNums := rfl
@[simp] theorem State.chunksDone_contributions : (s.chunksDone).contributions = s.contributions := rfl
@[simp] theorem State.chunksDone_collcan : (s.chunksDone).collcan = s.collcan := rfl
@[simp] theorem State.chunksDone_collcanst : (s.chunksDone).collcanst = s.collcanst := rfl
@[simp] theorem State.chunksDone_lanes : (s.chunksDone).lanes = s.lanes := rfl
@[simp] theorem State.chunksDone_openPhases : (s.chunksDone).openPhases = s.openPhases := rfl
@[simp] theorem State.chunksDone_sends : (s.chunksDone).sends = s.sends := rfl
@[simp] theorem State.chunksDone_queues : (s.chunksDone).queues = s.queues := rfl
@[simp] theorem State.chunksDone_taken : (s.chunksDone).taken = s.taken := rfl
@[simp] theorem State.chunksDone_tierw : (s.chunksDone).tierw = s.tierw := rfl
@[simp] theorem State.chunksDone_charges : (s.chunksDone).charges = s.charges := rfl
@[simp] theorem State.chunksDone_quireCharges : (s.chunksDone).quireCharges = s.quireCharges := rfl
@[simp] theorem State.chunksDone_roundAt : (s.chunksDone).roundAt = s.roundAt := rfl
@[simp] theorem State.chunksDone_msix : (s.chunksDone).msix = s.msix := rfl
@[simp] theorem State.chunksDone_boot : (s.chunksDone).boot = s.boot := rfl
@[simp] theorem State.chunksDone_pwr : (s.chunksDone).pwr = s.pwr := rfl
@[simp] theorem State.chunksDone_changing : (s.chunksDone).changing = s.changing := rfl
@[simp] theorem State.chunksDone_ras : (s.chunksDone).ras = s.ras := rfl
@[simp] theorem State.chunksDone_hostBus : (s.chunksDone).hostBus = s.hostBus := rfl
end

section
variable (s : State) (c : Ctx) (f : Context → Context)
@[simp] theorem State.setCtx_agenda : (s.setCtx c f).agenda = s.agenda := rfl
@[simp] theorem State.setCtx_free : (s.setCtx c f).free = s.free := rfl
@[simp] theorem State.setCtx_th : (s.setCtx c f).th = s.th := rfl
@[simp] theorem State.setCtx_others : (s.setCtx c f).others = s.others := rfl
@[simp] theorem State.setCtx_conts : (s.setCtx c f).conts = s.conts := rfl
@[simp] theorem State.setCtx_mem : (s.setCtx c f).mem = s.mem := rfl
@[simp] theorem State.setCtx_lines : (s.setCtx c f).lines = s.lines := rfl
@[simp] theorem State.setCtx_stamp : (s.setCtx c f).stamp = s.stamp := rfl
@[simp] theorem State.setCtx_ranAt : (s.setCtx c f).ranAt = s.ranAt := rfl
@[simp] theorem State.setCtx_racing : (s.setCtx c f).racing = s.racing := rfl
@[simp] theorem State.setCtx_images : (s.setCtx c f).images = s.images := rfl
@[simp] theorem State.setCtx_pkgid : (s.setCtx c f).pkgid = s.pkgid := rfl
@[simp] theorem State.setCtx_cycle : (s.setCtx c f).cycle = s.cycle := rfl
@[simp] theorem State.setCtx_time : (s.setCtx c f).time = s.time := rfl
@[simp] theorem State.setCtx_timeFrac : (s.setCtx c f).timeFrac = s.timeFrac := rfl
@[simp] theorem State.setCtx_syncAt : (s.setCtx c f).syncAt = s.syncAt := rfl
@[simp] theorem State.setCtx_asidSel : (s.setCtx c f).asidSel = s.asidSel := rfl
@[simp] theorem State.setCtx_resmap : (s.setCtx c f).resmap = s.resmap := rfl
@[simp] theorem State.setCtx_residents : (s.setCtx c f).residents = s.residents := rfl
@[simp] theorem State.setCtx_quotas : (s.setCtx c f).quotas = s.quotas := rfl
@[simp] theorem State.setCtx_bdtab : (s.setCtx c f).bdtab = s.bdtab := rfl
@[simp] theorem State.setCtx_domains : (s.setCtx c f).domains = s.domains := rfl
@[simp] theorem State.setCtx_counters : (s.setCtx c f).counters = s.counters := rfl
@[simp] theorem State.setCtx_tlb : (s.setCtx c f).tlb = s.tlb := rfl
@[simp] theorem State.setCtx_chunks : (s.setCtx c f).chunks = s.chunks := rfl
@[simp] theorem State.setCtx_icache : (s.setCtx c f).icache = s.icache := rfl
@[simp] theorem State.setCtx_ecc : (s.setCtx c f).ecc = s.ecc := rfl
@[simp] theorem State.setCtx_launches : (s.setCtx c f).launches = s.launches := rfl
@[simp] theorem State.setCtx_nextLaunch : (s.setCtx c f).nextLaunch = s.nextLaunch := rfl
@[simp] theorem State.setCtx_huddles : (s.setCtx c f).huddles = s.huddles := rfl
@[simp] theorem State.setCtx_gangWaits : (s.setCtx c f).gangWaits = s.gangWaits := rfl
@[simp] theorem State.setCtx_gangs : (s.setCtx c f).gangs = s.gangs := rfl
@[simp] theorem State.setCtx_nextGang : (s.setCtx c f).nextGang = s.nextGang := rfl
@[simp] theorem State.setCtx_seqs : (s.setCtx c f).seqs = s.seqs := rfl
@[simp] theorem State.setCtx_vecTurns : (s.setCtx c f).vecTurns = s.vecTurns := rfl
@[simp] theorem State.setCtx_jobs : (s.setCtx c f).jobs = s.jobs := rfl
@[simp] theorem State.setCtx_serials : (s.setCtx c f).serials = s.serials := rfl
@[simp] theorem State.setCtx_nextOrder : (s.setCtx c f).nextOrder = s.nextOrder := rfl
@[simp] theorem State.setCtx_acc : (s.setCtx c f).acc = s.acc := rfl
@[simp] theorem State.setCtx_residue : (s.setCtx c f).residue = s.residue := rfl
@[simp] theorem State.setCtx_rt : (s.setCtx c f).rt = s.rt := rfl
@[simp] theorem State.setCtx_inject : (s.setCtx c f).inject = s.inject := rfl
@[simp] theorem State.setCtx_arrivals : (s.setCtx c f).arrivals = s.arrivals := rfl
@[simp] theorem State.setCtx_requests : (s.setCtx c f).requests = s.requests := rfl
@[simp] theorem State.setCtx_nextReq : (s.setCtx c f).nextReq = s.nextReq := rfl
@[simp] theorem State.setCtx_forwards : (s.setCtx c f).forwards = s.forwards := rfl
@[simp] theorem State.setCtx_links : (s.setCtx c f).links = s.links := rfl
@[simp] theorem State.setCtx_inbound : (s.setCtx c f).inbound = s.inbound := rfl
@[simp] theorem State.setCtx_rings : (s.setCtx c f).rings = s.rings := rfl
@[simp] theorem State.setCtx_absent : (s.setCtx c f).absent = s.absent := rfl
@[simp] theorem State.setCtx_unreachable : (s.setCtx c f).unreachable = s.unreachable := rfl
@[simp] theorem State.setCtx_deadLinks : (s.setCtx c f).deadLinks = s.deadLinks := rfl
@[simp] theorem State.setCtx_routes : (s.setCtx c f).routes = s.routes := rfl
@[simp] theorem State.setCtx_referee : (s.setCtx c f).referee = s.referee := rfl
@[simp] theorem State.setCtx_engineNums : (s.setCtx c f).engineNums = s.engineNums := rfl
@[simp] theorem State.setCtx_contributions : (s.setCtx c f).contributions = s.contributions := rfl
@[simp] theorem State.setCtx_collcan : (s.setCtx c f).collcan = s.collcan := rfl
@[simp] theorem State.setCtx_collcanst : (s.setCtx c f).collcanst = s.collcanst := rfl
@[simp] theorem State.setCtx_lanes : (s.setCtx c f).lanes = s.lanes := rfl
@[simp] theorem State.setCtx_openPhases : (s.setCtx c f).openPhases = s.openPhases := rfl
@[simp] theorem State.setCtx_sends : (s.setCtx c f).sends = s.sends := rfl
@[simp] theorem State.setCtx_queues : (s.setCtx c f).queues = s.queues := rfl
@[simp] theorem State.setCtx_taken : (s.setCtx c f).taken = s.taken := rfl
@[simp] theorem State.setCtx_tierw : (s.setCtx c f).tierw = s.tierw := rfl
@[simp] theorem State.setCtx_charges : (s.setCtx c f).charges = s.charges := rfl
@[simp] theorem State.setCtx_quireCharges : (s.setCtx c f).quireCharges = s.quireCharges := rfl
@[simp] theorem State.setCtx_roundAt : (s.setCtx c f).roundAt = s.roundAt := rfl
@[simp] theorem State.setCtx_msix : (s.setCtx c f).msix = s.msix := rfl
@[simp] theorem State.setCtx_boot : (s.setCtx c f).boot = s.boot := rfl
@[simp] theorem State.setCtx_pwr : (s.setCtx c f).pwr = s.pwr := rfl
@[simp] theorem State.setCtx_changing : (s.setCtx c f).changing = s.changing := rfl
@[simp] theorem State.setCtx_ras : (s.setCtx c f).ras = s.ras := rfl
@[simp] theorem State.setCtx_hostBus : (s.setCtx c f).hostBus = s.hostBus := rfl
end

section
variable (s : State) (l t : Nat) (f : Thread → Thread)
@[simp] theorem State.onThread_agenda : (s.onThread l t f).agenda = s.agenda := rfl
@[simp] theorem State.onThread_free : (s.onThread l t f).free = s.free := rfl
@[simp] theorem State.onThread_others : (s.onThread l t f).others = mapIn l t f s.others := rfl
@[simp] theorem State.onThread_conts : (s.onThread l t f).conts = mapIn l t f s.conts := rfl
@[simp] theorem State.onThread_mem : (s.onThread l t f).mem = s.mem := rfl
@[simp] theorem State.onThread_lines : (s.onThread l t f).lines = s.lines := rfl
@[simp] theorem State.onThread_stamp : (s.onThread l t f).stamp = s.stamp := rfl
@[simp] theorem State.onThread_ranAt : (s.onThread l t f).ranAt = s.ranAt := rfl
@[simp] theorem State.onThread_racing : (s.onThread l t f).racing = s.racing := rfl
@[simp] theorem State.onThread_images : (s.onThread l t f).images = s.images := rfl
@[simp] theorem State.onThread_pkgid : (s.onThread l t f).pkgid = s.pkgid := rfl
@[simp] theorem State.onThread_cycle : (s.onThread l t f).cycle = s.cycle := rfl
@[simp] theorem State.onThread_time : (s.onThread l t f).time = s.time := rfl
@[simp] theorem State.onThread_timeFrac : (s.onThread l t f).timeFrac = s.timeFrac := rfl
@[simp] theorem State.onThread_syncAt : (s.onThread l t f).syncAt = s.syncAt := rfl
@[simp] theorem State.onThread_asidSel : (s.onThread l t f).asidSel = s.asidSel := rfl
@[simp] theorem State.onThread_ctxs : (s.onThread l t f).ctxs = s.ctxs := rfl
@[simp] theorem State.onThread_resmap : (s.onThread l t f).resmap = s.resmap := rfl
@[simp] theorem State.onThread_residents : (s.onThread l t f).residents = s.residents := rfl
@[simp] theorem State.onThread_quotas : (s.onThread l t f).quotas = s.quotas := rfl
@[simp] theorem State.onThread_bdtab : (s.onThread l t f).bdtab = s.bdtab := rfl
@[simp] theorem State.onThread_domains : (s.onThread l t f).domains = s.domains := rfl
@[simp] theorem State.onThread_counters : (s.onThread l t f).counters = s.counters := rfl
@[simp] theorem State.onThread_tlb : (s.onThread l t f).tlb = s.tlb := rfl
@[simp] theorem State.onThread_chunks : (s.onThread l t f).chunks = s.chunks := rfl
@[simp] theorem State.onThread_icache : (s.onThread l t f).icache = s.icache := rfl
@[simp] theorem State.onThread_ecc : (s.onThread l t f).ecc = s.ecc := rfl
@[simp] theorem State.onThread_launches : (s.onThread l t f).launches = s.launches := rfl
@[simp] theorem State.onThread_nextLaunch : (s.onThread l t f).nextLaunch = s.nextLaunch := rfl
@[simp] theorem State.onThread_huddles : (s.onThread l t f).huddles = s.huddles := rfl
@[simp] theorem State.onThread_gangWaits : (s.onThread l t f).gangWaits = s.gangWaits := rfl
@[simp] theorem State.onThread_gangs : (s.onThread l t f).gangs = s.gangs := rfl
@[simp] theorem State.onThread_nextGang : (s.onThread l t f).nextGang = s.nextGang := rfl
@[simp] theorem State.onThread_seqs : (s.onThread l t f).seqs = s.seqs := rfl
@[simp] theorem State.onThread_vecTurns : (s.onThread l t f).vecTurns = s.vecTurns := rfl
@[simp] theorem State.onThread_jobs : (s.onThread l t f).jobs = s.jobs := rfl
@[simp] theorem State.onThread_serials : (s.onThread l t f).serials = s.serials := rfl
@[simp] theorem State.onThread_nextOrder : (s.onThread l t f).nextOrder = s.nextOrder := rfl
@[simp] theorem State.onThread_acc : (s.onThread l t f).acc = s.acc := rfl
@[simp] theorem State.onThread_residue : (s.onThread l t f).residue = s.residue := rfl
@[simp] theorem State.onThread_rt : (s.onThread l t f).rt = s.rt := rfl
@[simp] theorem State.onThread_inject : (s.onThread l t f).inject = s.inject := rfl
@[simp] theorem State.onThread_arrivals : (s.onThread l t f).arrivals = s.arrivals := rfl
@[simp] theorem State.onThread_requests : (s.onThread l t f).requests = s.requests := rfl
@[simp] theorem State.onThread_nextReq : (s.onThread l t f).nextReq = s.nextReq := rfl
@[simp] theorem State.onThread_forwards : (s.onThread l t f).forwards = s.forwards := rfl
@[simp] theorem State.onThread_links : (s.onThread l t f).links = s.links := rfl
@[simp] theorem State.onThread_inbound : (s.onThread l t f).inbound = s.inbound := rfl
@[simp] theorem State.onThread_rings : (s.onThread l t f).rings = s.rings := rfl
@[simp] theorem State.onThread_absent : (s.onThread l t f).absent = s.absent := rfl
@[simp] theorem State.onThread_unreachable : (s.onThread l t f).unreachable = s.unreachable := rfl
@[simp] theorem State.onThread_deadLinks : (s.onThread l t f).deadLinks = s.deadLinks := rfl
@[simp] theorem State.onThread_routes : (s.onThread l t f).routes = s.routes := rfl
@[simp] theorem State.onThread_referee : (s.onThread l t f).referee = s.referee := rfl
@[simp] theorem State.onThread_engineNums : (s.onThread l t f).engineNums = s.engineNums := rfl
@[simp] theorem State.onThread_contributions : (s.onThread l t f).contributions = s.contributions := rfl
@[simp] theorem State.onThread_collcan : (s.onThread l t f).collcan = s.collcan := rfl
@[simp] theorem State.onThread_collcanst : (s.onThread l t f).collcanst = s.collcanst := rfl
@[simp] theorem State.onThread_lanes : (s.onThread l t f).lanes = s.lanes := rfl
@[simp] theorem State.onThread_openPhases : (s.onThread l t f).openPhases = s.openPhases := rfl
@[simp] theorem State.onThread_sends : (s.onThread l t f).sends = s.sends := rfl
@[simp] theorem State.onThread_queues : (s.onThread l t f).queues = s.queues := rfl
@[simp] theorem State.onThread_taken : (s.onThread l t f).taken = s.taken := rfl
@[simp] theorem State.onThread_tierw : (s.onThread l t f).tierw = s.tierw := rfl
@[simp] theorem State.onThread_charges : (s.onThread l t f).charges = s.charges := rfl
@[simp] theorem State.onThread_quireCharges : (s.onThread l t f).quireCharges = s.quireCharges := rfl
@[simp] theorem State.onThread_roundAt : (s.onThread l t f).roundAt = s.roundAt := rfl
@[simp] theorem State.onThread_msix : (s.onThread l t f).msix = s.msix := rfl
@[simp] theorem State.onThread_boot : (s.onThread l t f).boot = s.boot := rfl
@[simp] theorem State.onThread_pwr : (s.onThread l t f).pwr = s.pwr := rfl
@[simp] theorem State.onThread_changing : (s.onThread l t f).changing = s.changing := rfl
@[simp] theorem State.onThread_ras : (s.onThread l t f).ras = s.ras := rfl
@[simp] theorem State.onThread_hostBus : (s.onThread l t f).hostBus = s.hostBus := rfl
end

section
variable (s : State) (n : Nat) (f : Launch → Launch)
@[simp] theorem State.onLaunch_agenda : (s.onLaunch n f).agenda = s.agenda := rfl
@[simp] theorem State.onLaunch_free : (s.onLaunch n f).free = s.free := rfl
@[simp] theorem State.onLaunch_th : (s.onLaunch n f).th = s.th := rfl
@[simp] theorem State.onLaunch_others : (s.onLaunch n f).others = s.others := rfl
@[simp] theorem State.onLaunch_conts : (s.onLaunch n f).conts = s.conts := rfl
@[simp] theorem State.onLaunch_mem : (s.onLaunch n f).mem = s.mem := rfl
@[simp] theorem State.onLaunch_lines : (s.onLaunch n f).lines = s.lines := rfl
@[simp] theorem State.onLaunch_stamp : (s.onLaunch n f).stamp = s.stamp := rfl
@[simp] theorem State.onLaunch_ranAt : (s.onLaunch n f).ranAt = s.ranAt := rfl
@[simp] theorem State.onLaunch_racing : (s.onLaunch n f).racing = s.racing := rfl
@[simp] theorem State.onLaunch_images : (s.onLaunch n f).images = s.images := rfl
@[simp] theorem State.onLaunch_pkgid : (s.onLaunch n f).pkgid = s.pkgid := rfl
@[simp] theorem State.onLaunch_cycle : (s.onLaunch n f).cycle = s.cycle := rfl
@[simp] theorem State.onLaunch_time : (s.onLaunch n f).time = s.time := rfl
@[simp] theorem State.onLaunch_timeFrac : (s.onLaunch n f).timeFrac = s.timeFrac := rfl
@[simp] theorem State.onLaunch_syncAt : (s.onLaunch n f).syncAt = s.syncAt := rfl
@[simp] theorem State.onLaunch_asidSel : (s.onLaunch n f).asidSel = s.asidSel := rfl
@[simp] theorem State.onLaunch_ctxs : (s.onLaunch n f).ctxs = s.ctxs := rfl
@[simp] theorem State.onLaunch_resmap : (s.onLaunch n f).resmap = s.resmap := rfl
@[simp] theorem State.onLaunch_residents : (s.onLaunch n f).residents = s.residents := rfl
@[simp] theorem State.onLaunch_quotas : (s.onLaunch n f).quotas = s.quotas := rfl
@[simp] theorem State.onLaunch_bdtab : (s.onLaunch n f).bdtab = s.bdtab := rfl
@[simp] theorem State.onLaunch_domains : (s.onLaunch n f).domains = s.domains := rfl
@[simp] theorem State.onLaunch_counters : (s.onLaunch n f).counters = s.counters := rfl
@[simp] theorem State.onLaunch_tlb : (s.onLaunch n f).tlb = s.tlb := rfl
@[simp] theorem State.onLaunch_chunks : (s.onLaunch n f).chunks = s.chunks := rfl
@[simp] theorem State.onLaunch_icache : (s.onLaunch n f).icache = s.icache := rfl
@[simp] theorem State.onLaunch_ecc : (s.onLaunch n f).ecc = s.ecc := rfl
@[simp] theorem State.onLaunch_nextLaunch : (s.onLaunch n f).nextLaunch = s.nextLaunch := rfl
@[simp] theorem State.onLaunch_huddles : (s.onLaunch n f).huddles = s.huddles := rfl
@[simp] theorem State.onLaunch_gangWaits : (s.onLaunch n f).gangWaits = s.gangWaits := rfl
@[simp] theorem State.onLaunch_gangs : (s.onLaunch n f).gangs = s.gangs := rfl
@[simp] theorem State.onLaunch_nextGang : (s.onLaunch n f).nextGang = s.nextGang := rfl
@[simp] theorem State.onLaunch_seqs : (s.onLaunch n f).seqs = s.seqs := rfl
@[simp] theorem State.onLaunch_vecTurns : (s.onLaunch n f).vecTurns = s.vecTurns := rfl
@[simp] theorem State.onLaunch_jobs : (s.onLaunch n f).jobs = s.jobs := rfl
@[simp] theorem State.onLaunch_serials : (s.onLaunch n f).serials = s.serials := rfl
@[simp] theorem State.onLaunch_nextOrder : (s.onLaunch n f).nextOrder = s.nextOrder := rfl
@[simp] theorem State.onLaunch_acc : (s.onLaunch n f).acc = s.acc := rfl
@[simp] theorem State.onLaunch_residue : (s.onLaunch n f).residue = s.residue := rfl
@[simp] theorem State.onLaunch_rt : (s.onLaunch n f).rt = s.rt := rfl
@[simp] theorem State.onLaunch_inject : (s.onLaunch n f).inject = s.inject := rfl
@[simp] theorem State.onLaunch_arrivals : (s.onLaunch n f).arrivals = s.arrivals := rfl
@[simp] theorem State.onLaunch_requests : (s.onLaunch n f).requests = s.requests := rfl
@[simp] theorem State.onLaunch_nextReq : (s.onLaunch n f).nextReq = s.nextReq := rfl
@[simp] theorem State.onLaunch_forwards : (s.onLaunch n f).forwards = s.forwards := rfl
@[simp] theorem State.onLaunch_links : (s.onLaunch n f).links = s.links := rfl
@[simp] theorem State.onLaunch_inbound : (s.onLaunch n f).inbound = s.inbound := rfl
@[simp] theorem State.onLaunch_rings : (s.onLaunch n f).rings = s.rings := rfl
@[simp] theorem State.onLaunch_absent : (s.onLaunch n f).absent = s.absent := rfl
@[simp] theorem State.onLaunch_unreachable : (s.onLaunch n f).unreachable = s.unreachable := rfl
@[simp] theorem State.onLaunch_deadLinks : (s.onLaunch n f).deadLinks = s.deadLinks := rfl
@[simp] theorem State.onLaunch_routes : (s.onLaunch n f).routes = s.routes := rfl
@[simp] theorem State.onLaunch_referee : (s.onLaunch n f).referee = s.referee := rfl
@[simp] theorem State.onLaunch_engineNums : (s.onLaunch n f).engineNums = s.engineNums := rfl
@[simp] theorem State.onLaunch_contributions : (s.onLaunch n f).contributions = s.contributions := rfl
@[simp] theorem State.onLaunch_collcan : (s.onLaunch n f).collcan = s.collcan := rfl
@[simp] theorem State.onLaunch_collcanst : (s.onLaunch n f).collcanst = s.collcanst := rfl
@[simp] theorem State.onLaunch_lanes : (s.onLaunch n f).lanes = s.lanes := rfl
@[simp] theorem State.onLaunch_openPhases : (s.onLaunch n f).openPhases = s.openPhases := rfl
@[simp] theorem State.onLaunch_sends : (s.onLaunch n f).sends = s.sends := rfl
@[simp] theorem State.onLaunch_queues : (s.onLaunch n f).queues = s.queues := rfl
@[simp] theorem State.onLaunch_taken : (s.onLaunch n f).taken = s.taken := rfl
@[simp] theorem State.onLaunch_tierw : (s.onLaunch n f).tierw = s.tierw := rfl
@[simp] theorem State.onLaunch_charges : (s.onLaunch n f).charges = s.charges := rfl
@[simp] theorem State.onLaunch_quireCharges : (s.onLaunch n f).quireCharges = s.quireCharges := rfl
@[simp] theorem State.onLaunch_roundAt : (s.onLaunch n f).roundAt = s.roundAt := rfl
@[simp] theorem State.onLaunch_msix : (s.onLaunch n f).msix = s.msix := rfl
@[simp] theorem State.onLaunch_boot : (s.onLaunch n f).boot = s.boot := rfl
@[simp] theorem State.onLaunch_pwr : (s.onLaunch n f).pwr = s.pwr := rfl
@[simp] theorem State.onLaunch_changing : (s.onLaunch n f).changing = s.changing := rfl
@[simp] theorem State.onLaunch_ras : (s.onLaunch n f).ras = s.ras := rfl
@[simp] theorem State.onLaunch_hostBus : (s.onLaunch n f).hostBus = s.hostBus := rfl
end

section
variable (s : State) (l n : Nat) (f : Huddle → Huddle)
@[simp] theorem State.onHuddle_agenda : (s.onHuddle l n f).agenda = s.agenda := rfl
@[simp] theorem State.onHuddle_free : (s.onHuddle l n f).free = s.free := rfl
@[simp] theorem State.onHuddle_th : (s.onHuddle l n f).th = s.th := rfl
@[simp] theorem State.onHuddle_others : (s.onHuddle l n f).others = s.others := rfl
@[simp] theorem State.onHuddle_conts : (s.onHuddle l n f).conts = s.conts := rfl
@[simp] theorem State.onHuddle_mem : (s.onHuddle l n f).mem = s.mem := rfl
@[simp] theorem State.onHuddle_lines : (s.onHuddle l n f).lines = s.lines := rfl
@[simp] theorem State.onHuddle_stamp : (s.onHuddle l n f).stamp = s.stamp := rfl
@[simp] theorem State.onHuddle_ranAt : (s.onHuddle l n f).ranAt = s.ranAt := rfl
@[simp] theorem State.onHuddle_racing : (s.onHuddle l n f).racing = s.racing := rfl
@[simp] theorem State.onHuddle_images : (s.onHuddle l n f).images = s.images := rfl
@[simp] theorem State.onHuddle_pkgid : (s.onHuddle l n f).pkgid = s.pkgid := rfl
@[simp] theorem State.onHuddle_cycle : (s.onHuddle l n f).cycle = s.cycle := rfl
@[simp] theorem State.onHuddle_time : (s.onHuddle l n f).time = s.time := rfl
@[simp] theorem State.onHuddle_timeFrac : (s.onHuddle l n f).timeFrac = s.timeFrac := rfl
@[simp] theorem State.onHuddle_syncAt : (s.onHuddle l n f).syncAt = s.syncAt := rfl
@[simp] theorem State.onHuddle_asidSel : (s.onHuddle l n f).asidSel = s.asidSel := rfl
@[simp] theorem State.onHuddle_ctxs : (s.onHuddle l n f).ctxs = s.ctxs := rfl
@[simp] theorem State.onHuddle_resmap : (s.onHuddle l n f).resmap = s.resmap := rfl
@[simp] theorem State.onHuddle_residents : (s.onHuddle l n f).residents = s.residents := rfl
@[simp] theorem State.onHuddle_quotas : (s.onHuddle l n f).quotas = s.quotas := rfl
@[simp] theorem State.onHuddle_bdtab : (s.onHuddle l n f).bdtab = s.bdtab := rfl
@[simp] theorem State.onHuddle_domains : (s.onHuddle l n f).domains = s.domains := rfl
@[simp] theorem State.onHuddle_counters : (s.onHuddle l n f).counters = s.counters := rfl
@[simp] theorem State.onHuddle_tlb : (s.onHuddle l n f).tlb = s.tlb := rfl
@[simp] theorem State.onHuddle_chunks : (s.onHuddle l n f).chunks = s.chunks := rfl
@[simp] theorem State.onHuddle_icache : (s.onHuddle l n f).icache = s.icache := rfl
@[simp] theorem State.onHuddle_ecc : (s.onHuddle l n f).ecc = s.ecc := rfl
@[simp] theorem State.onHuddle_launches : (s.onHuddle l n f).launches = s.launches := rfl
@[simp] theorem State.onHuddle_nextLaunch : (s.onHuddle l n f).nextLaunch = s.nextLaunch := rfl
@[simp] theorem State.onHuddle_gangWaits : (s.onHuddle l n f).gangWaits = s.gangWaits := rfl
@[simp] theorem State.onHuddle_gangs : (s.onHuddle l n f).gangs = s.gangs := rfl
@[simp] theorem State.onHuddle_nextGang : (s.onHuddle l n f).nextGang = s.nextGang := rfl
@[simp] theorem State.onHuddle_seqs : (s.onHuddle l n f).seqs = s.seqs := rfl
@[simp] theorem State.onHuddle_vecTurns : (s.onHuddle l n f).vecTurns = s.vecTurns := rfl
@[simp] theorem State.onHuddle_jobs : (s.onHuddle l n f).jobs = s.jobs := rfl
@[simp] theorem State.onHuddle_serials : (s.onHuddle l n f).serials = s.serials := rfl
@[simp] theorem State.onHuddle_nextOrder : (s.onHuddle l n f).nextOrder = s.nextOrder := rfl
@[simp] theorem State.onHuddle_acc : (s.onHuddle l n f).acc = s.acc := rfl
@[simp] theorem State.onHuddle_residue : (s.onHuddle l n f).residue = s.residue := rfl
@[simp] theorem State.onHuddle_rt : (s.onHuddle l n f).rt = s.rt := rfl
@[simp] theorem State.onHuddle_inject : (s.onHuddle l n f).inject = s.inject := rfl
@[simp] theorem State.onHuddle_arrivals : (s.onHuddle l n f).arrivals = s.arrivals := rfl
@[simp] theorem State.onHuddle_requests : (s.onHuddle l n f).requests = s.requests := rfl
@[simp] theorem State.onHuddle_nextReq : (s.onHuddle l n f).nextReq = s.nextReq := rfl
@[simp] theorem State.onHuddle_forwards : (s.onHuddle l n f).forwards = s.forwards := rfl
@[simp] theorem State.onHuddle_links : (s.onHuddle l n f).links = s.links := rfl
@[simp] theorem State.onHuddle_inbound : (s.onHuddle l n f).inbound = s.inbound := rfl
@[simp] theorem State.onHuddle_rings : (s.onHuddle l n f).rings = s.rings := rfl
@[simp] theorem State.onHuddle_absent : (s.onHuddle l n f).absent = s.absent := rfl
@[simp] theorem State.onHuddle_unreachable : (s.onHuddle l n f).unreachable = s.unreachable := rfl
@[simp] theorem State.onHuddle_deadLinks : (s.onHuddle l n f).deadLinks = s.deadLinks := rfl
@[simp] theorem State.onHuddle_routes : (s.onHuddle l n f).routes = s.routes := rfl
@[simp] theorem State.onHuddle_referee : (s.onHuddle l n f).referee = s.referee := rfl
@[simp] theorem State.onHuddle_engineNums : (s.onHuddle l n f).engineNums = s.engineNums := rfl
@[simp] theorem State.onHuddle_contributions : (s.onHuddle l n f).contributions = s.contributions := rfl
@[simp] theorem State.onHuddle_collcan : (s.onHuddle l n f).collcan = s.collcan := rfl
@[simp] theorem State.onHuddle_collcanst : (s.onHuddle l n f).collcanst = s.collcanst := rfl
@[simp] theorem State.onHuddle_lanes : (s.onHuddle l n f).lanes = s.lanes := rfl
@[simp] theorem State.onHuddle_openPhases : (s.onHuddle l n f).openPhases = s.openPhases := rfl
@[simp] theorem State.onHuddle_sends : (s.onHuddle l n f).sends = s.sends := rfl
@[simp] theorem State.onHuddle_queues : (s.onHuddle l n f).queues = s.queues := rfl
@[simp] theorem State.onHuddle_taken : (s.onHuddle l n f).taken = s.taken := rfl
@[simp] theorem State.onHuddle_tierw : (s.onHuddle l n f).tierw = s.tierw := rfl
@[simp] theorem State.onHuddle_charges : (s.onHuddle l n f).charges = s.charges := rfl
@[simp] theorem State.onHuddle_quireCharges : (s.onHuddle l n f).quireCharges = s.quireCharges := rfl
@[simp] theorem State.onHuddle_roundAt : (s.onHuddle l n f).roundAt = s.roundAt := rfl
@[simp] theorem State.onHuddle_msix : (s.onHuddle l n f).msix = s.msix := rfl
@[simp] theorem State.onHuddle_boot : (s.onHuddle l n f).boot = s.boot := rfl
@[simp] theorem State.onHuddle_pwr : (s.onHuddle l n f).pwr = s.pwr := rfl
@[simp] theorem State.onHuddle_changing : (s.onHuddle l n f).changing = s.changing := rfl
@[simp] theorem State.onHuddle_ras : (s.onHuddle l n f).ras = s.ras := rfl
@[simp] theorem State.onHuddle_hostBus : (s.onHuddle l n f).hostBus = s.hostBus := rfl
end

section
variable (s : State)
@[simp] theorem State.dropHuddles_agenda : (s.dropHuddles).agenda = s.agenda := rfl
@[simp] theorem State.dropHuddles_free : (s.dropHuddles).free = s.free := rfl
@[simp] theorem State.dropHuddles_th : (s.dropHuddles).th = s.th := rfl
@[simp] theorem State.dropHuddles_others : (s.dropHuddles).others = s.others := rfl
@[simp] theorem State.dropHuddles_conts : (s.dropHuddles).conts = s.conts := rfl
@[simp] theorem State.dropHuddles_mem : (s.dropHuddles).mem = s.mem := rfl
@[simp] theorem State.dropHuddles_lines : (s.dropHuddles).lines = s.lines := rfl
@[simp] theorem State.dropHuddles_stamp : (s.dropHuddles).stamp = s.stamp := rfl
@[simp] theorem State.dropHuddles_ranAt : (s.dropHuddles).ranAt = s.ranAt := rfl
@[simp] theorem State.dropHuddles_racing : (s.dropHuddles).racing = s.racing := rfl
@[simp] theorem State.dropHuddles_images : (s.dropHuddles).images = s.images := rfl
@[simp] theorem State.dropHuddles_pkgid : (s.dropHuddles).pkgid = s.pkgid := rfl
@[simp] theorem State.dropHuddles_cycle : (s.dropHuddles).cycle = s.cycle := rfl
@[simp] theorem State.dropHuddles_time : (s.dropHuddles).time = s.time := rfl
@[simp] theorem State.dropHuddles_timeFrac : (s.dropHuddles).timeFrac = s.timeFrac := rfl
@[simp] theorem State.dropHuddles_syncAt : (s.dropHuddles).syncAt = s.syncAt := rfl
@[simp] theorem State.dropHuddles_asidSel : (s.dropHuddles).asidSel = s.asidSel := rfl
@[simp] theorem State.dropHuddles_ctxs : (s.dropHuddles).ctxs = s.ctxs := rfl
@[simp] theorem State.dropHuddles_resmap : (s.dropHuddles).resmap = s.resmap := rfl
@[simp] theorem State.dropHuddles_residents : (s.dropHuddles).residents = s.residents := rfl
@[simp] theorem State.dropHuddles_quotas : (s.dropHuddles).quotas = s.quotas := rfl
@[simp] theorem State.dropHuddles_bdtab : (s.dropHuddles).bdtab = s.bdtab := rfl
@[simp] theorem State.dropHuddles_domains : (s.dropHuddles).domains = s.domains := rfl
@[simp] theorem State.dropHuddles_counters : (s.dropHuddles).counters = s.counters := rfl
@[simp] theorem State.dropHuddles_tlb : (s.dropHuddles).tlb = s.tlb := rfl
@[simp] theorem State.dropHuddles_chunks : (s.dropHuddles).chunks = s.chunks := rfl
@[simp] theorem State.dropHuddles_icache : (s.dropHuddles).icache = s.icache := rfl
@[simp] theorem State.dropHuddles_ecc : (s.dropHuddles).ecc = s.ecc := rfl
@[simp] theorem State.dropHuddles_launches : (s.dropHuddles).launches = s.launches := rfl
@[simp] theorem State.dropHuddles_nextLaunch : (s.dropHuddles).nextLaunch = s.nextLaunch := rfl
@[simp] theorem State.dropHuddles_gangWaits : (s.dropHuddles).gangWaits = s.gangWaits := rfl
@[simp] theorem State.dropHuddles_gangs : (s.dropHuddles).gangs = s.gangs := rfl
@[simp] theorem State.dropHuddles_nextGang : (s.dropHuddles).nextGang = s.nextGang := rfl
@[simp] theorem State.dropHuddles_seqs : (s.dropHuddles).seqs = s.seqs := rfl
@[simp] theorem State.dropHuddles_vecTurns : (s.dropHuddles).vecTurns = s.vecTurns := rfl
@[simp] theorem State.dropHuddles_jobs : (s.dropHuddles).jobs = s.jobs := rfl
@[simp] theorem State.dropHuddles_serials : (s.dropHuddles).serials = s.serials := rfl
@[simp] theorem State.dropHuddles_nextOrder : (s.dropHuddles).nextOrder = s.nextOrder := rfl
@[simp] theorem State.dropHuddles_acc : (s.dropHuddles).acc = s.acc := rfl
@[simp] theorem State.dropHuddles_residue : (s.dropHuddles).residue = s.residue := rfl
@[simp] theorem State.dropHuddles_rt : (s.dropHuddles).rt = s.rt := rfl
@[simp] theorem State.dropHuddles_inject : (s.dropHuddles).inject = s.inject := rfl
@[simp] theorem State.dropHuddles_arrivals : (s.dropHuddles).arrivals = s.arrivals := rfl
@[simp] theorem State.dropHuddles_requests : (s.dropHuddles).requests = s.requests := rfl
@[simp] theorem State.dropHuddles_nextReq : (s.dropHuddles).nextReq = s.nextReq := rfl
@[simp] theorem State.dropHuddles_forwards : (s.dropHuddles).forwards = s.forwards := rfl
@[simp] theorem State.dropHuddles_links : (s.dropHuddles).links = s.links := rfl
@[simp] theorem State.dropHuddles_inbound : (s.dropHuddles).inbound = s.inbound := rfl
@[simp] theorem State.dropHuddles_rings : (s.dropHuddles).rings = s.rings := rfl
@[simp] theorem State.dropHuddles_absent : (s.dropHuddles).absent = s.absent := rfl
@[simp] theorem State.dropHuddles_unreachable : (s.dropHuddles).unreachable = s.unreachable := rfl
@[simp] theorem State.dropHuddles_deadLinks : (s.dropHuddles).deadLinks = s.deadLinks := rfl
@[simp] theorem State.dropHuddles_routes : (s.dropHuddles).routes = s.routes := rfl
@[simp] theorem State.dropHuddles_referee : (s.dropHuddles).referee = s.referee := rfl
@[simp] theorem State.dropHuddles_engineNums : (s.dropHuddles).engineNums = s.engineNums := rfl
@[simp] theorem State.dropHuddles_contributions : (s.dropHuddles).contributions = s.contributions := rfl
@[simp] theorem State.dropHuddles_collcan : (s.dropHuddles).collcan = s.collcan := rfl
@[simp] theorem State.dropHuddles_collcanst : (s.dropHuddles).collcanst = s.collcanst := rfl
@[simp] theorem State.dropHuddles_lanes : (s.dropHuddles).lanes = s.lanes := rfl
@[simp] theorem State.dropHuddles_openPhases : (s.dropHuddles).openPhases = s.openPhases := rfl
@[simp] theorem State.dropHuddles_sends : (s.dropHuddles).sends = s.sends := rfl
@[simp] theorem State.dropHuddles_queues : (s.dropHuddles).queues = s.queues := rfl
@[simp] theorem State.dropHuddles_taken : (s.dropHuddles).taken = s.taken := rfl
@[simp] theorem State.dropHuddles_tierw : (s.dropHuddles).tierw = s.tierw := rfl
@[simp] theorem State.dropHuddles_charges : (s.dropHuddles).charges = s.charges := rfl
@[simp] theorem State.dropHuddles_quireCharges : (s.dropHuddles).quireCharges = s.quireCharges := rfl
@[simp] theorem State.dropHuddles_roundAt : (s.dropHuddles).roundAt = s.roundAt := rfl
@[simp] theorem State.dropHuddles_msix : (s.dropHuddles).msix = s.msix := rfl
@[simp] theorem State.dropHuddles_boot : (s.dropHuddles).boot = s.boot := rfl
@[simp] theorem State.dropHuddles_pwr : (s.dropHuddles).pwr = s.pwr := rfl
@[simp] theorem State.dropHuddles_changing : (s.dropHuddles).changing = s.changing := rfl
@[simp] theorem State.dropHuddles_ras : (s.dropHuddles).ras = s.ras := rfl
@[simp] theorem State.dropHuddles_hostBus : (s.dropHuddles).hostBus = s.hostBus := rfl
end

section
variable (s : State) (r : RegField)
@[simp] theorem State.healed_agenda : (s.healed r).agenda = s.agenda := rfl
@[simp] theorem State.healed_free : (s.healed r).free = s.free := rfl
@[simp] theorem State.healed_th : (s.healed r).th = s.th := rfl
@[simp] theorem State.healed_others : (s.healed r).others = s.others := rfl
@[simp] theorem State.healed_conts : (s.healed r).conts = s.conts := rfl
@[simp] theorem State.healed_mem : (s.healed r).mem = s.mem := rfl
@[simp] theorem State.healed_lines : (s.healed r).lines = s.lines := rfl
@[simp] theorem State.healed_stamp : (s.healed r).stamp = s.stamp := rfl
@[simp] theorem State.healed_ranAt : (s.healed r).ranAt = s.ranAt := rfl
@[simp] theorem State.healed_racing : (s.healed r).racing = s.racing := rfl
@[simp] theorem State.healed_images : (s.healed r).images = s.images := rfl
@[simp] theorem State.healed_pkgid : (s.healed r).pkgid = s.pkgid := rfl
@[simp] theorem State.healed_cycle : (s.healed r).cycle = s.cycle := rfl
@[simp] theorem State.healed_time : (s.healed r).time = s.time := rfl
@[simp] theorem State.healed_timeFrac : (s.healed r).timeFrac = s.timeFrac := rfl
@[simp] theorem State.healed_syncAt : (s.healed r).syncAt = s.syncAt := rfl
@[simp] theorem State.healed_asidSel : (s.healed r).asidSel = s.asidSel := rfl
@[simp] theorem State.healed_ctxs : (s.healed r).ctxs = s.ctxs := rfl
@[simp] theorem State.healed_resmap : (s.healed r).resmap = s.resmap := rfl
@[simp] theorem State.healed_residents : (s.healed r).residents = s.residents := rfl
@[simp] theorem State.healed_quotas : (s.healed r).quotas = s.quotas := rfl
@[simp] theorem State.healed_bdtab : (s.healed r).bdtab = s.bdtab := rfl
@[simp] theorem State.healed_domains : (s.healed r).domains = s.domains := rfl
@[simp] theorem State.healed_counters : (s.healed r).counters = s.counters := rfl
@[simp] theorem State.healed_tlb : (s.healed r).tlb = s.tlb := rfl
@[simp] theorem State.healed_chunks : (s.healed r).chunks = s.chunks := rfl
@[simp] theorem State.healed_icache : (s.healed r).icache = s.icache := rfl
@[simp] theorem State.healed_launches : (s.healed r).launches = s.launches := rfl
@[simp] theorem State.healed_nextLaunch : (s.healed r).nextLaunch = s.nextLaunch := rfl
@[simp] theorem State.healed_huddles : (s.healed r).huddles = s.huddles := rfl
@[simp] theorem State.healed_gangWaits : (s.healed r).gangWaits = s.gangWaits := rfl
@[simp] theorem State.healed_gangs : (s.healed r).gangs = s.gangs := rfl
@[simp] theorem State.healed_nextGang : (s.healed r).nextGang = s.nextGang := rfl
@[simp] theorem State.healed_seqs : (s.healed r).seqs = s.seqs := rfl
@[simp] theorem State.healed_vecTurns : (s.healed r).vecTurns = s.vecTurns := rfl
@[simp] theorem State.healed_jobs : (s.healed r).jobs = s.jobs := rfl
@[simp] theorem State.healed_serials : (s.healed r).serials = s.serials := rfl
@[simp] theorem State.healed_nextOrder : (s.healed r).nextOrder = s.nextOrder := rfl
@[simp] theorem State.healed_acc : (s.healed r).acc = s.acc := rfl
@[simp] theorem State.healed_residue : (s.healed r).residue = s.residue := rfl
@[simp] theorem State.healed_rt : (s.healed r).rt = s.rt := rfl
@[simp] theorem State.healed_inject : (s.healed r).inject = s.inject := rfl
@[simp] theorem State.healed_arrivals : (s.healed r).arrivals = s.arrivals := rfl
@[simp] theorem State.healed_requests : (s.healed r).requests = s.requests := rfl
@[simp] theorem State.healed_nextReq : (s.healed r).nextReq = s.nextReq := rfl
@[simp] theorem State.healed_forwards : (s.healed r).forwards = s.forwards := rfl
@[simp] theorem State.healed_links : (s.healed r).links = s.links := rfl
@[simp] theorem State.healed_inbound : (s.healed r).inbound = s.inbound := rfl
@[simp] theorem State.healed_rings : (s.healed r).rings = s.rings := rfl
@[simp] theorem State.healed_absent : (s.healed r).absent = s.absent := rfl
@[simp] theorem State.healed_unreachable : (s.healed r).unreachable = s.unreachable := rfl
@[simp] theorem State.healed_deadLinks : (s.healed r).deadLinks = s.deadLinks := rfl
@[simp] theorem State.healed_routes : (s.healed r).routes = s.routes := rfl
@[simp] theorem State.healed_referee : (s.healed r).referee = s.referee := rfl
@[simp] theorem State.healed_engineNums : (s.healed r).engineNums = s.engineNums := rfl
@[simp] theorem State.healed_contributions : (s.healed r).contributions = s.contributions := rfl
@[simp] theorem State.healed_collcan : (s.healed r).collcan = s.collcan := rfl
@[simp] theorem State.healed_collcanst : (s.healed r).collcanst = s.collcanst := rfl
@[simp] theorem State.healed_lanes : (s.healed r).lanes = s.lanes := rfl
@[simp] theorem State.healed_openPhases : (s.healed r).openPhases = s.openPhases := rfl
@[simp] theorem State.healed_sends : (s.healed r).sends = s.sends := rfl
@[simp] theorem State.healed_queues : (s.healed r).queues = s.queues := rfl
@[simp] theorem State.healed_taken : (s.healed r).taken = s.taken := rfl
@[simp] theorem State.healed_tierw : (s.healed r).tierw = s.tierw := rfl
@[simp] theorem State.healed_charges : (s.healed r).charges = s.charges := rfl
@[simp] theorem State.healed_quireCharges : (s.healed r).quireCharges = s.quireCharges := rfl
@[simp] theorem State.healed_roundAt : (s.healed r).roundAt = s.roundAt := rfl
@[simp] theorem State.healed_msix : (s.healed r).msix = s.msix := rfl
@[simp] theorem State.healed_boot : (s.healed r).boot = s.boot := rfl
@[simp] theorem State.healed_pwr : (s.healed r).pwr = s.pwr := rfl
@[simp] theorem State.healed_changing : (s.healed r).changing = s.changing := rfl
@[simp] theorem State.healed_ras : (s.healed r).ras = s.ras := rfl
@[simp] theorem State.healed_hostBus : (s.healed r).hostBus = s.hostBus := rfl
end

section
variable (s : State) (c : Ctx) (p : Nat) (bs : List Byte)
@[simp] theorem State.rawStore_agenda : (s.rawStore c p bs).agenda = s.agenda := rfl
@[simp] theorem State.rawStore_free : (s.rawStore c p bs).free = s.free := rfl
@[simp] theorem State.rawStore_th : (s.rawStore c p bs).th = s.th := rfl
@[simp] theorem State.rawStore_others : (s.rawStore c p bs).others = s.others := rfl
@[simp] theorem State.rawStore_conts : (s.rawStore c p bs).conts = s.conts := rfl
@[simp] theorem State.rawStore_mem : (s.rawStore c p bs).mem = s.mem.writeBytes p bs := rfl
@[simp] theorem State.rawStore_stamp : (s.rawStore c p bs).stamp = s.stamp + 1 := rfl
@[simp] theorem State.rawStore_ranAt : (s.rawStore c p bs).ranAt = s.ranAt := rfl
@[simp] theorem State.rawStore_racing : (s.rawStore c p bs).racing = s.racing := rfl
@[simp] theorem State.rawStore_images : (s.rawStore c p bs).images = s.images := rfl
@[simp] theorem State.rawStore_pkgid : (s.rawStore c p bs).pkgid = s.pkgid := rfl
@[simp] theorem State.rawStore_cycle : (s.rawStore c p bs).cycle = s.cycle := rfl
@[simp] theorem State.rawStore_time : (s.rawStore c p bs).time = s.time := rfl
@[simp] theorem State.rawStore_timeFrac : (s.rawStore c p bs).timeFrac = s.timeFrac := rfl
@[simp] theorem State.rawStore_syncAt : (s.rawStore c p bs).syncAt = s.syncAt := rfl
@[simp] theorem State.rawStore_asidSel : (s.rawStore c p bs).asidSel = s.asidSel := rfl
@[simp] theorem State.rawStore_ctxs : (s.rawStore c p bs).ctxs = s.ctxs := rfl
@[simp] theorem State.rawStore_resmap : (s.rawStore c p bs).resmap = s.resmap := rfl
@[simp] theorem State.rawStore_residents : (s.rawStore c p bs).residents = s.residents := rfl
@[simp] theorem State.rawStore_quotas : (s.rawStore c p bs).quotas = s.quotas := rfl
@[simp] theorem State.rawStore_bdtab : (s.rawStore c p bs).bdtab = s.bdtab := rfl
@[simp] theorem State.rawStore_domains : (s.rawStore c p bs).domains = s.domains := rfl
@[simp] theorem State.rawStore_counters : (s.rawStore c p bs).counters = s.counters := rfl
@[simp] theorem State.rawStore_tlb : (s.rawStore c p bs).tlb = s.tlb := rfl
@[simp] theorem State.rawStore_chunks : (s.rawStore c p bs).chunks = s.chunks := rfl
@[simp] theorem State.rawStore_icache : (s.rawStore c p bs).icache = s.icache := rfl
@[simp] theorem State.rawStore_launches : (s.rawStore c p bs).launches = s.launches := rfl
@[simp] theorem State.rawStore_nextLaunch : (s.rawStore c p bs).nextLaunch = s.nextLaunch := rfl
@[simp] theorem State.rawStore_huddles : (s.rawStore c p bs).huddles = s.huddles := rfl
@[simp] theorem State.rawStore_gangWaits : (s.rawStore c p bs).gangWaits = s.gangWaits := rfl
@[simp] theorem State.rawStore_gangs : (s.rawStore c p bs).gangs = s.gangs := rfl
@[simp] theorem State.rawStore_nextGang : (s.rawStore c p bs).nextGang = s.nextGang := rfl
@[simp] theorem State.rawStore_seqs : (s.rawStore c p bs).seqs = s.seqs := rfl
@[simp] theorem State.rawStore_vecTurns : (s.rawStore c p bs).vecTurns = s.vecTurns := rfl
@[simp] theorem State.rawStore_jobs : (s.rawStore c p bs).jobs = s.jobs := rfl
@[simp] theorem State.rawStore_serials : (s.rawStore c p bs).serials = s.serials := rfl
@[simp] theorem State.rawStore_nextOrder : (s.rawStore c p bs).nextOrder = s.nextOrder := rfl
@[simp] theorem State.rawStore_acc : (s.rawStore c p bs).acc = s.acc := rfl
@[simp] theorem State.rawStore_residue : (s.rawStore c p bs).residue = s.residue := rfl
@[simp] theorem State.rawStore_rt : (s.rawStore c p bs).rt = s.rt := rfl
@[simp] theorem State.rawStore_inject : (s.rawStore c p bs).inject = s.inject := rfl
@[simp] theorem State.rawStore_arrivals : (s.rawStore c p bs).arrivals = s.arrivals := rfl
@[simp] theorem State.rawStore_requests : (s.rawStore c p bs).requests = s.requests := rfl
@[simp] theorem State.rawStore_nextReq : (s.rawStore c p bs).nextReq = s.nextReq := rfl
@[simp] theorem State.rawStore_forwards : (s.rawStore c p bs).forwards = s.forwards := rfl
@[simp] theorem State.rawStore_links : (s.rawStore c p bs).links = s.links := rfl
@[simp] theorem State.rawStore_inbound : (s.rawStore c p bs).inbound = s.inbound := rfl
@[simp] theorem State.rawStore_rings : (s.rawStore c p bs).rings = s.rings := rfl
@[simp] theorem State.rawStore_absent : (s.rawStore c p bs).absent = s.absent := rfl
@[simp] theorem State.rawStore_unreachable : (s.rawStore c p bs).unreachable = s.unreachable := rfl
@[simp] theorem State.rawStore_deadLinks : (s.rawStore c p bs).deadLinks = s.deadLinks := rfl
@[simp] theorem State.rawStore_routes : (s.rawStore c p bs).routes = s.routes := rfl
@[simp] theorem State.rawStore_referee : (s.rawStore c p bs).referee = s.referee := rfl
@[simp] theorem State.rawStore_engineNums : (s.rawStore c p bs).engineNums = s.engineNums := rfl
@[simp] theorem State.rawStore_contributions : (s.rawStore c p bs).contributions = s.contributions := rfl
@[simp] theorem State.rawStore_collcan : (s.rawStore c p bs).collcan = s.collcan := rfl
@[simp] theorem State.rawStore_collcanst : (s.rawStore c p bs).collcanst = s.collcanst := rfl
@[simp] theorem State.rawStore_lanes : (s.rawStore c p bs).lanes = s.lanes := rfl
@[simp] theorem State.rawStore_openPhases : (s.rawStore c p bs).openPhases = s.openPhases := rfl
@[simp] theorem State.rawStore_sends : (s.rawStore c p bs).sends = s.sends := rfl
@[simp] theorem State.rawStore_queues : (s.rawStore c p bs).queues = s.queues := rfl
@[simp] theorem State.rawStore_taken : (s.rawStore c p bs).taken = s.taken := rfl
@[simp] theorem State.rawStore_tierw : (s.rawStore c p bs).tierw = s.tierw := rfl
@[simp] theorem State.rawStore_charges : (s.rawStore c p bs).charges = s.charges := rfl
@[simp] theorem State.rawStore_quireCharges : (s.rawStore c p bs).quireCharges = s.quireCharges := rfl
@[simp] theorem State.rawStore_roundAt : (s.rawStore c p bs).roundAt = s.roundAt := rfl
@[simp] theorem State.rawStore_msix : (s.rawStore c p bs).msix = s.msix := rfl
@[simp] theorem State.rawStore_boot : (s.rawStore c p bs).boot = s.boot := rfl
@[simp] theorem State.rawStore_pwr : (s.rawStore c p bs).pwr = s.pwr := rfl
@[simp] theorem State.rawStore_changing : (s.rawStore c p bs).changing = s.changing := rfl
@[simp] theorem State.rawStore_ras : (s.rawStore c p bs).ras = s.ras := rfl
@[simp] theorem State.rawStore_hostBus : (s.rawStore c p bs).hostBus = s.hostBus := rfl
end

section
variable (s : State) (q k : Nat) (v : Word)
@[simp] theorem State.setCounter_agenda : (s.setCounter q k v).agenda = s.agenda := rfl
@[simp] theorem State.setCounter_free : (s.setCounter q k v).free = s.free := rfl
@[simp] theorem State.setCounter_th : (s.setCounter q k v).th = s.th := rfl
@[simp] theorem State.setCounter_others : (s.setCounter q k v).others = s.others := rfl
@[simp] theorem State.setCounter_conts : (s.setCounter q k v).conts = s.conts := rfl
@[simp] theorem State.setCounter_mem : (s.setCounter q k v).mem = s.mem := rfl
@[simp] theorem State.setCounter_lines : (s.setCounter q k v).lines = s.lines := rfl
@[simp] theorem State.setCounter_stamp : (s.setCounter q k v).stamp = s.stamp := rfl
@[simp] theorem State.setCounter_ranAt : (s.setCounter q k v).ranAt = s.ranAt := rfl
@[simp] theorem State.setCounter_racing : (s.setCounter q k v).racing = s.racing := rfl
@[simp] theorem State.setCounter_images : (s.setCounter q k v).images = s.images := rfl
@[simp] theorem State.setCounter_pkgid : (s.setCounter q k v).pkgid = s.pkgid := rfl
@[simp] theorem State.setCounter_cycle : (s.setCounter q k v).cycle = s.cycle := rfl
@[simp] theorem State.setCounter_time : (s.setCounter q k v).time = s.time := rfl
@[simp] theorem State.setCounter_timeFrac : (s.setCounter q k v).timeFrac = s.timeFrac := rfl
@[simp] theorem State.setCounter_syncAt : (s.setCounter q k v).syncAt = s.syncAt := rfl
@[simp] theorem State.setCounter_asidSel : (s.setCounter q k v).asidSel = s.asidSel := rfl
@[simp] theorem State.setCounter_ctxs : (s.setCounter q k v).ctxs = s.ctxs := rfl
@[simp] theorem State.setCounter_resmap : (s.setCounter q k v).resmap = s.resmap := rfl
@[simp] theorem State.setCounter_residents : (s.setCounter q k v).residents = s.residents := rfl
@[simp] theorem State.setCounter_quotas : (s.setCounter q k v).quotas = s.quotas := rfl
@[simp] theorem State.setCounter_bdtab : (s.setCounter q k v).bdtab = s.bdtab := rfl
@[simp] theorem State.setCounter_domains : (s.setCounter q k v).domains = s.domains := rfl
@[simp] theorem State.setCounter_tlb : (s.setCounter q k v).tlb = s.tlb := rfl
@[simp] theorem State.setCounter_chunks : (s.setCounter q k v).chunks = s.chunks := rfl
@[simp] theorem State.setCounter_icache : (s.setCounter q k v).icache = s.icache := rfl
@[simp] theorem State.setCounter_ecc : (s.setCounter q k v).ecc = s.ecc := rfl
@[simp] theorem State.setCounter_launches : (s.setCounter q k v).launches = s.launches := rfl
@[simp] theorem State.setCounter_nextLaunch : (s.setCounter q k v).nextLaunch = s.nextLaunch := rfl
@[simp] theorem State.setCounter_huddles : (s.setCounter q k v).huddles = s.huddles := rfl
@[simp] theorem State.setCounter_gangWaits : (s.setCounter q k v).gangWaits = s.gangWaits := rfl
@[simp] theorem State.setCounter_gangs : (s.setCounter q k v).gangs = s.gangs := rfl
@[simp] theorem State.setCounter_nextGang : (s.setCounter q k v).nextGang = s.nextGang := rfl
@[simp] theorem State.setCounter_seqs : (s.setCounter q k v).seqs = s.seqs := rfl
@[simp] theorem State.setCounter_vecTurns : (s.setCounter q k v).vecTurns = s.vecTurns := rfl
@[simp] theorem State.setCounter_jobs : (s.setCounter q k v).jobs = s.jobs := rfl
@[simp] theorem State.setCounter_serials : (s.setCounter q k v).serials = s.serials := rfl
@[simp] theorem State.setCounter_nextOrder : (s.setCounter q k v).nextOrder = s.nextOrder := rfl
@[simp] theorem State.setCounter_acc : (s.setCounter q k v).acc = s.acc := rfl
@[simp] theorem State.setCounter_residue : (s.setCounter q k v).residue = s.residue := rfl
@[simp] theorem State.setCounter_rt : (s.setCounter q k v).rt = s.rt := rfl
@[simp] theorem State.setCounter_inject : (s.setCounter q k v).inject = s.inject := rfl
@[simp] theorem State.setCounter_arrivals : (s.setCounter q k v).arrivals = s.arrivals := rfl
@[simp] theorem State.setCounter_requests : (s.setCounter q k v).requests = s.requests := rfl
@[simp] theorem State.setCounter_nextReq : (s.setCounter q k v).nextReq = s.nextReq := rfl
@[simp] theorem State.setCounter_forwards : (s.setCounter q k v).forwards = s.forwards := rfl
@[simp] theorem State.setCounter_links : (s.setCounter q k v).links = s.links := rfl
@[simp] theorem State.setCounter_inbound : (s.setCounter q k v).inbound = s.inbound := rfl
@[simp] theorem State.setCounter_rings : (s.setCounter q k v).rings = s.rings := rfl
@[simp] theorem State.setCounter_absent : (s.setCounter q k v).absent = s.absent := rfl
@[simp] theorem State.setCounter_unreachable : (s.setCounter q k v).unreachable = s.unreachable := rfl
@[simp] theorem State.setCounter_deadLinks : (s.setCounter q k v).deadLinks = s.deadLinks := rfl
@[simp] theorem State.setCounter_routes : (s.setCounter q k v).routes = s.routes := rfl
@[simp] theorem State.setCounter_referee : (s.setCounter q k v).referee = s.referee := rfl
@[simp] theorem State.setCounter_engineNums : (s.setCounter q k v).engineNums = s.engineNums := rfl
@[simp] theorem State.setCounter_contributions : (s.setCounter q k v).contributions = s.contributions := rfl
@[simp] theorem State.setCounter_collcan : (s.setCounter q k v).collcan = s.collcan := rfl
@[simp] theorem State.setCounter_collcanst : (s.setCounter q k v).collcanst = s.collcanst := rfl
@[simp] theorem State.setCounter_lanes : (s.setCounter q k v).lanes = s.lanes := rfl
@[simp] theorem State.setCounter_openPhases : (s.setCounter q k v).openPhases = s.openPhases := rfl
@[simp] theorem State.setCounter_sends : (s.setCounter q k v).sends = s.sends := rfl
@[simp] theorem State.setCounter_queues : (s.setCounter q k v).queues = s.queues := rfl
@[simp] theorem State.setCounter_taken : (s.setCounter q k v).taken = s.taken := rfl
@[simp] theorem State.setCounter_tierw : (s.setCounter q k v).tierw = s.tierw := rfl
@[simp] theorem State.setCounter_charges : (s.setCounter q k v).charges = s.charges := rfl
@[simp] theorem State.setCounter_quireCharges : (s.setCounter q k v).quireCharges = s.quireCharges := rfl
@[simp] theorem State.setCounter_roundAt : (s.setCounter q k v).roundAt = s.roundAt := rfl
@[simp] theorem State.setCounter_msix : (s.setCounter q k v).msix = s.msix := rfl
@[simp] theorem State.setCounter_boot : (s.setCounter q k v).boot = s.boot := rfl
@[simp] theorem State.setCounter_pwr : (s.setCounter q k v).pwr = s.pwr := rfl
@[simp] theorem State.setCounter_changing : (s.setCounter q k v).changing = s.changing := rfl
@[simp] theorem State.setCounter_ras : (s.setCounter q k v).ras = s.ras := rfl
@[simp] theorem State.setCounter_hostBus : (s.setCounter q k v).hostBus = s.hostBus := rfl
end

section
variable (t : Thread) (n : Nat)
@[simp] theorem Thread.next_launch : (t.next n).launch = t.launch := rfl
@[simp] theorem Thread.next_tid : (t.next n).tid = t.tid := rfl
@[simp] theorem Thread.next_ctx : (t.next n).ctx = t.ctx := rfl
@[simp] theorem Thread.next_quire : (t.next n).quire = t.quire := rfl
@[simp] theorem Thread.next_core : (t.next n).core = t.core := rfl
@[simp] theorem Thread.next_slot : (t.next n).slot = t.slot := rfl
@[simp] theorem Thread.next_pool : (t.next n).pool = t.pool := rfl
@[simp] theorem Thread.next_privBase : (t.next n).privBase = t.privBase := rfl
@[simp] theorem Thread.next_privLen : (t.next n).privLen = t.privLen := rfl
@[simp] theorem Thread.next_vregs : (t.next n).vregs = t.vregs := rfl
@[simp] theorem Thread.next_nshape : (t.next n).nshape = t.nshape := rfl
@[simp] theorem Thread.next_queuePrio : (t.next n).queuePrio = t.queuePrio := rfl
@[simp] theorem Thread.next_tier : (t.next n).tier = t.tier := rfl
@[simp] theorem Thread.next_pin : (t.next n).pin = t.pin := rfl
@[simp] theorem Thread.next_pc : (t.next n).pc = t.pc + BitVec.ofNat 64 n := rfl
@[simp] theorem Thread.next_code : (t.next n).code = t.code := rfl
@[simp] theorem Thread.next_prio : (t.next n).prio = t.prio := rfl
@[simp] theorem Thread.next_gran : (t.next n).gran = t.gran := rfl
@[simp] theorem Thread.next_replies : (t.next n).replies = t.replies := rfl
@[simp] theorem Thread.next_huddle : (t.next n).huddle = t.huddle := rfl
@[simp] theorem Thread.next_arrived : (t.next n).arrived = t.arrived := rfl
@[simp] theorem Thread.next_ganged : (t.next n).ganged = t.ganged := rfl
@[simp] theorem Thread.next_gsize : (t.next n).gsize = t.gsize := rfl
@[simp] theorem Thread.next_gpos : (t.next n).gpos = t.gpos := rfl
@[simp] theorem Thread.next_transit : (t.next n).transit = t.transit := rfl
@[simp] theorem Thread.next_spawned : (t.next n).spawned = t.spawned := rfl
@[simp] theorem Thread.next_wait : (t.next n).wait = t.wait := rfl
@[simp] theorem Thread.next_kobj : (t.next n).kobj = t.kobj := rfl
@[simp] theorem Thread.next_dirty : (t.next n).dirty = t.dirty := rfl
@[simp] theorem Thread.next_link : (t.next n).link = t.link := rfl
@[simp] theorem Thread.next_g : (t.next n).g = t.g := rfl
@[simp] theorem Thread.next_v : (t.next n).v = t.v := rfl
@[simp] theorem Thread.next_m : (t.next n).m = t.m := rfl
@[simp] theorem Thread.next_vl : (t.next n).vl = t.vl := rfl
@[simp] theorem Thread.next_fstat : (t.next n).fstat = t.fstat := rfl
@[simp] theorem Thread.next_cause : (t.next n).cause = t.cause := rfl
@[simp] theorem Thread.next_tval : (t.next n).tval = t.tval := rfl
@[simp] theorem Thread.next_epc : (t.next n).epc = t.epc := rfl
@[simp] theorem Thread.next_tbase : (t.next n).tbase = t.tbase := rfl
@[simp] theorem Thread.next_routbase : (t.next n).routbase = t.routbase := rfl
@[simp] theorem Thread.next_lrtbase : (t.next n).lrtbase = t.lrtbase := rfl
@[simp] theorem Thread.next_shapebase : (t.next n).shapebase = t.shapebase := rfl
@[simp] theorem Thread.next_cbbase : (t.next n).cbbase = t.cbbase := rfl
@[simp] theorem Thread.next_ttbase : (t.next n).ttbase = t.ttbase := rfl
@[simp] theorem Thread.next_deadline : (t.next n).deadline = t.deadline := rfl
@[simp] theorem Thread.next_fetchCap : (t.next n).fetchCap = t.fetchCap := rfl
@[simp] theorem Thread.next_pend : (t.next n).pend = t.pend := rfl
@[simp] theorem Thread.next_q : (t.next n).q = t.q := rfl
@[simp] theorem Thread.next_mbox : (t.next n).mbox = t.mbox := rfl
@[simp] theorem Thread.next_rfq : (t.next n).rfq = t.rfq := rfl
@[simp] theorem Thread.next_pendTraps : (t.next n).pendTraps = t.pendTraps := rfl
@[simp] theorem Thread.next_serial : (t.next n).serial = t.serial := rfl
@[simp] theorem Thread.next_stall : (t.next n).stall = none := rfl
@[simp] theorem Thread.next_arrivedHere : (t.next n).arrivedHere = t.arrivedHere := rfl
@[simp] theorem Thread.next_phase : (t.next n).phase = t.phase := rfl
@[simp] theorem Thread.next_strays : (t.next n).strays = t.strays := rfl
@[simp] theorem Thread.next_synced : (t.next n).synced = t.synced := rfl
@[simp] theorem Thread.next_replay : (t.next n).replay = t.replay := rfl
@[simp] theorem Thread.next_vecBehind : (t.next n).vecBehind = t.vecBehind := rfl
@[simp] theorem Thread.next_preempt : (t.next n).preempt = t.preempt := rfl
@[simp] theorem Thread.next_liveSet : (t.next n).liveSet = t.liveSet := rfl
@[simp] theorem Thread.next_ckptAt : (t.next n).ckptAt = t.ckptAt := rfl
@[simp] theorem Thread.next_readyAt : (t.next n).readyAt = t.readyAt := rfl
@[simp] theorem Thread.next_savedAt : (t.next n).savedAt = t.savedAt := rfl
@[simp] theorem Thread.next_parkedAt : (t.next n).parkedAt = t.parkedAt := rfl
@[simp] theorem Thread.next_abandoned : (t.next n).abandoned = none := rfl
@[simp] theorem Thread.next_requeued : (t.next n).requeued = t.requeued := rfl
@[simp] theorem Thread.next_turn : (t.next n).turn = none := rfl
@[simp] theorem Thread.next_trapMark : (t.next n).trapMark = t.trapMark := rfl
end

section
variable (t : Thread) (n : Nat) (r : Reg)
@[simp] theorem Thread.setReg_launch : (t.setReg n r).launch = t.launch := by unfold Thread.setReg; split; rfl; split <;> rfl
@[simp] theorem Thread.setReg_tid : (t.setReg n r).tid = t.tid := by unfold Thread.setReg; split; rfl; split <;> rfl
@[simp] theorem Thread.setReg_ctx : (t.setReg n r).ctx = t.ctx := by unfold Thread.setReg; split; rfl; split <;> rfl
@[simp] theorem Thread.setReg_quire : (t.setReg n r).quire = t.quire := by unfold Thread.setReg; split; rfl; split <;> rfl
@[simp] theorem Thread.setReg_core : (t.setReg n r).core = t.core := by unfold Thread.setReg; split; rfl; split <;> rfl
@[simp] theorem Thread.setReg_slot : (t.setReg n r).slot = t.slot := by unfold Thread.setReg; split; rfl; split <;> rfl
@[simp] theorem Thread.setReg_pool : (t.setReg n r).pool = t.pool := by unfold Thread.setReg; split; rfl; split <;> rfl
@[simp] theorem Thread.setReg_privBase : (t.setReg n r).privBase = t.privBase := by unfold Thread.setReg; split; rfl; split <;> rfl
@[simp] theorem Thread.setReg_privLen : (t.setReg n r).privLen = t.privLen := by unfold Thread.setReg; split; rfl; split <;> rfl
@[simp] theorem Thread.setReg_vregs : (t.setReg n r).vregs = t.vregs := by unfold Thread.setReg; split; rfl; split <;> rfl
@[simp] theorem Thread.setReg_nshape : (t.setReg n r).nshape = t.nshape := by unfold Thread.setReg; split; rfl; split <;> rfl
@[simp] theorem Thread.setReg_queuePrio : (t.setReg n r).queuePrio = t.queuePrio := by unfold Thread.setReg; split; rfl; split <;> rfl
@[simp] theorem Thread.setReg_tier : (t.setReg n r).tier = t.tier := by unfold Thread.setReg; split; rfl; split <;> rfl
@[simp] theorem Thread.setReg_pin : (t.setReg n r).pin = t.pin := by unfold Thread.setReg; split; rfl; split <;> rfl
@[simp] theorem Thread.setReg_pc : (t.setReg n r).pc = t.pc := by unfold Thread.setReg; split; rfl; split <;> rfl
@[simp] theorem Thread.setReg_code : (t.setReg n r).code = t.code := by unfold Thread.setReg; split; rfl; split <;> rfl
@[simp] theorem Thread.setReg_prio : (t.setReg n r).prio = t.prio := by unfold Thread.setReg; split; rfl; split <;> rfl
@[simp] theorem Thread.setReg_gran : (t.setReg n r).gran = t.gran := by unfold Thread.setReg; split; rfl; split <;> rfl
@[simp] theorem Thread.setReg_replies : (t.setReg n r).replies = t.replies := by unfold Thread.setReg; split; rfl; split <;> rfl
@[simp] theorem Thread.setReg_huddle : (t.setReg n r).huddle = t.huddle := by unfold Thread.setReg; split; rfl; split <;> rfl
@[simp] theorem Thread.setReg_arrived : (t.setReg n r).arrived = t.arrived := by unfold Thread.setReg; split; rfl; split <;> rfl
@[simp] theorem Thread.setReg_ganged : (t.setReg n r).ganged = t.ganged := by unfold Thread.setReg; split; rfl; split <;> rfl
@[simp] theorem Thread.setReg_gsize : (t.setReg n r).gsize = t.gsize := by unfold Thread.setReg; split; rfl; split <;> rfl
@[simp] theorem Thread.setReg_gpos : (t.setReg n r).gpos = t.gpos := by unfold Thread.setReg; split; rfl; split <;> rfl
@[simp] theorem Thread.setReg_transit : (t.setReg n r).transit = t.transit := by unfold Thread.setReg; split; rfl; split <;> rfl
@[simp] theorem Thread.setReg_spawned : (t.setReg n r).spawned = t.spawned := by unfold Thread.setReg; split; rfl; split <;> rfl
@[simp] theorem Thread.setReg_wait : (t.setReg n r).wait = t.wait := by unfold Thread.setReg; split; rfl; split <;> rfl
@[simp] theorem Thread.setReg_kobj : (t.setReg n r).kobj = t.kobj := by unfold Thread.setReg; split; rfl; split <;> rfl
@[simp] theorem Thread.setReg_link : (t.setReg n r).link = t.link := by unfold Thread.setReg; split; rfl; split <;> rfl
@[simp] theorem Thread.setReg_v : (t.setReg n r).v = t.v := by unfold Thread.setReg; split; rfl; split <;> rfl
@[simp] theorem Thread.setReg_m : (t.setReg n r).m = t.m := by unfold Thread.setReg; split; rfl; split <;> rfl
@[simp] theorem Thread.setReg_vl : (t.setReg n r).vl = t.vl := by unfold Thread.setReg; split; rfl; split <;> rfl
@[simp] theorem Thread.setReg_fstat : (t.setReg n r).fstat = t.fstat := by unfold Thread.setReg; split; rfl; split <;> rfl
@[simp] theorem Thread.setReg_cause : (t.setReg n r).cause = t.cause := by unfold Thread.setReg; split; rfl; split <;> rfl
@[simp] theorem Thread.setReg_tval : (t.setReg n r).tval = t.tval := by unfold Thread.setReg; split; rfl; split <;> rfl
@[simp] theorem Thread.setReg_epc : (t.setReg n r).epc = t.epc := by unfold Thread.setReg; split; rfl; split <;> rfl
@[simp] theorem Thread.setReg_tbase : (t.setReg n r).tbase = t.tbase := by unfold Thread.setReg; split; rfl; split <;> rfl
@[simp] theorem Thread.setReg_routbase : (t.setReg n r).routbase = t.routbase := by unfold Thread.setReg; split; rfl; split <;> rfl
@[simp] theorem Thread.setReg_lrtbase : (t.setReg n r).lrtbase = t.lrtbase := by unfold Thread.setReg; split; rfl; split <;> rfl
@[simp] theorem Thread.setReg_shapebase : (t.setReg n r).shapebase = t.shapebase := by unfold Thread.setReg; split; rfl; split <;> rfl
@[simp] theorem Thread.setReg_cbbase : (t.setReg n r).cbbase = t.cbbase := by unfold Thread.setReg; split; rfl; split <;> rfl
@[simp] theorem Thread.setReg_ttbase : (t.setReg n r).ttbase = t.ttbase := by unfold Thread.setReg; split; rfl; split <;> rfl
@[simp] theorem Thread.setReg_deadline : (t.setReg n r).deadline = t.deadline := by unfold Thread.setReg; split; rfl; split <;> rfl
@[simp] theorem Thread.setReg_fetchCap : (t.setReg n r).fetchCap = t.fetchCap := by unfold Thread.setReg; split; rfl; split <;> rfl
@[simp] theorem Thread.setReg_pend : (t.setReg n r).pend = t.pend := by unfold Thread.setReg; split; rfl; split <;> rfl
@[simp] theorem Thread.setReg_q : (t.setReg n r).q = t.q := by unfold Thread.setReg; split; rfl; split <;> rfl
@[simp] theorem Thread.setReg_mbox : (t.setReg n r).mbox = t.mbox := by unfold Thread.setReg; split; rfl; split <;> rfl
@[simp] theorem Thread.setReg_rfq : (t.setReg n r).rfq = t.rfq := by unfold Thread.setReg; split; rfl; split <;> rfl
@[simp] theorem Thread.setReg_pendTraps : (t.setReg n r).pendTraps = t.pendTraps := by unfold Thread.setReg; split; rfl; split <;> rfl
@[simp] theorem Thread.setReg_serial : (t.setReg n r).serial = t.serial := by unfold Thread.setReg; split; rfl; split <;> rfl
@[simp] theorem Thread.setReg_stall : (t.setReg n r).stall = t.stall := by unfold Thread.setReg; split; rfl; split <;> rfl
@[simp] theorem Thread.setReg_arrivedHere : (t.setReg n r).arrivedHere = t.arrivedHere := by unfold Thread.setReg; split; rfl; split <;> rfl
@[simp] theorem Thread.setReg_phase : (t.setReg n r).phase = t.phase := by unfold Thread.setReg; split; rfl; split <;> rfl
@[simp] theorem Thread.setReg_strays : (t.setReg n r).strays = t.strays := by unfold Thread.setReg; split; rfl; split <;> rfl
@[simp] theorem Thread.setReg_synced : (t.setReg n r).synced = t.synced := by unfold Thread.setReg; split; rfl; split <;> rfl
@[simp] theorem Thread.setReg_replay : (t.setReg n r).replay = t.replay := by unfold Thread.setReg; split; rfl; split <;> rfl
@[simp] theorem Thread.setReg_vecBehind : (t.setReg n r).vecBehind = t.vecBehind := by unfold Thread.setReg; split; rfl; split <;> rfl
@[simp] theorem Thread.setReg_preempt : (t.setReg n r).preempt = t.preempt := by unfold Thread.setReg; split; rfl; split <;> rfl
@[simp] theorem Thread.setReg_liveSet : (t.setReg n r).liveSet = t.liveSet := by unfold Thread.setReg; split; rfl; split <;> rfl
@[simp] theorem Thread.setReg_ckptAt : (t.setReg n r).ckptAt = t.ckptAt := by unfold Thread.setReg; split; rfl; split <;> rfl
@[simp] theorem Thread.setReg_readyAt : (t.setReg n r).readyAt = t.readyAt := by unfold Thread.setReg; split; rfl; split <;> rfl
@[simp] theorem Thread.setReg_savedAt : (t.setReg n r).savedAt = t.savedAt := by unfold Thread.setReg; split; rfl; split <;> rfl
@[simp] theorem Thread.setReg_parkedAt : (t.setReg n r).parkedAt = t.parkedAt := by unfold Thread.setReg; split; rfl; split <;> rfl
@[simp] theorem Thread.setReg_abandoned : (t.setReg n r).abandoned = t.abandoned := by unfold Thread.setReg; split; rfl; split <;> rfl
@[simp] theorem Thread.setReg_requeued : (t.setReg n r).requeued = t.requeued := by unfold Thread.setReg; split; rfl; split <;> rfl
@[simp] theorem Thread.setReg_turn : (t.setReg n r).turn = t.turn := by unfold Thread.setReg; split; rfl; split <;> rfl
@[simp] theorem Thread.setReg_trapMark : (t.setReg n r).trapMark = t.trapMark := by unfold Thread.setReg; split; rfl; split <;> rfl
end

section
variable (t : Thread) (n : Nat) (b : Option Binding)
@[simp] theorem Thread.setStream_launch : (t.setStream n b).launch = t.launch := by unfold Thread.setStream; split <;> rfl
@[simp] theorem Thread.setStream_tid : (t.setStream n b).tid = t.tid := by unfold Thread.setStream; split <;> rfl
@[simp] theorem Thread.setStream_ctx : (t.setStream n b).ctx = t.ctx := by unfold Thread.setStream; split <;> rfl
@[simp] theorem Thread.setStream_quire : (t.setStream n b).quire = t.quire := by unfold Thread.setStream; split <;> rfl
@[simp] theorem Thread.setStream_core : (t.setStream n b).core = t.core := by unfold Thread.setStream; split <;> rfl
@[simp] theorem Thread.setStream_slot : (t.setStream n b).slot = t.slot := by unfold Thread.setStream; split <;> rfl
@[simp] theorem Thread.setStream_pool : (t.setStream n b).pool = t.pool := by unfold Thread.setStream; split <;> rfl
@[simp] theorem Thread.setStream_privBase : (t.setStream n b).privBase = t.privBase := by unfold Thread.setStream; split <;> rfl
@[simp] theorem Thread.setStream_privLen : (t.setStream n b).privLen = t.privLen := by unfold Thread.setStream; split <;> rfl
@[simp] theorem Thread.setStream_vregs : (t.setStream n b).vregs = t.vregs := by unfold Thread.setStream; split <;> rfl
@[simp] theorem Thread.setStream_nshape : (t.setStream n b).nshape = t.nshape := by unfold Thread.setStream; split <;> rfl
@[simp] theorem Thread.setStream_queuePrio : (t.setStream n b).queuePrio = t.queuePrio := by unfold Thread.setStream; split <;> rfl
@[simp] theorem Thread.setStream_tier : (t.setStream n b).tier = t.tier := by unfold Thread.setStream; split <;> rfl
@[simp] theorem Thread.setStream_pin : (t.setStream n b).pin = t.pin := by unfold Thread.setStream; split <;> rfl
@[simp] theorem Thread.setStream_pc : (t.setStream n b).pc = t.pc := by unfold Thread.setStream; split <;> rfl
@[simp] theorem Thread.setStream_code : (t.setStream n b).code = t.code := by unfold Thread.setStream; split <;> rfl
@[simp] theorem Thread.setStream_prio : (t.setStream n b).prio = t.prio := by unfold Thread.setStream; split <;> rfl
@[simp] theorem Thread.setStream_gran : (t.setStream n b).gran = t.gran := by unfold Thread.setStream; split <;> rfl
@[simp] theorem Thread.setStream_replies : (t.setStream n b).replies = t.replies := by unfold Thread.setStream; split <;> rfl
@[simp] theorem Thread.setStream_huddle : (t.setStream n b).huddle = t.huddle := by unfold Thread.setStream; split <;> rfl
@[simp] theorem Thread.setStream_arrived : (t.setStream n b).arrived = t.arrived := by unfold Thread.setStream; split <;> rfl
@[simp] theorem Thread.setStream_ganged : (t.setStream n b).ganged = t.ganged := by unfold Thread.setStream; split <;> rfl
@[simp] theorem Thread.setStream_gsize : (t.setStream n b).gsize = t.gsize := by unfold Thread.setStream; split <;> rfl
@[simp] theorem Thread.setStream_gpos : (t.setStream n b).gpos = t.gpos := by unfold Thread.setStream; split <;> rfl
@[simp] theorem Thread.setStream_transit : (t.setStream n b).transit = t.transit := by unfold Thread.setStream; split <;> rfl
@[simp] theorem Thread.setStream_spawned : (t.setStream n b).spawned = t.spawned := by unfold Thread.setStream; split <;> rfl
@[simp] theorem Thread.setStream_wait : (t.setStream n b).wait = t.wait := by unfold Thread.setStream; split <;> rfl
@[simp] theorem Thread.setStream_kobj : (t.setStream n b).kobj = t.kobj := by unfold Thread.setStream; split <;> rfl
@[simp] theorem Thread.setStream_dirty : (t.setStream n b).dirty = t.dirty := by unfold Thread.setStream; split <;> rfl
@[simp] theorem Thread.setStream_link : (t.setStream n b).link = t.link := by unfold Thread.setStream; split <;> rfl
@[simp] theorem Thread.setStream_g : (t.setStream n b).g = t.g := by unfold Thread.setStream; split <;> rfl
@[simp] theorem Thread.setStream_v : (t.setStream n b).v = t.v := by unfold Thread.setStream; split <;> rfl
@[simp] theorem Thread.setStream_m : (t.setStream n b).m = t.m := by unfold Thread.setStream; split <;> rfl
@[simp] theorem Thread.setStream_vl : (t.setStream n b).vl = t.vl := by unfold Thread.setStream; split <;> rfl
@[simp] theorem Thread.setStream_fstat : (t.setStream n b).fstat = t.fstat := by unfold Thread.setStream; split <;> rfl
@[simp] theorem Thread.setStream_cause : (t.setStream n b).cause = t.cause := by unfold Thread.setStream; split <;> rfl
@[simp] theorem Thread.setStream_tval : (t.setStream n b).tval = t.tval := by unfold Thread.setStream; split <;> rfl
@[simp] theorem Thread.setStream_epc : (t.setStream n b).epc = t.epc := by unfold Thread.setStream; split <;> rfl
@[simp] theorem Thread.setStream_tbase : (t.setStream n b).tbase = t.tbase := by unfold Thread.setStream; split <;> rfl
@[simp] theorem Thread.setStream_routbase : (t.setStream n b).routbase = t.routbase := by unfold Thread.setStream; split <;> rfl
@[simp] theorem Thread.setStream_lrtbase : (t.setStream n b).lrtbase = t.lrtbase := by unfold Thread.setStream; split <;> rfl
@[simp] theorem Thread.setStream_shapebase : (t.setStream n b).shapebase = t.shapebase := by unfold Thread.setStream; split <;> rfl
@[simp] theorem Thread.setStream_cbbase : (t.setStream n b).cbbase = t.cbbase := by unfold Thread.setStream; split <;> rfl
@[simp] theorem Thread.setStream_ttbase : (t.setStream n b).ttbase = t.ttbase := by unfold Thread.setStream; split <;> rfl
@[simp] theorem Thread.setStream_deadline : (t.setStream n b).deadline = t.deadline := by unfold Thread.setStream; split <;> rfl
@[simp] theorem Thread.setStream_fetchCap : (t.setStream n b).fetchCap = t.fetchCap := by unfold Thread.setStream; split <;> rfl
@[simp] theorem Thread.setStream_pend : (t.setStream n b).pend = t.pend := by unfold Thread.setStream; split <;> rfl
@[simp] theorem Thread.setStream_mbox : (t.setStream n b).mbox = t.mbox := by unfold Thread.setStream; split <;> rfl
@[simp] theorem Thread.setStream_rfq : (t.setStream n b).rfq = t.rfq := by unfold Thread.setStream; split <;> rfl
@[simp] theorem Thread.setStream_pendTraps : (t.setStream n b).pendTraps = t.pendTraps := by unfold Thread.setStream; split <;> rfl
@[simp] theorem Thread.setStream_serial : (t.setStream n b).serial = t.serial := by unfold Thread.setStream; split <;> rfl
@[simp] theorem Thread.setStream_stall : (t.setStream n b).stall = t.stall := by unfold Thread.setStream; split <;> rfl
@[simp] theorem Thread.setStream_arrivedHere : (t.setStream n b).arrivedHere = t.arrivedHere := by unfold Thread.setStream; split <;> rfl
@[simp] theorem Thread.setStream_phase : (t.setStream n b).phase = t.phase := by unfold Thread.setStream; split <;> rfl
@[simp] theorem Thread.setStream_strays : (t.setStream n b).strays = t.strays := by unfold Thread.setStream; split <;> rfl
@[simp] theorem Thread.setStream_synced : (t.setStream n b).synced = t.synced := by unfold Thread.setStream; split <;> rfl
@[simp] theorem Thread.setStream_replay : (t.setStream n b).replay = t.replay := by unfold Thread.setStream; split <;> rfl
@[simp] theorem Thread.setStream_vecBehind : (t.setStream n b).vecBehind = t.vecBehind := by unfold Thread.setStream; split <;> rfl
@[simp] theorem Thread.setStream_preempt : (t.setStream n b).preempt = t.preempt := by unfold Thread.setStream; split <;> rfl
@[simp] theorem Thread.setStream_liveSet : (t.setStream n b).liveSet = t.liveSet := by unfold Thread.setStream; split <;> rfl
@[simp] theorem Thread.setStream_ckptAt : (t.setStream n b).ckptAt = t.ckptAt := by unfold Thread.setStream; split <;> rfl
@[simp] theorem Thread.setStream_readyAt : (t.setStream n b).readyAt = t.readyAt := by unfold Thread.setStream; split <;> rfl
@[simp] theorem Thread.setStream_savedAt : (t.setStream n b).savedAt = t.savedAt := by unfold Thread.setStream; split <;> rfl
@[simp] theorem Thread.setStream_parkedAt : (t.setStream n b).parkedAt = t.parkedAt := by unfold Thread.setStream; split <;> rfl
@[simp] theorem Thread.setStream_abandoned : (t.setStream n b).abandoned = t.abandoned := by unfold Thread.setStream; split <;> rfl
@[simp] theorem Thread.setStream_requeued : (t.setStream n b).requeued = t.requeued := by unfold Thread.setStream; split <;> rfl
@[simp] theorem Thread.setStream_turn : (t.setStream n b).turn = t.turn := by unfold Thread.setStream; split <;> rfl
@[simp] theorem Thread.setStream_trapMark : (t.setStream n b).trapMark = t.trapMark := by unfold Thread.setStream; split <;> rfl
end

section
variable (t : Thread) (n : Nat)
@[simp] theorem Thread.leavePhase_launch : (t.leavePhase n).launch = t.launch := by unfold Thread.leavePhase; split <;> first | rfl | assumption
@[simp] theorem Thread.leavePhase_tid : (t.leavePhase n).tid = t.tid := by unfold Thread.leavePhase; split <;> first | rfl | assumption
@[simp] theorem Thread.leavePhase_ctx : (t.leavePhase n).ctx = t.ctx := by unfold Thread.leavePhase; split <;> first | rfl | assumption
@[simp] theorem Thread.leavePhase_quire : (t.leavePhase n).quire = t.quire := by unfold Thread.leavePhase; split <;> first | rfl | assumption
@[simp] theorem Thread.leavePhase_core : (t.leavePhase n).core = t.core := by unfold Thread.leavePhase; split <;> first | rfl | assumption
@[simp] theorem Thread.leavePhase_slot : (t.leavePhase n).slot = t.slot := by unfold Thread.leavePhase; split <;> first | rfl | assumption
@[simp] theorem Thread.leavePhase_pool : (t.leavePhase n).pool = t.pool := by unfold Thread.leavePhase; split <;> first | rfl | assumption
@[simp] theorem Thread.leavePhase_privBase : (t.leavePhase n).privBase = t.privBase := by unfold Thread.leavePhase; split <;> first | rfl | assumption
@[simp] theorem Thread.leavePhase_privLen : (t.leavePhase n).privLen = t.privLen := by unfold Thread.leavePhase; split <;> first | rfl | assumption
@[simp] theorem Thread.leavePhase_vregs : (t.leavePhase n).vregs = t.vregs := by unfold Thread.leavePhase; split <;> first | rfl | assumption
@[simp] theorem Thread.leavePhase_nshape : (t.leavePhase n).nshape = t.nshape := by unfold Thread.leavePhase; split <;> first | rfl | assumption
@[simp] theorem Thread.leavePhase_queuePrio : (t.leavePhase n).queuePrio = t.queuePrio := by unfold Thread.leavePhase; split <;> first | rfl | assumption
@[simp] theorem Thread.leavePhase_tier : (t.leavePhase n).tier = t.tier := by unfold Thread.leavePhase; split <;> first | rfl | assumption
@[simp] theorem Thread.leavePhase_pin : (t.leavePhase n).pin = t.pin := by unfold Thread.leavePhase; split <;> first | rfl | assumption
@[simp] theorem Thread.leavePhase_pc : (t.leavePhase n).pc = t.pc := by unfold Thread.leavePhase; split <;> first | rfl | assumption
@[simp] theorem Thread.leavePhase_code : (t.leavePhase n).code = t.code := by unfold Thread.leavePhase; split <;> first | rfl | assumption
@[simp] theorem Thread.leavePhase_prio : (t.leavePhase n).prio = t.prio := by unfold Thread.leavePhase; split <;> first | rfl | assumption
@[simp] theorem Thread.leavePhase_gran : (t.leavePhase n).gran = t.gran := by unfold Thread.leavePhase; split <;> first | rfl | assumption
@[simp] theorem Thread.leavePhase_replies : (t.leavePhase n).replies = t.replies := by unfold Thread.leavePhase; split <;> first | rfl | assumption
@[simp] theorem Thread.leavePhase_huddle : (t.leavePhase n).huddle = t.huddle := by unfold Thread.leavePhase; split <;> first | rfl | assumption
@[simp] theorem Thread.leavePhase_arrived : (t.leavePhase n).arrived = t.arrived := by unfold Thread.leavePhase; split <;> first | rfl | assumption
@[simp] theorem Thread.leavePhase_ganged : (t.leavePhase n).ganged = t.ganged := by unfold Thread.leavePhase; split <;> first | rfl | assumption
@[simp] theorem Thread.leavePhase_gsize : (t.leavePhase n).gsize = t.gsize := by unfold Thread.leavePhase; split <;> first | rfl | assumption
@[simp] theorem Thread.leavePhase_gpos : (t.leavePhase n).gpos = t.gpos := by unfold Thread.leavePhase; split <;> first | rfl | assumption
@[simp] theorem Thread.leavePhase_transit : (t.leavePhase n).transit = t.transit := by unfold Thread.leavePhase; split <;> first | rfl | assumption
@[simp] theorem Thread.leavePhase_spawned : (t.leavePhase n).spawned = t.spawned := by unfold Thread.leavePhase; split <;> first | rfl | assumption
@[simp] theorem Thread.leavePhase_wait : (t.leavePhase n).wait = t.wait := by unfold Thread.leavePhase; split <;> first | rfl | assumption
@[simp] theorem Thread.leavePhase_kobj : (t.leavePhase n).kobj = t.kobj := by unfold Thread.leavePhase; split <;> first | rfl | assumption
@[simp] theorem Thread.leavePhase_dirty : (t.leavePhase n).dirty = t.dirty := by unfold Thread.leavePhase; split <;> first | rfl | assumption
@[simp] theorem Thread.leavePhase_link : (t.leavePhase n).link = t.link := by unfold Thread.leavePhase; split <;> first | rfl | assumption
@[simp] theorem Thread.leavePhase_g : (t.leavePhase n).g = t.g := by unfold Thread.leavePhase; split <;> first | rfl | assumption
@[simp] theorem Thread.leavePhase_v : (t.leavePhase n).v = t.v := by unfold Thread.leavePhase; split <;> first | rfl | assumption
@[simp] theorem Thread.leavePhase_m : (t.leavePhase n).m = t.m := by unfold Thread.leavePhase; split <;> first | rfl | assumption
@[simp] theorem Thread.leavePhase_vl : (t.leavePhase n).vl = t.vl := by unfold Thread.leavePhase; split <;> first | rfl | assumption
@[simp] theorem Thread.leavePhase_fstat : (t.leavePhase n).fstat = t.fstat := by unfold Thread.leavePhase; split <;> first | rfl | assumption
@[simp] theorem Thread.leavePhase_cause : (t.leavePhase n).cause = t.cause := by unfold Thread.leavePhase; split <;> first | rfl | assumption
@[simp] theorem Thread.leavePhase_tval : (t.leavePhase n).tval = t.tval := by unfold Thread.leavePhase; split <;> first | rfl | assumption
@[simp] theorem Thread.leavePhase_epc : (t.leavePhase n).epc = t.epc := by unfold Thread.leavePhase; split <;> first | rfl | assumption
@[simp] theorem Thread.leavePhase_tbase : (t.leavePhase n).tbase = t.tbase := by unfold Thread.leavePhase; split <;> first | rfl | assumption
@[simp] theorem Thread.leavePhase_routbase : (t.leavePhase n).routbase = t.routbase := by unfold Thread.leavePhase; split <;> first | rfl | assumption
@[simp] theorem Thread.leavePhase_lrtbase : (t.leavePhase n).lrtbase = t.lrtbase := by unfold Thread.leavePhase; split <;> first | rfl | assumption
@[simp] theorem Thread.leavePhase_shapebase : (t.leavePhase n).shapebase = t.shapebase := by unfold Thread.leavePhase; split <;> first | rfl | assumption
@[simp] theorem Thread.leavePhase_cbbase : (t.leavePhase n).cbbase = t.cbbase := by unfold Thread.leavePhase; split <;> first | rfl | assumption
@[simp] theorem Thread.leavePhase_ttbase : (t.leavePhase n).ttbase = t.ttbase := by unfold Thread.leavePhase; split <;> first | rfl | assumption
@[simp] theorem Thread.leavePhase_deadline : (t.leavePhase n).deadline = t.deadline := by unfold Thread.leavePhase; split <;> first | rfl | assumption
@[simp] theorem Thread.leavePhase_fetchCap : (t.leavePhase n).fetchCap = t.fetchCap := by unfold Thread.leavePhase; split <;> first | rfl | assumption
@[simp] theorem Thread.leavePhase_pend : (t.leavePhase n).pend = t.pend := by unfold Thread.leavePhase; split <;> first | rfl | assumption
@[simp] theorem Thread.leavePhase_q : (t.leavePhase n).q = t.q := by unfold Thread.leavePhase; split <;> first | rfl | assumption
@[simp] theorem Thread.leavePhase_mbox : (t.leavePhase n).mbox = t.mbox := by unfold Thread.leavePhase; split <;> first | rfl | assumption
@[simp] theorem Thread.leavePhase_rfq : (t.leavePhase n).rfq = t.rfq := by unfold Thread.leavePhase; split <;> first | rfl | assumption
@[simp] theorem Thread.leavePhase_pendTraps : (t.leavePhase n).pendTraps = t.pendTraps := by unfold Thread.leavePhase; split <;> first | rfl | assumption
@[simp] theorem Thread.leavePhase_serial : (t.leavePhase n).serial = t.serial := by unfold Thread.leavePhase; split <;> first | rfl | assumption
@[simp] theorem Thread.leavePhase_stall : (t.leavePhase n).stall = t.stall := by unfold Thread.leavePhase; split <;> first | rfl | assumption
@[simp] theorem Thread.leavePhase_arrivedHere : (t.leavePhase n).arrivedHere = t.arrivedHere := by unfold Thread.leavePhase; split <;> first | rfl | assumption
@[simp] theorem Thread.leavePhase_phase : (t.leavePhase n).phase = none := by unfold Thread.leavePhase; split <;> first | rfl | assumption
@[simp] theorem Thread.leavePhase_synced : (t.leavePhase n).synced = t.synced := by unfold Thread.leavePhase; split <;> first | rfl | assumption
@[simp] theorem Thread.leavePhase_replay : (t.leavePhase n).replay = t.replay := by unfold Thread.leavePhase; split <;> first | rfl | assumption
@[simp] theorem Thread.leavePhase_vecBehind : (t.leavePhase n).vecBehind = t.vecBehind := by unfold Thread.leavePhase; split <;> first | rfl | assumption
@[simp] theorem Thread.leavePhase_liveSet : (t.leavePhase n).liveSet = t.liveSet := by unfold Thread.leavePhase; split <;> first | rfl | assumption
@[simp] theorem Thread.leavePhase_ckptAt : (t.leavePhase n).ckptAt = t.ckptAt := by unfold Thread.leavePhase; split <;> first | rfl | assumption
@[simp] theorem Thread.leavePhase_readyAt : (t.leavePhase n).readyAt = t.readyAt := by unfold Thread.leavePhase; split <;> first | rfl | assumption
@[simp] theorem Thread.leavePhase_savedAt : (t.leavePhase n).savedAt = t.savedAt := by unfold Thread.leavePhase; split <;> first | rfl | assumption
@[simp] theorem Thread.leavePhase_parkedAt : (t.leavePhase n).parkedAt = t.parkedAt := by unfold Thread.leavePhase; split <;> first | rfl | assumption
@[simp] theorem Thread.leavePhase_abandoned : (t.leavePhase n).abandoned = t.abandoned := by unfold Thread.leavePhase; split <;> first | rfl | assumption
@[simp] theorem Thread.leavePhase_requeued : (t.leavePhase n).requeued = t.requeued := by unfold Thread.leavePhase; split <;> first | rfl | assumption
@[simp] theorem Thread.leavePhase_turn : (t.leavePhase n).turn = t.turn := by unfold Thread.leavePhase; split <;> first | rfl | assumption
@[simp] theorem Thread.leavePhase_trapMark : (t.leavePhase n).trapMark = t.trapMark := by unfold Thread.leavePhase; split <;> first | rfl | assumption
end

section
variable (t : Thread) (n : Nat)
@[simp] theorem Thread.closePhase_launch : (t.closePhase n).launch = t.launch := by unfold Thread.closePhase; dsimp only; split <;> split <;> simp
@[simp] theorem Thread.closePhase_tid : (t.closePhase n).tid = t.tid := by unfold Thread.closePhase; dsimp only; split <;> split <;> simp
@[simp] theorem Thread.closePhase_ctx : (t.closePhase n).ctx = t.ctx := by unfold Thread.closePhase; dsimp only; split <;> split <;> simp
@[simp] theorem Thread.closePhase_quire : (t.closePhase n).quire = t.quire := by unfold Thread.closePhase; dsimp only; split <;> split <;> simp
@[simp] theorem Thread.closePhase_core : (t.closePhase n).core = t.core := by unfold Thread.closePhase; dsimp only; split <;> split <;> simp
@[simp] theorem Thread.closePhase_slot : (t.closePhase n).slot = t.slot := by unfold Thread.closePhase; dsimp only; split <;> split <;> simp
@[simp] theorem Thread.closePhase_pool : (t.closePhase n).pool = t.pool := by unfold Thread.closePhase; dsimp only; split <;> split <;> simp
@[simp] theorem Thread.closePhase_privBase : (t.closePhase n).privBase = t.privBase := by unfold Thread.closePhase; dsimp only; split <;> split <;> simp
@[simp] theorem Thread.closePhase_privLen : (t.closePhase n).privLen = t.privLen := by unfold Thread.closePhase; dsimp only; split <;> split <;> simp
@[simp] theorem Thread.closePhase_vregs : (t.closePhase n).vregs = t.vregs := by unfold Thread.closePhase; dsimp only; split <;> split <;> simp
@[simp] theorem Thread.closePhase_nshape : (t.closePhase n).nshape = t.nshape := by unfold Thread.closePhase; dsimp only; split <;> split <;> simp
@[simp] theorem Thread.closePhase_queuePrio : (t.closePhase n).queuePrio = t.queuePrio := by unfold Thread.closePhase; dsimp only; split <;> split <;> simp
@[simp] theorem Thread.closePhase_tier : (t.closePhase n).tier = t.tier := by unfold Thread.closePhase; dsimp only; split <;> split <;> simp
@[simp] theorem Thread.closePhase_pin : (t.closePhase n).pin = t.pin := by unfold Thread.closePhase; dsimp only; split <;> split <;> simp
@[simp] theorem Thread.closePhase_pc : (t.closePhase n).pc = t.pc := by unfold Thread.closePhase; dsimp only; split <;> split <;> simp
@[simp] theorem Thread.closePhase_code : (t.closePhase n).code = t.code := by unfold Thread.closePhase; dsimp only; split <;> split <;> simp
@[simp] theorem Thread.closePhase_prio : (t.closePhase n).prio = t.prio := by unfold Thread.closePhase; dsimp only; split <;> split <;> simp
@[simp] theorem Thread.closePhase_gran : (t.closePhase n).gran = t.gran := by unfold Thread.closePhase; dsimp only; split <;> split <;> simp
@[simp] theorem Thread.closePhase_replies : (t.closePhase n).replies = t.replies := by unfold Thread.closePhase; dsimp only; split <;> split <;> simp
@[simp] theorem Thread.closePhase_huddle : (t.closePhase n).huddle = t.huddle := by unfold Thread.closePhase; dsimp only; split <;> split <;> simp
@[simp] theorem Thread.closePhase_arrived : (t.closePhase n).arrived = t.arrived := by unfold Thread.closePhase; dsimp only; split <;> split <;> simp
@[simp] theorem Thread.closePhase_ganged : (t.closePhase n).ganged = t.ganged := by unfold Thread.closePhase; dsimp only; split <;> split <;> simp
@[simp] theorem Thread.closePhase_gsize : (t.closePhase n).gsize = t.gsize := by unfold Thread.closePhase; dsimp only; split <;> split <;> simp
@[simp] theorem Thread.closePhase_gpos : (t.closePhase n).gpos = t.gpos := by unfold Thread.closePhase; dsimp only; split <;> split <;> simp
@[simp] theorem Thread.closePhase_transit : (t.closePhase n).transit = t.transit := by unfold Thread.closePhase; dsimp only; split <;> split <;> simp
@[simp] theorem Thread.closePhase_spawned : (t.closePhase n).spawned = t.spawned := by unfold Thread.closePhase; dsimp only; split <;> split <;> simp
@[simp] theorem Thread.closePhase_wait : (t.closePhase n).wait = t.wait := by unfold Thread.closePhase; dsimp only; split <;> split <;> simp
@[simp] theorem Thread.closePhase_kobj : (t.closePhase n).kobj = t.kobj := by unfold Thread.closePhase; dsimp only; split <;> split <;> simp
@[simp] theorem Thread.closePhase_dirty : (t.closePhase n).dirty = t.dirty := by unfold Thread.closePhase; dsimp only; split <;> split <;> simp
@[simp] theorem Thread.closePhase_link : (t.closePhase n).link = t.link := by unfold Thread.closePhase; dsimp only; split <;> split <;> simp
@[simp] theorem Thread.closePhase_g : (t.closePhase n).g = t.g := by unfold Thread.closePhase; dsimp only; split <;> split <;> simp
@[simp] theorem Thread.closePhase_v : (t.closePhase n).v = t.v := by unfold Thread.closePhase; dsimp only; split <;> split <;> simp
@[simp] theorem Thread.closePhase_m : (t.closePhase n).m = t.m := by unfold Thread.closePhase; dsimp only; split <;> split <;> simp
@[simp] theorem Thread.closePhase_vl : (t.closePhase n).vl = t.vl := by unfold Thread.closePhase; dsimp only; split <;> split <;> simp
@[simp] theorem Thread.closePhase_fstat : (t.closePhase n).fstat = t.fstat := by unfold Thread.closePhase; dsimp only; split <;> split <;> simp
@[simp] theorem Thread.closePhase_cause : (t.closePhase n).cause = t.cause := by unfold Thread.closePhase; dsimp only; split <;> split <;> simp
@[simp] theorem Thread.closePhase_tval : (t.closePhase n).tval = t.tval := by unfold Thread.closePhase; dsimp only; split <;> split <;> simp
@[simp] theorem Thread.closePhase_epc : (t.closePhase n).epc = t.epc := by unfold Thread.closePhase; dsimp only; split <;> split <;> simp
@[simp] theorem Thread.closePhase_tbase : (t.closePhase n).tbase = t.tbase := by unfold Thread.closePhase; dsimp only; split <;> split <;> simp
@[simp] theorem Thread.closePhase_routbase : (t.closePhase n).routbase = t.routbase := by unfold Thread.closePhase; dsimp only; split <;> split <;> simp
@[simp] theorem Thread.closePhase_lrtbase : (t.closePhase n).lrtbase = t.lrtbase := by unfold Thread.closePhase; dsimp only; split <;> split <;> simp
@[simp] theorem Thread.closePhase_shapebase : (t.closePhase n).shapebase = t.shapebase := by unfold Thread.closePhase; dsimp only; split <;> split <;> simp
@[simp] theorem Thread.closePhase_cbbase : (t.closePhase n).cbbase = t.cbbase := by unfold Thread.closePhase; dsimp only; split <;> split <;> simp
@[simp] theorem Thread.closePhase_ttbase : (t.closePhase n).ttbase = t.ttbase := by unfold Thread.closePhase; dsimp only; split <;> split <;> simp
@[simp] theorem Thread.closePhase_deadline : (t.closePhase n).deadline = t.deadline := by unfold Thread.closePhase; dsimp only; split <;> split <;> simp
@[simp] theorem Thread.closePhase_fetchCap : (t.closePhase n).fetchCap = t.fetchCap := by unfold Thread.closePhase; dsimp only; split <;> split <;> simp
@[simp] theorem Thread.closePhase_pend : (t.closePhase n).pend = t.pend := by unfold Thread.closePhase; dsimp only; split <;> split <;> simp
@[simp] theorem Thread.closePhase_q : (t.closePhase n).q = t.q := by unfold Thread.closePhase; dsimp only; split <;> split <;> simp
@[simp] theorem Thread.closePhase_mbox : (t.closePhase n).mbox = t.mbox := by unfold Thread.closePhase; dsimp only; split <;> split <;> simp
@[simp] theorem Thread.closePhase_rfq : (t.closePhase n).rfq = t.rfq := by unfold Thread.closePhase; dsimp only; split <;> split <;> simp
@[simp] theorem Thread.closePhase_serial : (t.closePhase n).serial = t.serial := by unfold Thread.closePhase; dsimp only; split <;> split <;> simp
@[simp] theorem Thread.closePhase_stall : (t.closePhase n).stall = t.stall := by unfold Thread.closePhase; dsimp only; split <;> split <;> simp
@[simp] theorem Thread.closePhase_arrivedHere : (t.closePhase n).arrivedHere = t.arrivedHere := by unfold Thread.closePhase; dsimp only; split <;> split <;> simp
@[simp] theorem Thread.closePhase_synced : (t.closePhase n).synced = t.synced := by unfold Thread.closePhase; dsimp only; split <;> split <;> simp
@[simp] theorem Thread.closePhase_replay : (t.closePhase n).replay = t.replay := by unfold Thread.closePhase; dsimp only; split <;> split <;> simp
@[simp] theorem Thread.closePhase_vecBehind : (t.closePhase n).vecBehind = t.vecBehind := by unfold Thread.closePhase; dsimp only; split <;> split <;> simp
@[simp] theorem Thread.closePhase_liveSet : (t.closePhase n).liveSet = t.liveSet := by unfold Thread.closePhase; dsimp only; split <;> split <;> simp
@[simp] theorem Thread.closePhase_ckptAt : (t.closePhase n).ckptAt = t.ckptAt := by unfold Thread.closePhase; dsimp only; split <;> split <;> simp
@[simp] theorem Thread.closePhase_readyAt : (t.closePhase n).readyAt = t.readyAt := by unfold Thread.closePhase; dsimp only; split <;> split <;> simp
@[simp] theorem Thread.closePhase_savedAt : (t.closePhase n).savedAt = t.savedAt := by unfold Thread.closePhase; dsimp only; split <;> split <;> simp
@[simp] theorem Thread.closePhase_parkedAt : (t.closePhase n).parkedAt = t.parkedAt := by unfold Thread.closePhase; dsimp only; split <;> split <;> simp
@[simp] theorem Thread.closePhase_abandoned : (t.closePhase n).abandoned = t.abandoned := by unfold Thread.closePhase; dsimp only; split <;> split <;> simp
@[simp] theorem Thread.closePhase_requeued : (t.closePhase n).requeued = t.requeued := by unfold Thread.closePhase; dsimp only; split <;> split <;> simp
@[simp] theorem Thread.closePhase_turn : (t.closePhase n).turn = t.turn := by unfold Thread.closePhase; dsimp only; split <;> split <;> simp
@[simp] theorem Thread.closePhase_trapMark : (t.closePhase n).trapMark = t.trapMark := by unfold Thread.closePhase; dsimp only; split <;> split <;> simp
end

end Sys2Proof.Machine
end

