-- ==== Sys2Proof/Laws/Ops.lean ====
section
/-!
SUPPORT. One lemma per shared operation that says what it can do: how an instruction ends, its operands, where
a result goes, and the entry of a trap (R46, R311, R337).
-/
namespace Sys2Proof.Machine

/-! ## How an instruction ends -/

@[simp] theorem finish_ok (s t : State) : finish s (.ok t) = .next t := rfl

@[simp] theorem finish_trap (s : State) (c : Cause) (v : Word) :
    finish s (.error (.trap c v)) = .next (takeTrap c false v s.th.pc false s) := rfl

@[simp] theorem finish_stall (s : State) (w : Stall) :
    finish s (.error (.stall w)) = .next (s.up (fun t => { t with stall := some w })) := rfl

/-- An instruction that ends through `finish` answers a next state. -/
theorem finish_next (s : State) (e : Ev State) : ∃ t, finish s e = .next t := by
  rcases e with (⟨c, v⟩ | w) | t <;> exact ⟨_, rfl⟩

/-- `finish` answers `t` in one of three ways: the effect, a trap at the word, or a wait. -/
theorem finish_cases {s t : State} {e : Ev State} (h : finish s e = .next t) :
    e = .ok t ∨ (∃ c v, e = .error (.trap c v) ∧ t = takeTrap c false v s.th.pc false s) ∨
      (∃ w, e = .error (.stall w) ∧ t = s.up (fun t => { t with stall := some w })) := by
  rcases e with (⟨c, v⟩ | w) | u
  · exact .inr (.inl ⟨c, v, rfl, by simpa [eq_comm] using h⟩)
  · exact .inr (.inr ⟨w, rfl, by simpa [eq_comm] using h⟩)
  · exact .inl (by simpa using h)

@[simp] theorem bind_ok {α β : Type} (a : α) (f : α → Ev β) : ((.ok a : Ev α) >>= f) = f a := rfl

@[simp] theorem bind_error {α β : Type} (h : Halt) (f : α → Ev β) : ((.error h : Ev α) >>= f) = .error h := rfl

@[simp] theorem pure_ok {α : Type} (a : α) : (pure a : Ev α) = .ok a := rfl

/-- A sequence of two parts answers where both do. -/
theorem bind_eq_ok {α β : Type} {x : Ev α} {f : α → Ev β} {b : β} (h : (x >>= f) = .ok b) :
    ∃ a, x = .ok a ∧ f a = .ok b := by
  cases x with
  | error e => cases h
  | ok a => exact ⟨a, rfl, h⟩

/-! ## Operands -/

theorem operands_ready {i : Instr} {srcs : List RegField} {dst : Option RegField} {s : State}
    (h : operandHalt i srcs dst s = none) : operands i srcs dst s = .ok (popAll srcs s) := by
  unfold operands; rw [h]

theorem operands_halt {i : Instr} {srcs : List RegField} {dst : Option RegField} {s : State} {w : Halt}
    (h : operandHalt i srcs dst s = some w) : operands i srcs dst s = .error w := by
  unfold operands; rw [h]

/-- A general register is read where it is; nothing is popped. -/
theorem popOne_general {r : RegField} (h : isGeneral r = true) (s : State) : popOne r s = (s.th.reg r.toNat, s) := by
  unfold popOne; rw [if_pos h]

theorem popAll_general {rs : List RegField} (h : ∀ r ∈ rs, isGeneral r = true) (s : State) :
    popAll rs s = (rs.map (fun r => s.th.reg r.toNat), s) := by
  induction rs with
  | nil => rfl
  | cons r rs ih =>
    rw [popAll, popOne_general (h r (.head _)), ih (fun x hx => h x (.tail _ hx))]
    rfl

/-- A result for a general register changes that register, DIRTY and the register's error. -/
theorem writeDest_general {d : RegField} (h : isGeneral d = true) (r : Reg) (s : State) :
    writeDest d r s = (s.up (fun t => t.setReg d.toNat r)).healed d := by
  unfold writeDest; rw [if_pos h]

/-- An instruction that computes one data value: its effect, where nothing stops its operands. -/
theorem compute_ready {i : Instr} {srcs : List RegField} {d : RegField} {s : State}
    (h : operandHalt i srcs (some d) s = none) (f : List Reg → Word) :
    compute i srcs d f s = .next ((writeData d (f (popAll srcs s).1) (popAll srcs s).2).advance 4) := by
  simp [compute, operands_ready h]

theorem compute_halt {i : Instr} {srcs : List RegField} {d : RegField} {s : State} {w : Halt}
    (h : operandHalt i srcs (some d) s = some w) (f : List Reg → Word) :
    compute i srcs d f s = finish s (.error w) := by
  simp [compute, operands_halt h]

theorem unary_ready {i : Instr} {d a : RegField} {s : State} (h : operandHalt i [a] (some d) s = none) (f : Word → Word) :
    unary i d a f s = .next ((writeData d (f (nth (popAll [a] s).1 0).data) (popAll [a] s).2).advance 4) := by
  rw [unary, compute_ready h]

theorem binary_ready {i : Instr} {d a b : RegField} {s : State} (h : operandHalt i [a, b] (some d) s = none)
    (f : Word → Word → Word) :
    binary i d a b f s = .next ((writeData d (f (nth (popAll [a, b] s).1 0).data (nth (popAll [a, b] s).1 1).data)
      (popAll [a, b] s).2).advance 4) := by
  rw [binary, compute_ready h]

theorem computeFlags_ready {i : Instr} {srcs : List RegField} {d : RegField} {s : State}
    (h : operandHalt i srcs (some d) s = none) (f : List Reg → Nat × Nat) :
    computeFlags i srcs d f s = .next (((writeData d (BitVec.ofNat 64 (f (popAll srcs s).1).1) (popAll srcs s).2).orFlags
      (BitVec.ofNat 64 (f (popAll srcs s).1).2)).advance 4) := by
  simp [computeFlags, operands_ready h]

theorem fpUnary_ready {i : Instr} {d a : RegField} {s : State} (h : operandHalt i [a] (some d) s = none) (f : Nat)
    (op : Nat → Nat × Nat) :
    fpUnary i d a f op s = .next (((writeData d (BitVec.ofNat 64 (op (fpArg f (nth (popAll [a] s).1 0))).1)
      (popAll [a] s).2).orFlags (BitVec.ofNat 64 (op (fpArg f (nth (popAll [a] s).1 0))).2)).advance 4) := by
  rw [fpUnary, computeFlags_ready h]

theorem fpBinary_ready {i : Instr} {d a b : RegField} {s : State} (h : operandHalt i [a, b] (some d) s = none) (f : Nat)
    (op : Nat → Nat → Nat × Nat) :
    fpBinary i d a b f op s =
      .next (((writeData d (BitVec.ofNat 64 (op (fpArg f (nth (popAll [a, b] s).1 0)) (fpArg f (nth (popAll [a, b] s).1 1))).1)
        (popAll [a, b] s).2).orFlags
        (BitVec.ofNat 64 (op (fpArg f (nth (popAll [a, b] s).1 0)) (fpArg f (nth (popAll [a, b] s).1 1))).2)).advance 4) := by
  rw [fpBinary, computeFlags_ready h]

/-- An instruction that computes one register value: its effect, or the trap its value raises. -/
theorem computeReg_ready {i : Instr} {srcs : List RegField} {d : RegField} {s : State}
    (h : operandHalt i srcs (some d) s = none) (f : List Reg → Ev Reg) :
    computeReg i srcs d f s =
      match f (popAll srcs s).1 with
      | .ok r => .next ((writeDest d r (popAll srcs s).2).advance 4)
      | .error e => finish s (.error e) := by
  unfold computeReg
  rw [operands_ready h]
  simp only [bind_ok]
  cases f (popAll srcs s).1 <;> rfl

/-! ## Taking a trap (R311) -/

/-- With a usable TBASE the thread continues at the handler, and the trap registers hold the cause, TVAL and EPC. -/
theorem takeTrap_enter {s : State} (c : Cause) (job : Bool) (v e : Word) {fetching : Bool} (h : handlerOk s.th.tbase = true)
    (hf : fetching = false ∨ e.toNat ≠ s.th.tbase.addr) :
    takeTrap c job v e fetching s =
      s.up (fun t => { trapRegs s.cycle.toNat c job v e t with pc := BitVec.ofNat 64 s.th.tbase.addr }) := by
  have : (!handlerOk s.th.tbase || (fetching && e.toNat == s.th.tbase.addr)) = false := by
    rcases hf with rfl | hf
    · simp [h]
    · simp [h, hf]
  simp [takeTrap, this, State.up, trapRegs]

/-- With no usable TBASE the thread becomes faulted (R312). -/
theorem takeTrap_faulted {s : State} (c : Cause) (job : Bool) (v e : Word) (fetching : Bool) (h : handlerOk s.th.tbase = false) :
    takeTrap c job v e fetching s = becomeFaulted e (s.up (trapRegs s.cycle.toNat c job v e)) := by
  simp [takeTrap, h]

/-- A trap whose fetch failed at TBASE itself makes the thread faulted (R312). -/
theorem takeTrap_refetch {s : State} (c : Cause) (job : Bool) (v e : Word) (h : e.toNat = s.th.tbase.addr) :
    takeTrap c job v e true s = becomeFaulted e (s.up (trapRegs s.cycle.toNat c job v e)) := by
  simp [takeTrap, h]

end Sys2Proof.Machine
end

