-- ==== Sys2Proof/Laws/PerInstr.lean ====
section
/-!
SUPPORT. Laws about every instruction as syntax, a lemma for each constructor.
-/
namespace Sys2Proof.Laws
open Machine

/-! ## The bits of an instruction fit its length (R71, R91, R193) -/

/-- The number that `encode` gives has no bit above the instruction's length; the device's own steps have no bits. -/
def EncodeBound.Statement (i : Instr) : Prop := bitLength i ≠ 0 → encode i < 2 ^ bitLength i

/-- A tile command has 256 bits. -/
theorem encodeTile_lt (op : Nat) (c : Tile) (h : op < 256) : encodeTile op c < 2 ^ 256 := by
  have := c.d.isLt; have := c.cls.isLt; have := c.flags.isLt; have := c.x.isLt; have := c.y.isLt; have := c.z.isLt
  have := c.w.isLt; have := c.shape.isLt; have := c.ha.isLt; have := c.hb.isLt; have := c.cnt.isLt; have := c.scope.isLt
  have := c.inRing.isLt; have := c.inCount.isLt; have := c.outRing.isLt; have := c.outCount.isLt; have := c.w4.isLt
  have := c.w5.isLt; have := c.w6.isLt; have := c.p.isLt
  have b : ∀ x : Bool, b2n x ≤ 1 := by decide
  have := b c.srcFree; have := b c.visible; have := b c.jobDone
  unfold encodeTile
  omega

/-- The formats with two 6-bit fields. -/
theorem wordRI_lt {op d a low : Nat} (ho : op < 64) (hd : d < 64) (ha : a < 64) (hl : low < 16384) : wordRI op d a low < 2 ^ 32 := by
  unfold wordRI; omega

theorem wordWI_lt {op d low : Nat} (ho : op < 64) (hd : d < 64) (hl : low < 1048576) : wordWI op d low < 2 ^ 32 := by
  unfold wordWI; omega

theorem wordJ_lt {op low : Nat} (ho : op < 64) (hl : low < 67108864) : wordJ op low < 2 ^ 32 := by
  unfold wordJ; omega

theorem wordVV_lt {op d a b low : Nat} (ho : op < 64) (hd : d < 16) (ha : a < 16) (hb : b < 16) (hl : low < 16384) :
    wordVV op d a b low < 2 ^ 32 := by
  unfold wordVV; omega

theorem wordVM_lt {op d a low : Nat} (ho : op < 64) (hd : d < 16) (ha : a < 64) (hl : low < 65536) : wordVM op d a low < 2 ^ 32 := by
  unfold wordVM; omega

theorem slot_lt {op t low : Nat} (ho : op < 32) (ht : t < 8) (hl : low < 256) : slot op t low < 2 ^ 16 := by
  unfold slot; omega

theorem EncodeBound.add (d : BitVec 6) (a : BitVec 6) (b : BitVec 6) : EncodeBound.Statement (.add d a b) :=
  fun _ => wordRI_lt (by decide) (by have := d.isLt; omega) (by have := a.isLt; omega) (by have := b.isLt; omega)
theorem EncodeBound.sub (d : BitVec 6) (a : BitVec 6) (b : BitVec 6) : EncodeBound.Statement (.sub d a b) :=
  fun _ => wordRI_lt (by decide) (by have := d.isLt; omega) (by have := a.isLt; omega) (by have := b.isLt; omega)
theorem EncodeBound.mul (d : BitVec 6) (a : BitVec 6) (b : BitVec 6) : EncodeBound.Statement (.mul d a b) :=
  fun _ => wordRI_lt (by decide) (by have := d.isLt; omega) (by have := a.isLt; omega) (by have := b.isLt; omega)
theorem EncodeBound.mulh (d : BitVec 6) (a : BitVec 6) (b : BitVec 6) : EncodeBound.Statement (.mulh d a b) :=
  fun _ => wordRI_lt (by decide) (by have := d.isLt; omega) (by have := a.isLt; omega) (by have := b.isLt; omega)
theorem EncodeBound.mulhU (d : BitVec 6) (a : BitVec 6) (b : BitVec 6) : EncodeBound.Statement (.mulhU d a b) :=
  fun _ => wordRI_lt (by decide) (by have := d.isLt; omega) (by have := a.isLt; omega) (by have := b.isLt; omega)
theorem EncodeBound.div (d : BitVec 6) (a : BitVec 6) (b : BitVec 6) : EncodeBound.Statement (.div d a b) :=
  fun _ => wordRI_lt (by decide) (by have := d.isLt; omega) (by have := a.isLt; omega) (by have := b.isLt; omega)
theorem EncodeBound.divU (d : BitVec 6) (a : BitVec 6) (b : BitVec 6) : EncodeBound.Statement (.divU d a b) :=
  fun _ => wordRI_lt (by decide) (by have := d.isLt; omega) (by have := a.isLt; omega) (by have := b.isLt; omega)
theorem EncodeBound.rem (d : BitVec 6) (a : BitVec 6) (b : BitVec 6) : EncodeBound.Statement (.rem d a b) :=
  fun _ => wordRI_lt (by decide) (by have := d.isLt; omega) (by have := a.isLt; omega) (by have := b.isLt; omega)
theorem EncodeBound.remU (d : BitVec 6) (a : BitVec 6) (b : BitVec 6) : EncodeBound.Statement (.remU d a b) :=
  fun _ => wordRI_lt (by decide) (by have := d.isLt; omega) (by have := a.isLt; omega) (by have := b.isLt; omega)
theorem EncodeBound.and (d : BitVec 6) (a : BitVec 6) (b : BitVec 6) : EncodeBound.Statement (.and d a b) :=
  fun _ => wordRI_lt (by decide) (by have := d.isLt; omega) (by have := a.isLt; omega) (by have := b.isLt; omega)
theorem EncodeBound.andn (d : BitVec 6) (a : BitVec 6) (b : BitVec 6) : EncodeBound.Statement (.andn d a b) :=
  fun _ => wordRI_lt (by decide) (by have := d.isLt; omega) (by have := a.isLt; omega) (by have := b.isLt; omega)
theorem EncodeBound.or (d : BitVec 6) (a : BitVec 6) (b : BitVec 6) : EncodeBound.Statement (.or d a b) :=
  fun _ => wordRI_lt (by decide) (by have := d.isLt; omega) (by have := a.isLt; omega) (by have := b.isLt; omega)
theorem EncodeBound.xor (d : BitVec 6) (a : BitVec 6) (b : BitVec 6) : EncodeBound.Statement (.xor d a b) :=
  fun _ => wordRI_lt (by decide) (by have := d.isLt; omega) (by have := a.isLt; omega) (by have := b.isLt; omega)
theorem EncodeBound.shl (d : BitVec 6) (a : BitVec 6) (b : BitVec 6) : EncodeBound.Statement (.shl d a b) :=
  fun _ => wordRI_lt (by decide) (by have := d.isLt; omega) (by have := a.isLt; omega) (by have := b.isLt; omega)
theorem EncodeBound.shr (d : BitVec 6) (a : BitVec 6) (b : BitVec 6) : EncodeBound.Statement (.shr d a b) :=
  fun _ => wordRI_lt (by decide) (by have := d.isLt; omega) (by have := a.isLt; omega) (by have := b.isLt; omega)
theorem EncodeBound.shrA (d : BitVec 6) (a : BitVec 6) (b : BitVec 6) : EncodeBound.Statement (.shrA d a b) :=
  fun _ => wordRI_lt (by decide) (by have := d.isLt; omega) (by have := a.isLt; omega) (by have := b.isLt; omega)
theorem EncodeBound.rot (d : BitVec 6) (a : BitVec 6) (b : BitVec 6) : EncodeBound.Statement (.rot d a b) :=
  fun _ => wordRI_lt (by decide) (by have := d.isLt; omega) (by have := a.isLt; omega) (by have := b.isLt; omega)
theorem EncodeBound.min (d : BitVec 6) (a : BitVec 6) (b : BitVec 6) : EncodeBound.Statement (.min d a b) :=
  fun _ => wordRI_lt (by decide) (by have := d.isLt; omega) (by have := a.isLt; omega) (by have := b.isLt; omega)
theorem EncodeBound.minU (d : BitVec 6) (a : BitVec 6) (b : BitVec 6) : EncodeBound.Statement (.minU d a b) :=
  fun _ => wordRI_lt (by decide) (by have := d.isLt; omega) (by have := a.isLt; omega) (by have := b.isLt; omega)
theorem EncodeBound.max (d : BitVec 6) (a : BitVec 6) (b : BitVec 6) : EncodeBound.Statement (.max d a b) :=
  fun _ => wordRI_lt (by decide) (by have := d.isLt; omega) (by have := a.isLt; omega) (by have := b.isLt; omega)
theorem EncodeBound.maxU (d : BitVec 6) (a : BitVec 6) (b : BitVec 6) : EncodeBound.Statement (.maxU d a b) :=
  fun _ => wordRI_lt (by decide) (by have := d.isLt; omega) (by have := a.isLt; omega) (by have := b.isLt; omega)
theorem EncodeBound.sel (d : BitVec 6) (a : BitVec 6) (b : BitVec 6) : EncodeBound.Statement (.sel d a b) :=
  fun _ => wordRI_lt (by decide) (by have := d.isLt; omega) (by have := a.isLt; omega) (by have := b.isLt; omega)
theorem EncodeBound.clz (d : BitVec 6) (a : BitVec 6) : EncodeBound.Statement (.clz d a) :=
  fun _ => wordRI_lt (by decide) (by have := d.isLt; omega) (by have := a.isLt; omega) (by decide)
theorem EncodeBound.ctz (d : BitVec 6) (a : BitVec 6) : EncodeBound.Statement (.ctz d a) :=
  fun _ => wordRI_lt (by decide) (by have := d.isLt; omega) (by have := a.isLt; omega) (by decide)
theorem EncodeBound.popc (d : BitVec 6) (a : BitVec 6) : EncodeBound.Statement (.popc d a) :=
  fun _ => wordRI_lt (by decide) (by have := d.isLt; omega) (by have := a.isLt; omega) (by decide)
theorem EncodeBound.set (d : BitVec 6) (a : BitVec 6) (b : BitVec 6) (c : BitVec 3) : EncodeBound.Statement (.set d a b c) :=
  fun _ => wordRI_lt (by decide) (by have := d.isLt; omega) (by have := a.isLt; omega) (by have := b.isLt; have := c.isLt; omega)
theorem EncodeBound.addsh (d : BitVec 6) (a : BitVec 6) (b : BitVec 6) (s : BitVec 2) : EncodeBound.Statement (.addsh d a b s) :=
  fun _ => wordRI_lt (by decide) (by have := d.isLt; omega) (by have := a.isLt; omega) (by have := b.isLt; have := s.isLt; omega)
theorem EncodeBound.addi (d : BitVec 6) (a : BitVec 6) (i : BitVec 14) : EncodeBound.Statement (.addi d a i) :=
  fun _ => wordRI_lt (by decide) (by have := d.isLt; omega) (by have := a.isLt; omega) (by have := i.isLt; omega)
theorem EncodeBound.nop : EncodeBound.Statement .nop :=
  fun _ => wordRI_lt (by decide) (by decide) (by decide) (by decide)
theorem EncodeBound.andi (d : BitVec 6) (a : BitVec 6) (i : BitVec 14) : EncodeBound.Statement (.andi d a i) :=
  fun _ => wordRI_lt (by decide) (by have := d.isLt; omega) (by have := a.isLt; omega) (by have := i.isLt; omega)
theorem EncodeBound.ori (d : BitVec 6) (a : BitVec 6) (i : BitVec 14) : EncodeBound.Statement (.ori d a i) :=
  fun _ => wordRI_lt (by decide) (by have := d.isLt; omega) (by have := a.isLt; omega) (by have := i.isLt; omega)
theorem EncodeBound.xori (d : BitVec 6) (a : BitVec 6) (i : BitVec 14) : EncodeBound.Statement (.xori d a i) :=
  fun _ => wordRI_lt (by decide) (by have := d.isLt; omega) (by have := a.isLt; omega) (by have := i.isLt; omega)
theorem EncodeBound.shi (d : BitVec 6) (a : BitVec 6) (k : BitVec 2) (s : BitVec 6) : EncodeBound.Statement (.shi d a k s) :=
  fun _ => wordRI_lt (by decide) (by have := d.isLt; omega) (by have := a.isLt; omega) (by have := k.isLt; have := s.isLt; omega)
theorem EncodeBound.seti (d : BitVec 6) (a : BitVec 6) (c : BitVec 3) (i : BitVec 11) : EncodeBound.Statement (.seti d a c i) :=
  fun _ => wordRI_lt (by decide) (by have := d.isLt; omega) (by have := a.isLt; omega) (by have := c.isLt; have := i.isLt; omega)
theorem EncodeBound.movi (d : BitVec 6) (i : BitVec 20) : EncodeBound.Statement (.movi d i) :=
  fun _ => wordWI_lt (by decide) (by have := d.isLt; omega) (by have := i.isLt; omega)
theorem EncodeBound.movhi (d : BitVec 6) (i : BitVec 20) : EncodeBound.Statement (.movhi d i) :=
  fun _ => wordWI_lt (by decide) (by have := d.isLt; omega) (by have := i.isLt; omega)
theorem EncodeBound.muli (d : BitVec 6) (a : BitVec 6) (i : BitVec 14) : EncodeBound.Statement (.muli d a i) :=
  fun _ => wordRI_lt (by decide) (by have := d.isLt; omega) (by have := a.isLt; omega) (by have := i.isLt; omega)
theorem EncodeBound.fadd (d : BitVec 6) (a : BitVec 6) (b : BitVec 6) (t : BitVec 2) (r : BitVec 2) : EncodeBound.Statement (.fadd d a b t r) :=
  fun _ => wordRI_lt (by decide) (by have := d.isLt; omega) (by have := a.isLt; omega) (by have := b.isLt; have := t.isLt; have := r.isLt; omega)
theorem EncodeBound.fsub (d : BitVec 6) (a : BitVec 6) (b : BitVec 6) (t : BitVec 2) (r : BitVec 2) : EncodeBound.Statement (.fsub d a b t r) :=
  fun _ => wordRI_lt (by decide) (by have := d.isLt; omega) (by have := a.isLt; omega) (by have := b.isLt; have := t.isLt; have := r.isLt; omega)
theorem EncodeBound.fmul (d : BitVec 6) (a : BitVec 6) (b : BitVec 6) (t : BitVec 2) (r : BitVec 2) : EncodeBound.Statement (.fmul d a b t r) :=
  fun _ => wordRI_lt (by decide) (by have := d.isLt; omega) (by have := a.isLt; omega) (by have := b.isLt; have := t.isLt; have := r.isLt; omega)
theorem EncodeBound.fdiv (d : BitVec 6) (a : BitVec 6) (b : BitVec 6) (t : BitVec 2) (r : BitVec 2) : EncodeBound.Statement (.fdiv d a b t r) :=
  fun _ => wordRI_lt (by decide) (by have := d.isLt; omega) (by have := a.isLt; omega) (by have := b.isLt; have := t.isLt; have := r.isLt; omega)
theorem EncodeBound.fsqrt (d : BitVec 6) (a : BitVec 6) (t : BitVec 2) (r : BitVec 2) : EncodeBound.Statement (.fsqrt d a t r) :=
  fun _ => wordRI_lt (by decide) (by have := d.isLt; omega) (by have := a.isLt; omega) (by have := t.isLt; have := r.isLt; omega)
theorem EncodeBound.fmin (d : BitVec 6) (a : BitVec 6) (b : BitVec 6) (t : BitVec 2) : EncodeBound.Statement (.fmin d a b t) :=
  fun _ => wordRI_lt (by decide) (by have := d.isLt; omega) (by have := a.isLt; omega) (by have := b.isLt; have := t.isLt; omega)
theorem EncodeBound.fmax (d : BitVec 6) (a : BitVec 6) (b : BitVec 6) (t : BitVec 2) : EncodeBound.Statement (.fmax d a b t) :=
  fun _ => wordRI_lt (by decide) (by have := d.isLt; omega) (by have := a.isLt; omega) (by have := b.isLt; have := t.isLt; omega)
theorem EncodeBound.fsetEq (d : BitVec 6) (a : BitVec 6) (b : BitVec 6) (t : BitVec 2) : EncodeBound.Statement (.fsetEq d a b t) :=
  fun _ => wordRI_lt (by decide) (by have := d.isLt; omega) (by have := a.isLt; omega) (by have := b.isLt; have := t.isLt; omega)
theorem EncodeBound.fsetLt (d : BitVec 6) (a : BitVec 6) (b : BitVec 6) (t : BitVec 2) : EncodeBound.Statement (.fsetLt d a b t) :=
  fun _ => wordRI_lt (by decide) (by have := d.isLt; omega) (by have := a.isLt; omega) (by have := b.isLt; have := t.isLt; omega)
theorem EncodeBound.fsetLe (d : BitVec 6) (a : BitVec 6) (b : BitVec 6) (t : BitVec 2) : EncodeBound.Statement (.fsetLe d a b t) :=
  fun _ => wordRI_lt (by decide) (by have := d.isLt; omega) (by have := a.isLt; omega) (by have := b.isLt; have := t.isLt; omega)
theorem EncodeBound.fsetUn (d : BitVec 6) (a : BitVec 6) (b : BitVec 6) (t : BitVec 2) : EncodeBound.Statement (.fsetUn d a b t) :=
  fun _ => wordRI_lt (by decide) (by have := d.isLt; omega) (by have := a.isLt; omega) (by have := b.isLt; have := t.isLt; omega)
theorem EncodeBound.fclass (d : BitVec 6) (a : BitVec 6) (t : BitVec 2) : EncodeBound.Statement (.fclass d a t) :=
  fun _ => wordRI_lt (by decide) (by have := d.isLt; omega) (by have := a.isLt; omega) (by have := t.isLt; omega)
theorem EncodeBound.fneg (d : BitVec 6) (a : BitVec 6) (t : BitVec 2) : EncodeBound.Statement (.fneg d a t) :=
  fun _ => wordRI_lt (by decide) (by have := d.isLt; omega) (by have := a.isLt; omega) (by have := t.isLt; omega)
theorem EncodeBound.fabs (d : BitVec 6) (a : BitVec 6) (t : BitVec 2) : EncodeBound.Statement (.fabs d a t) :=
  fun _ => wordRI_lt (by decide) (by have := d.isLt; omega) (by have := a.isLt; omega) (by have := t.isLt; omega)
theorem EncodeBound.fmaFp32 (d : BitVec 6) (a : BitVec 6) (b : BitVec 6) (c : BitVec 6) (r : BitVec 2) : EncodeBound.Statement (.fmaFp32 d a b c r) :=
  fun _ => wordRI_lt (by decide) (by have := d.isLt; omega) (by have := a.isLt; omega) (by have := b.isLt; have := c.isLt; have := r.isLt; omega)
theorem EncodeBound.fmaFp16 (d : BitVec 6) (a : BitVec 6) (b : BitVec 6) (c : BitVec 6) (r : BitVec 2) : EncodeBound.Statement (.fmaFp16 d a b c r) :=
  fun _ => wordRI_lt (by decide) (by have := d.isLt; omega) (by have := a.isLt; omega) (by have := b.isLt; have := c.isLt; have := r.isLt; omega)
theorem EncodeBound.fcvt (d : BitVec 6) (a : BitVec 6) (s : BitVec 4) (e : BitVec 4) (r : BitVec 2) : EncodeBound.Statement (.fcvt d a s e r) :=
  fun _ => wordRI_lt (by decide) (by have := d.isLt; omega) (by have := a.isLt; omega) (by have := s.isLt; have := e.isLt; have := r.isLt; omega)
theorem EncodeBound.cbnd (d : BitVec 6) (a : BitVec 6) (b : BitVec 6) : EncodeBound.Statement (.cbnd d a b) :=
  fun _ => wordRI_lt (by decide) (by have := d.isLt; omega) (by have := a.isLt; omega) (by have := b.isLt; omega)
theorem EncodeBound.cbndX (d : BitVec 6) (a : BitVec 6) (b : BitVec 6) : EncodeBound.Statement (.cbndX d a b) :=
  fun _ => wordRI_lt (by decide) (by have := d.isLt; omega) (by have := a.isLt; omega) (by have := b.isLt; omega)
theorem EncodeBound.cprm (d : BitVec 6) (a : BitVec 6) (b : BitVec 6) : EncodeBound.Statement (.cprm d a b) :=
  fun _ => wordRI_lt (by decide) (by have := d.isLt; omega) (by have := a.isLt; omega) (by have := b.isLt; omega)
theorem EncodeBound.cgetBase (d : BitVec 6) (a : BitVec 6) : EncodeBound.Statement (.cgetBase d a) :=
  fun _ => wordRI_lt (by decide) (by have := d.isLt; omega) (by have := a.isLt; omega) (by decide)
theorem EncodeBound.cgetLen (d : BitVec 6) (a : BitVec 6) : EncodeBound.Statement (.cgetLen d a) :=
  fun _ => wordRI_lt (by decide) (by have := d.isLt; omega) (by have := a.isLt; omega) (by decide)
theorem EncodeBound.cgetPerm (d : BitVec 6) (a : BitVec 6) : EncodeBound.Statement (.cgetPerm d a) :=
  fun _ => wordRI_lt (by decide) (by have := d.isLt; omega) (by have := a.isLt; omega) (by decide)
theorem EncodeBound.cgetTag (d : BitVec 6) (a : BitVec 6) : EncodeBound.Statement (.cgetTag d a) :=
  fun _ => wordRI_lt (by decide) (by have := d.isLt; omega) (by have := a.isLt; omega) (by decide)
theorem EncodeBound.cclr (d : BitVec 6) (a : BitVec 6) : EncodeBound.Statement (.cclr d a) :=
  fun _ => wordRI_lt (by decide) (by have := d.isLt; omega) (by have := a.isLt; omega) (by decide)
theorem EncodeBound.cadd (d : BitVec 6) (a : BitVec 6) (b : BitVec 6) : EncodeBound.Statement (.cadd d a b) :=
  fun _ => wordRI_lt (by decide) (by have := d.isLt; omega) (by have := a.isLt; omega) (by have := b.isLt; omega)
theorem EncodeBound.ldC (d : BitVec 6) (a : BitVec 6) (b : BitVec 6) : EncodeBound.Statement (.ldC d a b) :=
  fun _ => wordRI_lt (by decide) (by have := d.isLt; omega) (by have := a.isLt; omega) (by have := b.isLt; omega)
theorem EncodeBound.stC (d : BitVec 6) (a : BitVec 6) (b : BitVec 6) : EncodeBound.Statement (.stC d a b) :=
  fun _ => wordRI_lt (by decide) (by have := d.isLt; omega) (by have := a.isLt; omega) (by have := b.isLt; omega)
theorem EncodeBound.caddi (d : BitVec 6) (a : BitVec 6) (i : BitVec 14) : EncodeBound.Statement (.caddi d a i) :=
  fun _ => wordRI_lt (by decide) (by have := d.isLt; omega) (by have := a.isLt; omega) (by have := i.isLt; omega)
theorem EncodeBound.b (a : BitVec 6) (b : BitVec 6) (c : BitVec 3) (o : BitVec 11) : EncodeBound.Statement (.b a b c o) :=
  fun _ => wordRI_lt (by decide) (by have := a.isLt; omega) (by have := b.isLt; omega) (by have := c.isLt; have := o.isLt; omega)
theorem EncodeBound.j (o : BitVec 26) : EncodeBound.Statement (.j o) :=
  fun _ => wordJ_lt (by decide) (by have := o.isLt; omega)
theorem EncodeBound.jal (d : BitVec 6) (i : BitVec 20) : EncodeBound.Statement (.jal d i) :=
  fun _ => wordWI_lt (by decide) (by have := d.isLt; omega) (by have := i.isLt; omega)
theorem EncodeBound.jr (d : BitVec 6) (a : BitVec 6) (i : BitVec 14) : EncodeBound.Statement (.jr d a i) :=
  fun _ => wordRI_lt (by decide) (by have := d.isLt; omega) (by have := a.isLt; omega) (by have := i.isLt; omega)
theorem EncodeBound.ld (d : BitVec 6) (a : BitVec 6) (s : BitVec 2) (o : BitVec 3) (c : BitVec 3) (f : BitVec 6) : EncodeBound.Statement (.ld d a s o c f) :=
  fun _ => wordRI_lt (by decide) (by have := d.isLt; omega) (by have := a.isLt; omega) (by have := s.isLt; have := o.isLt; have := c.isLt; have := f.isLt; omega)
theorem EncodeBound.st (d : BitVec 6) (a : BitVec 6) (s : BitVec 2) (o : BitVec 3) (c : BitVec 3) (f : BitVec 6) : EncodeBound.Statement (.st d a s o c f) :=
  fun _ => wordRI_lt (by decide) (by have := d.isLt; omega) (by have := a.isLt; omega) (by have := s.isLt; have := o.isLt; have := c.isLt; have := f.isLt; omega)
theorem EncodeBound.ldX (d : BitVec 6) (a : BitVec 6) (s : BitVec 2) (o : BitVec 3) (c : BitVec 3) (i : BitVec 6) : EncodeBound.Statement (.ldX d a s o c i) :=
  fun _ => wordRI_lt (by decide) (by have := d.isLt; omega) (by have := a.isLt; omega) (by have := s.isLt; have := o.isLt; have := c.isLt; have := i.isLt; omega)
theorem EncodeBound.stX (d : BitVec 6) (a : BitVec 6) (s : BitVec 2) (o : BitVec 3) (c : BitVec 3) (i : BitVec 6) : EncodeBound.Statement (.stX d a s o c i) :=
  fun _ => wordRI_lt (by decide) (by have := d.isLt; omega) (by have := a.isLt; omega) (by have := s.isLt; have := o.isLt; have := c.isLt; have := i.isLt; omega)
theorem EncodeBound.amo (d : BitVec 6) (a : BitVec 6) (b : BitVec 6) (p : BitVec 4) (o : BitVec 2) (z : BitVec 2) : EncodeBound.Statement (.amo d a b p o z) :=
  fun _ => wordRI_lt (by decide) (by have := d.isLt; omega) (by have := a.isLt; omega) (by have := b.isLt; have := p.isLt; have := o.isLt; have := z.isLt; omega)
theorem EncodeBound.cas (d : BitVec 6) (a : BitVec 6) (b : BitVec 6) (o : BitVec 2) (z : BitVec 2) : EncodeBound.Statement (.cas d a b o z) :=
  fun _ => wordRI_lt (by decide) (by have := d.isLt; omega) (by have := a.isLt; omega) (by have := b.isLt; have := o.isLt; have := z.isLt; omega)
theorem EncodeBound.fence (b : BitVec 4) (a : BitVec 4) (s : BitVec 3) : EncodeBound.Statement (.fence b a s) :=
  fun _ => wordRI_lt (by decide) (by decide) (by decide) (by have := b.isLt; have := a.isLt; have := s.isLt; omega)
theorem EncodeBound.pref (a : BitVec 6) (s : BitVec 2) (f : BitVec 6) : EncodeBound.Statement (.pref a s f) :=
  fun _ => wordRI_lt (by decide) (by decide) (by have := a.isLt; omega) (by have := s.isLt; have := f.isLt; omega)
theorem EncodeBound.sbind (d : BitVec 6) (a : BitVec 6) (k : BitVec 2) : EncodeBound.Statement (.sbind d a k) :=
  fun _ => wordRI_lt (by decide) (by have := d.isLt; omega) (by have := a.isLt; omega) (by have := k.isLt; omega)
theorem EncodeBound.sfree (d : BitVec 6) : EncodeBound.Statement (.sfree d) :=
  fun _ => wordRI_lt (by decide) (by have := d.isLt; omega) (by decide) (by decide)
theorem EncodeBound.send (a : BitVec 6) (b : BitVec 6) (c : BitVec 8) : EncodeBound.Statement (.send a b c) :=
  fun _ => wordRI_lt (by decide) (by decide) (by have := a.isLt; omega) (by have := b.isLt; have := c.isLt; omega)
theorem EncodeBound.rld (d : BitVec 6) (a : BitVec 6) (s : BitVec 2) (o : BitVec 3) (c : BitVec 3) (f : BitVec 6) : EncodeBound.Statement (.rld d a s o c f) :=
  fun _ => wordRI_lt (by decide) (by have := d.isLt; omega) (by have := a.isLt; omega) (by have := s.isLt; have := o.isLt; have := c.isLt; have := f.isLt; omega)
theorem EncodeBound.rst (d : BitVec 6) (a : BitVec 6) (s : BitVec 2) (o : BitVec 3) (c : BitVec 3) (f : BitVec 6) : EncodeBound.Statement (.rst d a s o c f) :=
  fun _ => wordRI_lt (by decide) (by have := d.isLt; omega) (by have := a.isLt; omega) (by have := s.isLt; have := o.isLt; have := c.isLt; have := f.isLt; omega)
theorem EncodeBound.ramo (d : BitVec 6) (a : BitVec 6) (b : BitVec 6) (p : BitVec 4) (o : BitVec 2) (z : BitVec 2) : EncodeBound.Statement (.ramo d a b p o z) :=
  fun _ => wordRI_lt (by decide) (by have := d.isLt; omega) (by have := a.isLt; omega) (by have := b.isLt; have := p.isLt; have := o.isLt; have := z.isLt; omega)
theorem EncodeBound.mwait : EncodeBound.Statement .mwait :=
  fun _ => wordRI_lt (by decide) (by decide) (by decide) (by decide)
theorem EncodeBound.mpop (d : BitVec 6) : EncodeBound.Statement (.mpop d) :=
  fun _ => wordRI_lt (by decide) (by have := d.isLt; omega) (by decide) (by decide)
theorem EncodeBound.cntw (a : BitVec 6) (k : BitVec 6) (h : BitVec 2) : EncodeBound.Statement (.cntw a k h) :=
  fun _ => wordRI_lt (by decide) (by decide) (by have := a.isLt; omega) (by have := k.isLt; have := h.isLt; omega)
theorem EncodeBound.cntr (d : BitVec 6) (k : BitVec 6) (h : BitVec 2) : EncodeBound.Statement (.cntr d k h) :=
  fun _ => wordRI_lt (by decide) (by have := d.isLt; omega) (by decide) (by have := k.isLt; have := h.isLt; omega)
theorem EncodeBound.cnts (a : BitVec 6) (k : BitVec 6) (h : BitVec 2) : EncodeBound.Statement (.cnts a k h) :=
  fun _ => wordRI_lt (by decide) (by decide) (by have := a.isLt; omega) (by have := k.isLt; have := h.isLt; omega)
theorem EncodeBound.cnta (a : BitVec 6) (k : BitVec 6) (h : BitVec 2) : EncodeBound.Statement (.cnta a k h) :=
  fun _ => wordRI_lt (by decide) (by decide) (by have := a.isLt; omega) (by have := k.isLt; have := h.isLt; omega)
theorem EncodeBound.cbadvP (a : BitVec 6) (n : BitVec 4) : EncodeBound.Statement (.cbadvP a n) :=
  fun _ => wordRI_lt (by decide) (by decide) (by have := a.isLt; omega) (by have := n.isLt; omega)
theorem EncodeBound.cbadvC (a : BitVec 6) (n : BitVec 4) : EncodeBound.Statement (.cbadvC a n) :=
  fun _ => wordRI_lt (by decide) (by decide) (by have := a.isLt; omega) (by have := n.isLt; omega)
theorem EncodeBound.spawn (d : BitVec 6) (a : BitVec 6) (b : BitVec 6) : EncodeBound.Statement (.spawn d a b) :=
  fun _ => wordRI_lt (by decide) (by have := d.isLt; omega) (by have := a.isLt; omega) (by have := b.isLt; omega)
theorem EncodeBound.spawnP (d : BitVec 6) (a : BitVec 6) (b : BitVec 6) (p : BitVec 7) : EncodeBound.Statement (.spawnP d a b p) :=
  fun _ => wordRI_lt (by decide) (by have := d.isLt; omega) (by have := a.isLt; omega) (by have := b.isLt; have := p.isLt; omega)
theorem EncodeBound.suspMbox : EncodeBound.Statement .suspMbox :=
  fun _ => wordRI_lt (by decide) (by decide) (by decide) (by decide)
theorem EncodeBound.suspCnt (a : BitVec 6) (k : BitVec 8) : EncodeBound.Statement (.suspCnt a k) :=
  fun _ => wordRI_lt (by decide) (by decide) (by have := a.isLt; omega) (by have := k.isLt; omega)
theorem EncodeBound.suspJob (a : BitVec 6) : EncodeBound.Statement (.suspJob a) :=
  fun _ => wordRI_lt (by decide) (by decide) (by have := a.isLt; omega) (by decide)
theorem EncodeBound.suspStrm (n : BitVec 3) : EncodeBound.Statement (.suspStrm n) :=
  fun _ => wordRI_lt (by decide) (by decide) (by decide) (by have := n.isLt; omega)
theorem EncodeBound.suspTime (a : BitVec 6) : EncodeBound.Statement (.suspTime a) :=
  fun _ => wordRI_lt (by decide) (by decide) (by have := a.isLt; omega) (by decide)
theorem EncodeBound.suspReply : EncodeBound.Statement .suspReply :=
  fun _ => wordRI_lt (by decide) (by decide) (by decide) (by decide)
theorem EncodeBound.yield : EncodeBound.Statement .yield :=
  fun _ => wordRI_lt (by decide) (by decide) (by decide) (by decide)
theorem EncodeBound.exit : EncodeBound.Statement .exit :=
  fun _ => wordRI_lt (by decide) (by decide) (by decide) (by decide)
theorem EncodeBound.join (a : BitVec 6) : EncodeBound.Statement (.join a) :=
  fun _ => wordRI_lt (by decide) (by decide) (by have := a.isLt; omega) (by decide)
theorem EncodeBound.leave (a : BitVec 6) : EncodeBound.Statement (.leave a) :=
  fun _ => wordRI_lt (by decide) (by decide) (by have := a.isLt; omega) (by decide)
theorem EncodeBound.hbar (a : BitVec 6) : EncodeBound.Statement (.hbar a) :=
  fun _ => wordRI_lt (by decide) (by decide) (by have := a.isLt; omega) (by decide)
theorem EncodeBound.hbarArrive (a : BitVec 6) : EncodeBound.Statement (.hbarArrive a) :=
  fun _ => wordRI_lt (by decide) (by decide) (by have := a.isLt; omega) (by decide)
theorem EncodeBound.hbarWait (a : BitVec 6) : EncodeBound.Statement (.hbarWait a) :=
  fun _ => wordRI_lt (by decide) (by decide) (by have := a.isLt; omega) (by decide)
theorem EncodeBound.gang (n : BitVec 3) : EncodeBound.Statement (.gang n) :=
  fun _ => wordRI_lt (by decide) (by decide) (by decide) (by have := n.isLt; omega)
theorem EncodeBound.gangF : EncodeBound.Statement .gangF :=
  fun _ => wordRI_lt (by decide) (by decide) (by decide) (by decide)
theorem EncodeBound.ungang : EncodeBound.Statement .ungang :=
  fun _ => wordRI_lt (by decide) (by decide) (by decide) (by decide)
theorem EncodeBound.jwait (a : BitVec 6) : EncodeBound.Statement (.jwait a) :=
  fun _ => wordRI_lt (by decide) (by decide) (by have := a.isLt; omega) (by decide)
theorem EncodeBound.jpoll (d : BitVec 6) (a : BitVec 6) : EncodeBound.Statement (.jpoll d a) :=
  fun _ => wordRI_lt (by decide) (by have := d.isLt; omega) (by have := a.isLt; omega) (by decide)
theorem EncodeBound.whistle (a : BitVec 6) : EncodeBound.Statement (.whistle a) :=
  fun _ => wordRI_lt (by decide) (by decide) (by have := a.isLt; omega) (by decide)
theorem EncodeBound.ssend (a : BitVec 6) : EncodeBound.Statement (.ssend a) :=
  fun _ => wordRI_lt (by decide) (by decide) (by have := a.isLt; omega) (by decide)
theorem EncodeBound.srecv (a : BitVec 6) : EncodeBound.Statement (.srecv a) :=
  fun _ => wordRI_lt (by decide) (by decide) (by have := a.isLt; omega) (by decide)
theorem EncodeBound.vadd (d : BitVec 4) (a : BitVec 4) (b : BitVec 4) (e : BitVec 2) (m : BitVec 1) (s : BitVec 1) (t : BitVec 1) (h : BitVec 2) (c : BitVec 2) : EncodeBound.Statement (.vadd d a b e m s t h c) :=
  fun _ => wordVV_lt (by decide) (by have := d.isLt; omega) (by have := a.isLt; omega) (by have := b.isLt; omega) (by have := e.isLt; have := m.isLt; have := s.isLt; have := t.isLt; have := h.isLt; have := c.isLt; omega)
theorem EncodeBound.vsub (d : BitVec 4) (a : BitVec 4) (b : BitVec 4) (e : BitVec 2) (m : BitVec 1) (s : BitVec 1) (t : BitVec 1) (h : BitVec 2) (c : BitVec 2) : EncodeBound.Statement (.vsub d a b e m s t h c) :=
  fun _ => wordVV_lt (by decide) (by have := d.isLt; omega) (by have := a.isLt; omega) (by have := b.isLt; omega) (by have := e.isLt; have := m.isLt; have := s.isLt; have := t.isLt; have := h.isLt; have := c.isLt; omega)
theorem EncodeBound.vmul (d : BitVec 4) (a : BitVec 4) (b : BitVec 4) (e : BitVec 2) (m : BitVec 1) (s : BitVec 1) (t : BitVec 1) (h : BitVec 2) (c : BitVec 2) : EncodeBound.Statement (.vmul d a b e m s t h c) :=
  fun _ => wordVV_lt (by decide) (by have := d.isLt; omega) (by have := a.isLt; omega) (by have := b.isLt; omega) (by have := e.isLt; have := m.isLt; have := s.isLt; have := t.isLt; have := h.isLt; have := c.isLt; omega)
theorem EncodeBound.vfma (d : BitVec 4) (a : BitVec 4) (b : BitVec 4) (e : BitVec 2) (m : BitVec 1) (s : BitVec 1) (t : BitVec 1) (h : BitVec 2) (c : BitVec 2) : EncodeBound.Statement (.vfma d a b e m s t h c) :=
  fun _ => wordVV_lt (by decide) (by have := d.isLt; omega) (by have := a.isLt; omega) (by have := b.isLt; omega) (by have := e.isLt; have := m.isLt; have := s.isLt; have := t.isLt; have := h.isLt; have := c.isLt; omega)
theorem EncodeBound.vmin (d : BitVec 4) (a : BitVec 4) (b : BitVec 4) (e : BitVec 2) (m : BitVec 1) (s : BitVec 1) (t : BitVec 1) (h : BitVec 2) (c : BitVec 2) : EncodeBound.Statement (.vmin d a b e m s t h c) :=
  fun _ => wordVV_lt (by decide) (by have := d.isLt; omega) (by have := a.isLt; omega) (by have := b.isLt; omega) (by have := e.isLt; have := m.isLt; have := s.isLt; have := t.isLt; have := h.isLt; have := c.isLt; omega)
theorem EncodeBound.vmax (d : BitVec 4) (a : BitVec 4) (b : BitVec 4) (e : BitVec 2) (m : BitVec 1) (s : BitVec 1) (t : BitVec 1) (h : BitVec 2) (c : BitVec 2) : EncodeBound.Statement (.vmax d a b e m s t h c) :=
  fun _ => wordVV_lt (by decide) (by have := d.isLt; omega) (by have := a.isLt; omega) (by have := b.isLt; omega) (by have := e.isLt; have := m.isLt; have := s.isLt; have := t.isLt; have := h.isLt; have := c.isLt; omega)
theorem EncodeBound.vand (d : BitVec 4) (a : BitVec 4) (b : BitVec 4) (e : BitVec 2) (m : BitVec 1) (s : BitVec 1) (t : BitVec 1) (h : BitVec 2) (c : BitVec 2) : EncodeBound.Statement (.vand d a b e m s t h c) :=
  fun _ => wordVV_lt (by decide) (by have := d.isLt; omega) (by have := a.isLt; omega) (by have := b.isLt; omega) (by have := e.isLt; have := m.isLt; have := s.isLt; have := t.isLt; have := h.isLt; have := c.isLt; omega)
theorem EncodeBound.vor (d : BitVec 4) (a : BitVec 4) (b : BitVec 4) (e : BitVec 2) (m : BitVec 1) (s : BitVec 1) (t : BitVec 1) (h : BitVec 2) (c : BitVec 2) : EncodeBound.Statement (.vor d a b e m s t h c) :=
  fun _ => wordVV_lt (by decide) (by have := d.isLt; omega) (by have := a.isLt; omega) (by have := b.isLt; omega) (by have := e.isLt; have := m.isLt; have := s.isLt; have := t.isLt; have := h.isLt; have := c.isLt; omega)
theorem EncodeBound.vxor (d : BitVec 4) (a : BitVec 4) (b : BitVec 4) (e : BitVec 2) (m : BitVec 1) (s : BitVec 1) (t : BitVec 1) (h : BitVec 2) (c : BitVec 2) : EncodeBound.Statement (.vxor d a b e m s t h c) :=
  fun _ => wordVV_lt (by decide) (by have := d.isLt; omega) (by have := a.isLt; omega) (by have := b.isLt; omega) (by have := e.isLt; have := m.isLt; have := s.isLt; have := t.isLt; have := h.isLt; have := c.isLt; omega)
theorem EncodeBound.vshl (d : BitVec 4) (a : BitVec 4) (b : BitVec 4) (e : BitVec 2) (m : BitVec 1) (s : BitVec 1) (t : BitVec 1) (h : BitVec 2) (c : BitVec 2) : EncodeBound.Statement (.vshl d a b e m s t h c) :=
  fun _ => wordVV_lt (by decide) (by have := d.isLt; omega) (by have := a.isLt; omega) (by have := b.isLt; omega) (by have := e.isLt; have := m.isLt; have := s.isLt; have := t.isLt; have := h.isLt; have := c.isLt; omega)
theorem EncodeBound.vshr (d : BitVec 4) (a : BitVec 4) (b : BitVec 4) (e : BitVec 2) (m : BitVec 1) (s : BitVec 1) (t : BitVec 1) (h : BitVec 2) (c : BitVec 2) : EncodeBound.Statement (.vshr d a b e m s t h c) :=
  fun _ => wordVV_lt (by decide) (by have := d.isLt; omega) (by have := a.isLt; omega) (by have := b.isLt; omega) (by have := e.isLt; have := m.isLt; have := s.isLt; have := t.isLt; have := h.isLt; have := c.isLt; omega)
theorem EncodeBound.vsel (d : BitVec 4) (a : BitVec 4) (b : BitVec 4) (e : BitVec 2) (m : BitVec 1) (s : BitVec 1) (t : BitVec 1) (h : BitVec 2) (c : BitVec 2) : EncodeBound.Statement (.vsel d a b e m s t h c) :=
  fun _ => wordVV_lt (by decide) (by have := d.isLt; omega) (by have := a.isLt; omega) (by have := b.isLt; omega) (by have := e.isLt; have := m.isLt; have := s.isLt; have := t.isLt; have := h.isLt; have := c.isLt; omega)
theorem EncodeBound.vset (c : BitVec 4) (a : BitVec 4) (b : BitVec 4) (e : BitVec 2) (m : BitVec 1) (s : BitVec 1) (t : BitVec 1) (h : BitVec 2) (k : BitVec 2) : EncodeBound.Statement (.vset c a b e m s t h k) :=
  fun _ => wordVV_lt (by decide) (by have := c.isLt; omega) (by have := a.isLt; omega) (by have := b.isLt; omega) (by have := e.isLt; have := m.isLt; have := s.isLt; have := t.isLt; have := h.isLt; have := k.isLt; omega)
theorem EncodeBound.vexp (d : BitVec 4) (a : BitVec 4) (e : BitVec 2) (m : BitVec 1) (t : BitVec 1) (c : BitVec 2) : EncodeBound.Statement (.vexp d a e m t c) :=
  fun _ => wordVV_lt (by decide) (by have := d.isLt; omega) (by have := a.isLt; omega) (by decide) (by have := e.isLt; have := m.isLt; have := t.isLt; have := c.isLt; omega)
theorem EncodeBound.vrcp (d : BitVec 4) (a : BitVec 4) (e : BitVec 2) (m : BitVec 1) (t : BitVec 1) (c : BitVec 2) : EncodeBound.Statement (.vrcp d a e m t c) :=
  fun _ => wordVV_lt (by decide) (by have := d.isLt; omega) (by have := a.isLt; omega) (by decide) (by have := e.isLt; have := m.isLt; have := t.isLt; have := c.isLt; omega)
theorem EncodeBound.vrsq (d : BitVec 4) (a : BitVec 4) (e : BitVec 2) (m : BitVec 1) (t : BitVec 1) (c : BitVec 2) : EncodeBound.Statement (.vrsq d a e m t c) :=
  fun _ => wordVV_lt (by decide) (by have := d.isLt; omega) (by have := a.isLt; omega) (by decide) (by have := e.isLt; have := m.isLt; have := t.isLt; have := c.isLt; omega)
theorem EncodeBound.vredAdd (d : BitVec 4) (a : BitVec 4) (e : BitVec 2) (m : BitVec 1) (t : BitVec 1) (c : BitVec 2) : EncodeBound.Statement (.vredAdd d a e m t c) :=
  fun _ => wordVV_lt (by decide) (by have := d.isLt; omega) (by have := a.isLt; omega) (by decide) (by have := e.isLt; have := m.isLt; have := t.isLt; have := c.isLt; omega)
theorem EncodeBound.vredMin (d : BitVec 4) (a : BitVec 4) (e : BitVec 2) (m : BitVec 1) (t : BitVec 1) (c : BitVec 2) : EncodeBound.Statement (.vredMin d a e m t c) :=
  fun _ => wordVV_lt (by decide) (by have := d.isLt; omega) (by have := a.isLt; omega) (by decide) (by have := e.isLt; have := m.isLt; have := t.isLt; have := c.isLt; omega)
theorem EncodeBound.vredMax (d : BitVec 4) (a : BitVec 4) (e : BitVec 2) (m : BitVec 1) (t : BitVec 1) (c : BitVec 2) : EncodeBound.Statement (.vredMax d a e m t c) :=
  fun _ => wordVV_lt (by decide) (by have := d.isLt; omega) (by have := a.isLt; omega) (by decide) (by have := e.isLt; have := m.isLt; have := t.isLt; have := c.isLt; omega)
theorem EncodeBound.vperm (d : BitVec 4) (a : BitVec 4) (b : BitVec 4) (e : BitVec 2) (m : BitVec 1) (s : BitVec 1) (t : BitVec 1) (h : BitVec 2) : EncodeBound.Statement (.vperm d a b e m s t h) :=
  fun _ => wordVV_lt (by decide) (by have := d.isLt; omega) (by have := a.isLt; omega) (by have := b.isLt; omega) (by have := e.isLt; have := m.isLt; have := s.isLt; have := t.isLt; have := h.isLt; omega)
theorem EncodeBound.vbcast (d : BitVec 4) (a : BitVec 4) (b : BitVec 4) (e : BitVec 2) (m : BitVec 1) (s : BitVec 1) (t : BitVec 1) (h : BitVec 2) (c : BitVec 2) : EncodeBound.Statement (.vbcast d a b e m s t h c) :=
  fun _ => wordVV_lt (by decide) (by have := d.isLt; omega) (by have := a.isLt; omega) (by have := b.isLt; omega) (by have := e.isLt; have := m.isLt; have := s.isLt; have := t.isLt; have := h.isLt; have := c.isLt; omega)
theorem EncodeBound.vidx (d : BitVec 4) (e : BitVec 2) (m : BitVec 1) (t : BitVec 1) : EncodeBound.Statement (.vidx d e m t) :=
  fun _ => wordVV_lt (by decide) (by have := d.isLt; omega) (by decide) (by decide) (by have := e.isLt; have := m.isLt; have := t.isLt; omega)
theorem EncodeBound.vmovg (d : BitVec 4) (k : BitVec 4) (b : BitVec 4) (e : BitVec 2) (t : BitVec 1) (h : BitVec 2) : EncodeBound.Statement (.vmovg d k b e t h) :=
  fun _ => wordVV_lt (by decide) (by have := d.isLt; omega) (by have := k.isLt; omega) (by have := b.isLt; omega) (by have := e.isLt; have := t.isLt; have := h.isLt; omega)
theorem EncodeBound.vcvt (d : BitVec 4) (a : BitVec 4) (s : BitVec 4) (m : BitVec 1) (t : BitVec 1) (e : BitVec 4) : EncodeBound.Statement (.vcvt d a s m t e) :=
  fun _ => wordVV_lt (by decide) (by have := d.isLt; omega) (by have := a.isLt; omega) (by have := s.isLt; omega) (by have := m.isLt; have := t.isLt; have := e.isLt; omega)
theorem EncodeBound.vld (d : BitVec 4) (a : BitVec 6) (e : BitVec 2) (o : BitVec 6) (m : BitVec 1) : EncodeBound.Statement (.vld d a e o m) :=
  fun _ => wordVM_lt (by decide) (by have := d.isLt; omega) (by have := a.isLt; omega) (by have := e.isLt; have := o.isLt; have := m.isLt; omega)
theorem EncodeBound.vst (d : BitVec 4) (a : BitVec 6) (e : BitVec 2) (o : BitVec 6) (m : BitVec 1) : EncodeBound.Statement (.vst d a e o m) :=
  fun _ => wordVM_lt (by decide) (by have := d.isLt; omega) (by have := a.isLt; omega) (by have := e.isLt; have := o.isLt; have := m.isLt; omega)
theorem EncodeBound.vldShape (d : BitVec 4) (a : BitVec 6) (e : BitVec 2) (o : BitVec 6) (n : BitVec 5) (m : BitVec 1) : EncodeBound.Statement (.vldShape d a e o n m) :=
  fun _ => wordVM_lt (by decide) (by have := d.isLt; omega) (by have := a.isLt; omega) (by have := e.isLt; have := o.isLt; have := n.isLt; have := m.isLt; omega)
theorem EncodeBound.vstShape (d : BitVec 4) (a : BitVec 6) (e : BitVec 2) (o : BitVec 6) (n : BitVec 5) (m : BitVec 1) : EncodeBound.Statement (.vstShape d a e o n m) :=
  fun _ => wordVM_lt (by decide) (by have := d.isLt; omega) (by have := a.isLt; omega) (by have := e.isLt; have := o.isLt; have := n.isLt; have := m.isLt; omega)
theorem EncodeBound.vseq (l : BitVec 4) (b : BitVec 4) (h : BitVec 2) : EncodeBound.Statement (.vseq l b h) :=
  fun _ => wordVV_lt (by decide) (by have := l.isLt; omega) (by decide) (by have := b.isLt; omega) (by have := h.isLt; omega)
theorem EncodeBound.vsetl (b : BitVec 4) (h : BitVec 2) : EncodeBound.Statement (.vsetl b h) :=
  fun _ => wordWI_lt (by decide) (by decide) (by have := b.isLt; have := h.isLt; omega)
theorem EncodeBound.ckpt (i : BitVec 20) : EncodeBound.Statement (.ckpt i) :=
  fun _ => wordWI_lt (by decide) (by decide) (by have := i.isLt; omega)
theorem EncodeBound.csrr (d : BitVec 6) (n : BitVec 12) : EncodeBound.Statement (.csrr d n) :=
  fun _ => wordRI_lt (by decide) (by have := d.isLt; omega) (by decide) (by have := n.isLt; omega)
theorem EncodeBound.csrw (a : BitVec 6) (n : BitVec 12) : EncodeBound.Statement (.csrw a n) :=
  fun _ => wordRI_lt (by decide) (by decide) (by have := a.isLt; omega) (by have := n.isLt; omega)
theorem EncodeBound.csrx (d : BitVec 6) (a : BitVec 6) (n : BitVec 12) : EncodeBound.Statement (.csrx d a n) :=
  fun _ => wordRI_lt (by decide) (by have := d.isLt; omega) (by have := a.isLt; omega) (by have := n.isLt; omega)
theorem EncodeBound.trap (c : BitVec 12) : EncodeBound.Statement (.trap c) :=
  fun _ => wordRI_lt (by decide) (by decide) (by decide) (by have := c.isLt; omega)
theorem EncodeBound.eret : EncodeBound.Statement .eret :=
  fun _ => wordRI_lt (by decide) (by decide) (by decide) (by decide)
theorem EncodeBound.idle : EncodeBound.Statement .idle :=
  fun _ => wordRI_lt (by decide) (by decide) (by decide) (by decide)
theorem EncodeBound.synci (a : BitVec 6) : EncodeBound.Statement (.synci a) :=
  fun _ => wordRI_lt (by decide) (by decide) (by have := a.isLt; omega) (by decide)
theorem EncodeBound.tlbi (a : BitVec 6) : EncodeBound.Statement (.tlbi a) :=
  fun _ => wordRI_lt (by decide) (by decide) (by have := a.isLt; omega) (by decide)
theorem EncodeBound.mma (c : Tile) : EncodeBound.Statement (.mma c) :=
  fun _ => encodeTile_lt _ _ (by decide)
theorem EncodeBound.accrd (c : Tile) : EncodeBound.Statement (.accrd c) :=
  fun _ => encodeTile_lt _ _ (by decide)
theorem EncodeBound.accrel (c : Tile) : EncodeBound.Statement (.accrel c) :=
  fun _ => encodeTile_lt _ _ (by decide)
theorem EncodeBound.outer (c : Tile) : EncodeBound.Statement (.outer c) :=
  fun _ => encodeTile_lt _ _ (by decide)
theorem EncodeBound.fold (c : Tile) : EncodeBound.Statement (.fold c) :=
  fun _ => encodeTile_lt _ _ (by decide)
theorem EncodeBound.scan (c : Tile) : EncodeBound.Statement (.scan c) :=
  fun _ => encodeTile_lt _ _ (by decide)
theorem EncodeBound.zip (c : Tile) : EncodeBound.Statement (.zip c) :=
  fun _ => encodeTile_lt _ _ (by decide)
theorem EncodeBound.copy (c : Tile) : EncodeBound.Statement (.copy c) :=
  fun _ => encodeTile_lt _ _ (by decide)
theorem EncodeBound.get (c : Tile) : EncodeBound.Statement (.get c) :=
  fun _ => encodeTile_lt _ _ (by decide)
theorem EncodeBound.put (c : Tile) : EncodeBound.Statement (.put c) :=
  fun _ => encodeTile_lt _ _ (by decide)
theorem EncodeBound.putAdd (c : Tile) : EncodeBound.Statement (.putAdd c) :=
  fun _ => encodeTile_lt _ _ (by decide)
theorem EncodeBound.pack (c : Tile) : EncodeBound.Statement (.pack c) :=
  fun _ => encodeTile_lt _ _ (by decide)
theorem EncodeBound.compact (c : Tile) : EncodeBound.Statement (.compact c) :=
  fun _ => encodeTile_lt _ _ (by decide)
theorem EncodeBound.qfence (c : Tile) : EncodeBound.Statement (.qfence c) :=
  fun _ => encodeTile_lt _ _ (by decide)
theorem EncodeBound.lookup (c : Tile) : EncodeBound.Statement (.lookup c) :=
  fun _ => encodeTile_lt _ _ (by decide)
theorem EncodeBound.coll (c : Tile) : EncodeBound.Statement (.coll c) :=
  fun _ => encodeTile_lt _ _ (by decide)
theorem EncodeBound.rmov (t : BitVec 3) (a : BitVec 3) : EncodeBound.Statement (.rmov t a) :=
  fun _ => slot_lt (by decide) (by have := t.isLt; omega) (by have := a.isLt; omega)
theorem EncodeBound.radd (t : BitVec 3) (a : BitVec 3) (b : BitVec 3) : EncodeBound.Statement (.radd t a b) :=
  fun _ => slot_lt (by decide) (by have := t.isLt; omega) (by have := a.isLt; have := b.isLt; omega)
theorem EncodeBound.rsub (t : BitVec 3) (a : BitVec 3) (b : BitVec 3) : EncodeBound.Statement (.rsub t a b) :=
  fun _ => slot_lt (by decide) (by have := t.isLt; omega) (by have := a.isLt; have := b.isLt; omega)
theorem EncodeBound.rmul (t : BitVec 3) (a : BitVec 3) (b : BitVec 3) : EncodeBound.Statement (.rmul t a b) :=
  fun _ => slot_lt (by decide) (by have := t.isLt; omega) (by have := a.isLt; have := b.isLt; omega)
theorem EncodeBound.rfma (t : BitVec 3) (a : BitVec 3) (b : BitVec 3) : EncodeBound.Statement (.rfma t a b) :=
  fun _ => slot_lt (by decide) (by have := t.isLt; omega) (by have := a.isLt; have := b.isLt; omega)
theorem EncodeBound.rmin (t : BitVec 3) (a : BitVec 3) (b : BitVec 3) : EncodeBound.Statement (.rmin t a b) :=
  fun _ => slot_lt (by decide) (by have := t.isLt; omega) (by have := a.isLt; have := b.isLt; omega)
theorem EncodeBound.rmax (t : BitVec 3) (a : BitVec 3) (b : BitVec 3) : EncodeBound.Statement (.rmax t a b) :=
  fun _ => slot_lt (by decide) (by have := t.isLt; omega) (by have := a.isLt; have := b.isLt; omega)
theorem EncodeBound.rneg (t : BitVec 3) (a : BitVec 3) : EncodeBound.Statement (.rneg t a) :=
  fun _ => slot_lt (by decide) (by have := t.isLt; omega) (by have := a.isLt; omega)
theorem EncodeBound.rabs (t : BitVec 3) (a : BitVec 3) : EncodeBound.Statement (.rabs t a) :=
  fun _ => slot_lt (by decide) (by have := t.isLt; omega) (by have := a.isLt; omega)
theorem EncodeBound.rcmplt (t : BitVec 3) (a : BitVec 3) (b : BitVec 3) : EncodeBound.Statement (.rcmplt t a b) :=
  fun _ => slot_lt (by decide) (by have := t.isLt; omega) (by have := a.isLt; have := b.isLt; omega)
theorem EncodeBound.rcmpeq (t : BitVec 3) (a : BitVec 3) (b : BitVec 3) : EncodeBound.Statement (.rcmpeq t a b) :=
  fun _ => slot_lt (by decide) (by have := t.isLt; omega) (by have := a.isLt; have := b.isLt; omega)
theorem EncodeBound.rsel (t : BitVec 3) (a : BitVec 3) (b : BitVec 3) : EncodeBound.Statement (.rsel t a b) :=
  fun _ => slot_lt (by decide) (by have := t.isLt; omega) (by have := a.isLt; have := b.isLt; omega)
theorem EncodeBound.rand (t : BitVec 3) (a : BitVec 3) (b : BitVec 3) : EncodeBound.Statement (.rand t a b) :=
  fun _ => slot_lt (by decide) (by have := t.isLt; omega) (by have := a.isLt; have := b.isLt; omega)
theorem EncodeBound.ror (t : BitVec 3) (a : BitVec 3) (b : BitVec 3) : EncodeBound.Statement (.ror t a b) :=
  fun _ => slot_lt (by decide) (by have := t.isLt; omega) (by have := a.isLt; have := b.isLt; omega)
theorem EncodeBound.rxor (t : BitVec 3) (a : BitVec 3) (b : BitVec 3) : EncodeBound.Statement (.rxor t a b) :=
  fun _ => slot_lt (by decide) (by have := t.isLt; omega) (by have := a.isLt; have := b.isLt; omega)
theorem EncodeBound.rshl (t : BitVec 3) (a : BitVec 3) (b : BitVec 3) : EncodeBound.Statement (.rshl t a b) :=
  fun _ => slot_lt (by decide) (by have := t.isLt; omega) (by have := a.isLt; have := b.isLt; omega)
theorem EncodeBound.rshr (t : BitVec 3) (a : BitVec 3) (b : BitVec 3) (m : BitVec 1) : EncodeBound.Statement (.rshr t a b m) :=
  fun _ => slot_lt (by decide) (by have := t.isLt; omega) (by have := a.isLt; have := b.isLt; have := m.isLt; omega)
theorem EncodeBound.rcvt (t : BitVec 3) (a : BitVec 3) (g : BitVec 3) : EncodeBound.Statement (.rcvt t a g) :=
  fun _ => slot_lt (by decide) (by have := t.isLt; omega) (by have := a.isLt; have := g.isLt; omega)
theorem EncodeBound.rexp (t : BitVec 3) (a : BitVec 3) : EncodeBound.Statement (.rexp t a) :=
  fun _ => slot_lt (by decide) (by have := t.isLt; omega) (by have := a.isLt; omega)
theorem EncodeBound.rconst (l : BitVec 16) (t : BitVec 3) : EncodeBound.Statement (.rconst l t) := by
  intro _
  have := l.isLt; have := t.isLt
  simp only [encode, bitLength, slot]
  omega
theorem EncodeBound.rret : EncodeBound.Statement .rret :=
  fun _ => slot_lt (by decide) (by decide) (by decide)
theorem EncodeBound.slotStallEnd : EncodeBound.Statement .slotStallEnd :=
  fun h => absurd rfl h
theorem EncodeBound.vectorEntryBind (quire : Nat) (core : Nat) (lane : Nat) : EncodeBound.Statement (.vectorEntryBind quire core lane) :=
  fun h => absurd rfl h
theorem EncodeBound.trapEntry : EncodeBound.Statement .trapEntry :=
  fun h => absurd rfl h
theorem EncodeBound.writeBack : EncodeBound.Statement .writeBack :=
  fun h => absurd rfl h
theorem EncodeBound.wakeUp (launch : Nat) (tid : Nat) : EncodeBound.Statement (.wakeUp launch tid) :=
  fun h => absurd rfl h
theorem EncodeBound.pickup (quire : Nat) (core : Nat) (slot : Nat) : EncodeBound.Statement (.pickup quire core slot) :=
  fun h => absurd rfl h
theorem EncodeBound.preemptionRequest (launch : Nat) (tid : Nat) : EncodeBound.Statement (.preemptionRequest launch tid) :=
  fun h => absurd rfl h
theorem EncodeBound.forcedSave : EncodeBound.Statement .forcedSave :=
  fun h => absurd rfl h
theorem EncodeBound.accountingRound : EncodeBound.Statement .accountingRound :=
  fun h => absurd rfl h
theorem EncodeBound.jobStart (cls : Nat) (unit : Nat) (core : Nat) : EncodeBound.Statement (.jobStart cls unit core) :=
  fun h => absurd rfl h
theorem EncodeBound.ticketGrant (job : Nat) : EncodeBound.Statement (.ticketGrant job) :=
  fun h => absurd rfl h
theorem EncodeBound.srcFree (job : Nat) : EncodeBound.Statement (.srcFree job) :=
  fun h => absurd rfl h
theorem EncodeBound.visible (job : Nat) : EncodeBound.Statement (.visible job) :=
  fun h => absurd rfl h
theorem EncodeBound.jobDone (job : Nat) : EncodeBound.Statement (.jobDone job) :=
  fun h => absurd rfl h
theorem EncodeBound.copyStreamElement (job : Nat) (member : Nat) : EncodeBound.Statement (.copyStreamElement job member) :=
  fun h => absurd rfl h
theorem EncodeBound.messageArrival (ctx : BitVec 6) (chan : BitVec 8) (quire : Nat) (core : Nat) (payload : Word) : EncodeBound.Statement (.messageArrival ctx chan quire core payload) :=
  fun h => absurd rfl h
theorem EncodeBound.remoteRequest (n : Nat) : EncodeBound.Statement (.remoteRequest n) :=
  fun h => absurd rfl h
theorem EncodeBound.rldReply (n : Nat) (data : Word) : EncodeBound.Statement (.rldReply n data) :=
  fun h => absurd rfl h
theorem EncodeBound.rstAcknowledgement (n : Nat) : EncodeBound.Statement (.rstAcknowledgement n) :=
  fun h => absurd rfl h
theorem EncodeBound.ramoReply (n : Nat) (data : Word) : EncodeBound.Statement (.ramoReply n data) :=
  fun h => absurd rfl h
theorem EncodeBound.faultReply (n : Nat) (reason : BitVec 4) : EncodeBound.Statement (.faultReply n reason) :=
  fun h => absurd rfl h
theorem EncodeBound.remoteTimeout (n : Nat) : EncodeBound.Statement (.remoteTimeout n) :=
  fun h => absurd rfl h
theorem EncodeBound.flitReceive (port : Nat) (flit : List Byte) : EncodeBound.Statement (.flitReceive port flit) :=
  fun h => absurd rfl h
theorem EncodeBound.linkRetrain (port : Nat) (ok : Bool) : EncodeBound.Statement (.linkRetrain port ok) :=
  fun h => absurd rfl h
theorem EncodeBound.routeChange (pkg : BitVec 12) (route : Nat) : EncodeBound.Statement (.routeChange pkg route) :=
  fun h => absurd rfl h
theorem EncodeBound.timeSync (reference : Nat) (held : Bool) : EncodeBound.Statement (.timeSync reference held) :=
  fun h => absurd rfl h
theorem EncodeBound.tlbiAcknowledgement : EncodeBound.Statement .tlbiAcknowledgement :=
  fun h => absurd rfl h
theorem EncodeBound.parkedWalkRetry : EncodeBound.Statement .parkedWalkRetry :=
  fun h => absurd rfl h
theorem EncodeBound.migrationTimeout : EncodeBound.Statement .migrationTimeout :=
  fun h => absurd rfl h
theorem EncodeBound.doorbell (fn : Nat) (queue : Nat) (value : Word) : EncodeBound.Statement (.doorbell fn queue value) :=
  fun h => absurd rfl h
theorem EncodeBound.launchPacket (queue : Nat) : EncodeBound.Statement (.launchPacket queue) :=
  fun h => absurd rfl h
theorem EncodeBound.counterWait (queue : Nat) : EncodeBound.Statement (.counterWait queue) :=
  fun h => absurd rfl h
theorem EncodeBound.valueWrite (queue : Nat) : EncodeBound.Statement (.valueWrite queue) :=
  fun h => absurd rfl h
theorem EncodeBound.noOp (queue : Nat) : EncodeBound.Statement (.noOp queue) :=
  fun h => absurd rfl h
theorem EncodeBound.launchStatusWrite (launch : Nat) : EncodeBound.Statement (.launchStatusWrite launch) :=
  fun h => absurd rfl h
theorem EncodeBound.qctlEnable (fn : Nat) (queue : Nat) (value : Word) : EncodeBound.Statement (.qctlEnable fn queue value) :=
  fun h => absurd rfl h
theorem EncodeBound.qschedWrite (fn : Nat) (queue : Nat) (value : Word) : EncodeBound.Statement (.qschedWrite fn queue value) :=
  fun h => absurd rfl h
theorem EncodeBound.tierwWrite (fn : Nat) (value : Word) : EncodeBound.Statement (.tierwWrite fn value) :=
  fun h => absurd rfl h
theorem EncodeBound.resmapMark (value : Word) : EncodeBound.Statement (.resmapMark value) :=
  fun h => absurd rfl h
theorem EncodeBound.resmapUnmark (value : Word) : EncodeBound.Statement (.resmapUnmark value) :=
  fun h => absurd rfl h
theorem EncodeBound.resmapSetQuota (value : Word) : EncodeBound.Statement (.resmapSetQuota value) :=
  fun h => absurd rfl h
theorem EncodeBound.cntwinWrite (value : Word) : EncodeBound.Statement (.cntwinWrite value) :=
  fun h => absurd rfl h
theorem EncodeBound.asidctlWrite (value : Word) : EncodeBound.Statement (.asidctlWrite value) :=
  fun h => absurd rfl h
theorem EncodeBound.rankcntWrite (value : Word) : EncodeBound.Statement (.rankcntWrite value) :=
  fun h => absurd rfl h
theorem EncodeBound.bdtabWrite (value : Word) : EncodeBound.Statement (.bdtabWrite value) :=
  fun h => absurd rfl h
theorem EncodeBound.prioWrite (value : Word) : EncodeBound.Statement (.prioWrite value) :=
  fun h => absurd rfl h
theorem EncodeBound.registerWrite (fn : Nat) (pa : Nat) (value : Word) : EncodeBound.Statement (.registerWrite fn pa value) :=
  fun h => absurd rfl h
theorem EncodeBound.collcanWrite (fn : Nat) (value : Word) : EncodeBound.Statement (.collcanWrite fn value) :=
  fun h => absurd rfl h
theorem EncodeBound.attestationGo (fn : Nat) (value : Word) : EncodeBound.Statement (.attestationGo fn value) :=
  fun h => absurd rfl h
theorem EncodeBound.attestationReport : EncodeBound.Statement .attestationReport :=
  fun h => absurd rfl h
theorem EncodeBound.pwrctlStateWrite (fn : Nat) (island : Nat) (value : Word) : EncodeBound.Statement (.pwrctlStateWrite fn island value) :=
  fun h => absurd rfl h
theorem EncodeBound.pwrctlFstepWrite (fn : Nat) (island : Nat) (value : Word) : EncodeBound.Statement (.pwrctlFstepWrite fn island value) :=
  fun h => absurd rfl h
theorem EncodeBound.dvfsChange (island : Nat) : EncodeBound.Statement (.dvfsChange island) :=
  fun h => absurd rfl h
theorem EncodeBound.throttle (island : Nat) (step : BitVec 4) : EncodeBound.Statement (.throttle island step) :=
  fun h => absurd rfl h
theorem EncodeBound.rasCounterClear (fn : Nat) (k : Nat) : EncodeBound.Statement (.rasCounterClear fn k) :=
  fun h => absurd rfl h
theorem EncodeBound.scrub (pa : Nat) : EncodeBound.Statement (.scrub pa) :=
  fun h => absurd rfl h
theorem EncodeBound.boot : EncodeBound.Statement .boot :=
  fun h => absurd rfl h
theorem EncodeBound.registration (commid : BitVec 32) (key : BitVec 32) (members : List Member) (who : Member) (deadline : Word) : EncodeBound.Statement (.registration commid key members who deadline) :=
  fun h => absurd rfl h
theorem EncodeBound.start (die : Nat) : EncodeBound.Statement (.start die) :=
  fun h => absurd rfl h
theorem EncodeBound.blockFinal (job : Nat) (source : Nat) : EncodeBound.Statement (.blockFinal job source) :=
  fun h => absurd rfl h
theorem EncodeBound.numberClose (num : BitVec 32) : EncodeBound.Statement (.numberClose num) :=
  fun h => absurd rfl h
theorem EncodeBound.deadlineCancel (num : BitVec 32) : EncodeBound.Statement (.deadlineCancel num) :=
  fun h => absurd rfl h
theorem EncodeBound.cancelClose (num : BitVec 32) : EncodeBound.Statement (.cancelClose num) :=
  fun h => absurd rfl h
theorem EncodeBound.failover : EncodeBound.Statement .failover :=
  fun h => absurd rfl h
theorem EncodeBound.domainRelease (domain : Nat) : EncodeBound.Statement (.domainRelease domain) :=
  fun h => absurd rfl h
theorem EncodeBound.phaseClose (domain : Nat) : EncodeBound.Statement (.phaseClose domain) :=
  fun h => absurd rfl h
theorem EncodeBound.releaseTimeout (domain : Nat) : EncodeBound.Statement (.releaseTimeout domain) :=
  fun h => absurd rfl h
theorem EncodeBound.scheduledElement (quire : Nat) (core : Nat) (port : Nat) (payload : Word) : EncodeBound.Statement (.scheduledElement quire core port payload) :=
  fun h => absurd rfl h
theorem EncodeBound.vectorEntryCompletion (quire : Nat) (lane : Nat) : EncodeBound.Statement (.vectorEntryCompletion quire lane) :=
  fun h => absurd rfl h
theorem EncodeBound.scheduledElementSend (quire : Nat) (core : Nat) : EncodeBound.Statement (.scheduledElementSend quire core) :=
  fun h => absurd rfl h
theorem EncodeBound.windowVisible (job : Nat) : EncodeBound.Statement (.windowVisible job) :=
  fun h => absurd rfl h
theorem EncodeBound.ownerCancel (commid : BitVec 32) (key : BitVec 32) : EncodeBound.Statement (.ownerCancel commid key) :=
  fun h => absurd rfl h
theorem EncodeBound.packageFailure (pkg : BitVec 12) : EncodeBound.Statement (.packageFailure pkg) :=
  fun h => absurd rfl h
theorem EncodeBound.hwReplication : EncodeBound.Statement .hwReplication :=
  fun h => absurd rfl h

end Sys2Proof.Laws
end

