-- ==== Sys2Proof/Laws/Reach.lean ====
section
/-!
SUPPORT. What an access touches (R327, R334): the islands' power and the host bus, and nothing else; and that neither
matters to a walk.
-/
namespace Sys2Proof.Machine

/-- `s` with other power registers and another host bus. -/
def State.powered (s : State) (p : Vector Word 256) (b : List (Nat × Nat × Bool)) : State := { s with pwr := p, hostBus := b }

@[simp] theorem State.powered_self (s : State) : s.powered s.pwr s.hostBus = s := rfl

@[simp] theorem State.powered_powered (s : State) (p q : Vector Word 256) (b c : List (Nat × Nat × Bool)) :
    (s.powered p b).powered q c = s.powered q c := rfl

/-- Each of the operations below gives a state of this form. -/
def OnlyPower (s t : State) : Prop := ∃ p b, t = s.powered p b

theorem OnlyPower.refl (s : State) : OnlyPower s s := ⟨_, _, rfl⟩

theorem OnlyPower.trans {s t u : State} (h : OnlyPower s t) (k : OnlyPower t u) : OnlyPower s u := by
  obtain ⟨p, b, rfl⟩ := h
  obtain ⟨q, c, rfl⟩ := k
  exact ⟨q, c, rfl⟩

theorem OnlyPower.fold {α : Type} {f : State → α → State} (h : ∀ s a, OnlyPower s (f s a)) (l : List α) (s : State) :
    OnlyPower s (l.foldl f s) := by
  induction l generalizing s with
  | nil => exact .refl s
  | cons a l ih => exact (h s a).trans (ih _)

theorem State.wake_only (s : State) (l : List Nat) : OnlyPower s (s.wake l) := ⟨_, _, rfl⟩

theorem State.wakeWalk_only (s : State) (c : Ctx) (va : Nat) : OnlyPower s (s.wakeWalk c va) := by
  unfold State.wakeWalk
  split
  · exact s.wake_only _
  · exact .refl s

theorem State.touch_only (s : State) (c : Ctx) (acc : Access) (pa : Nat) : OnlyPower s (s.touch c acc pa) := by
  unfold State.touch
  dsimp only
  split
  · exact ⟨_, _, rfl⟩
  · exact s.wake_only _

theorem touchVa_only (c : Ctx) (acc : Access) (va : Nat) (s : State) : OnlyPower s (touchVa c acc va s) := by
  unfold touchVa
  split
  · exact (s.wakeWalk_only c va).trans (State.touch_only _ _ _ _)
  · exact s.wakeWalk_only c va

theorem touchRange_only (c : Ctx) (acc : Access) (va n : Nat) (s : State) : OnlyPower s (touchRange c acc va n s) :=
  .fold (fun s _ => touchVa_only c acc _ s) _ s

theorem ringWoken_only (x : Queue) (s : State) : OnlyPower s (ringWoken x s) := s.wake_only _

theorem launchTouched_only (q w : Nat) (s : State) : OnlyPower s (launchTouched q w s) := by
  unfold launchTouched
  dsimp only
  split
  · exact (OnlyPower.fold (fun s x => touchRange_only _ _ _ _ s) _ s).trans (touchRange_only _ _ _ _ _)
  · exact .fold (fun s x => touchRange_only _ _ _ _ s) _ s

/-- A walk reads neither. -/
theorem walk_powered (s : State) (p : Vector Word 256) (b : List (Nat × Nat × Bool)) (c : Ctx) (va : Nat) (acc : Access) :
    walk (s.powered p b) c va acc = walk s c va acc := rfl

end Sys2Proof.Machine
end

