-- ==== Sys2Proof/Tests/Slice0.lean ====
section
/-!
SUPPORT. Tests: words that the spec writes out, ill-formed instructions, small steps, and for each statement of the
certificate the states and operands that meet its hypotheses. Expected values come from the spec's examples and tables,
named at each test.
-/
namespace Sys2Proof.Tests
open Machine Claims

set_option maxRecDepth 100000
set_option Elab.async false

/-! ## Words that the spec prints (the rule of each instruction) -/

def decodes (l : List (Nat × Instr)) : Bool := l.all (fun x => decodeTableWord 32 x.1 == some x.2)

theorem test_decode_integer : decodes [
  (0x08B2FFFF, .addi 11 11 (-1)), (0x04928B3A, .addsh 9 10 11 2), (0x0C944001, .andi 9 17 1), (0x04928B05, .div 9 10 11),
  (0x04928B22, .max 9 10 11), (0x06122021, .minU 33 8 32), (0x209FFFFF, .movi 9 (-1)), (0x24901000, .movhi 9 0x1000),
  (0x04B10502, .mul 11 4 5), (0x28B2C004, .muli 11 11 4), (0x08000000, .nop), (0x05D74912, .or 29 29 9),
  (0x10F3C001, .ori 15 15 1), (0x0492802A, .popc 9 10), (0x04928B08, .remU 9 10 11), (0x04928B34, .set 9 10 11 4)] = true := by
  decide

theorem test_decode_integer_more : decodes [
  (0x1C929064, .seti 9 10 2 100), (0x18F3C020, .shi 15 15 0 32), (0x19811001, .shi 24 4 1 1), (0x05D75114, .shl 29 29 17),
  (0x04822101, .sub 8 8 33), (0x04928B13, .xor 9 10 11), (0x14927FFF, .xori 9 9 (-1)), (0x04928B24, .sel 9 10 11)] = true := by
  decide

theorem test_decode_floating : decodes [
  (0x40928B00, .fadd 9 10 11 0 0), (0x40928B20, .fadd 9 10 11 0 2), (0x4092800B, .fclass 9 10 0), (0x4C928320, .fcvt 9 10 3 2 0),
  (0x40B74603, .fdiv 11 29 6 0 0), (0x44D2CC34, .fmaFp32 13 11 12 13 0), (0x40928B06, .fmax 9 10 11 0), (0x40B2C00C, .fneg 11 11 0),
  (0x40A75A09, .fsetLe 10 29 26 0), (0x40928044, .fsqrt 9 10 1 0)] = true := by decide

theorem test_decode_capabilities : decodes [
  (0x60808A08, .cadd 8 2 10), (0x64618080, .caddi 6 6 128), (0x60954004, .cgetLen 9 21), (0x61404009, .ldC 20 1 0),
  (0x60A6000A, .stC 10 24 0)] = true := by decide

theorem test_decode_control_flow : decodes [
  (0x70722805, .b 7 8 5 5), (0x70B00FFD, .b 11 0 1 (-3)), (0x77FFFFFB, .j (-5)), (0x7B700014, .jal 55 20),
  (0x7C080000, .jr 0 32 0), (0x7C0DC000, .jr 0 55 0), (0xF8001007, .trap 7), (0xF8002000, .eret)] = true := by decide

theorem test_decode_memory : decodes [
  (0x81A06018, .ld 26 1 2 0 0 24), (0x80E37280, .ld 14 13 3 1 2 0), (0x88A56004, .ldX 10 21 2 0 0 4), (0x84E26000, .st 14 9 2 0 0 0),
  (0x84A26480, .st 10 9 2 2 2 0), (0x8CD5A004, .stX 13 22 2 0 0 4), (0x90950A0F, .amo 9 20 10 0 3 3), (0x94950A07, .cas 9 20 10 1 3),
  (0x98001A48, .fence 6 9 1), (0x9C021002, .pref 8 1 2)] = true := by decide

theorem test_decode_streams_and_remote : decodes [
  (0xA3850003, .sbind 56 20 3), (0xA3924001, .sbind 57 9 1), (0xA7800000, .sfree 56), (0xA8024A05, .send 9 10 5),
  (0xACC532C0, .rld 12 20 3 1 3 0), (0xACC52002, .rld 12 20 2 0 0 2), (0xB0952000, .rst 9 20 2 0 0 0),
  (0xB09564C0, .rst 9 21 2 2 3 0), (0xB4950A03, .ramo 9 20 10 0 0 3), (0xB4950A8F, .ramo 9 20 10 8 3 3)] = true := by decide

theorem test_decode_waits_and_counters : decodes [
  (0xB8000000, .mwait), (0xBA800001, .mpop 40), (0xBC030500, .cntw 12 5 0), (0xBCC00501, .cntr 12 5 0), (0xBC0248C3, .cnta 9 8 3),
  (0xBC038204, .cbadvP 14 2), (0xC4024811, .suspCnt 9 17), (0xC4051000, .suspJob 20), (0xC4001801, .suspStrm 1),
  (0xC4026000, .suspTime 9), (0xD8050000, .jwait 20), (0xD8950001, .jpoll 9 20)] = true := by decide

theorem test_decode_threads : decodes [
  (0xC177D600, .spawn 23 31 22), (0xC177D6E4, .spawnP 23 31 22 100), (0xC8000000, .yield), (0xC8000001, .exit), (0xCC024000, .join 9),
  (0xCC024001, .leave 9), (0xD0024000, .hbar 9), (0xD0000001, .hbarArrive 0), (0xD0024002, .hbarWait 9), (0xD4000002, .gang 2),
  (0xD4002000, .ungang), (0xF4000003, .ckpt 3)] = true := by decide

theorem test_decode_phases_and_system : decodes [
  (0xDC060000, .whistle 24), (0xDC034001, .ssend 13), (0xDC024002, .srecv 9), (0xFA000032, .csrr 32 0x032), (0xF8028033, .csrw 10 0x033),
  (0xF8026002, .synci 9), (0xF8026003, .tlbi 9)] = true := by decide

theorem test_decode_vector : decodes [
  (0xE108E010, .vadd 4 2 3 2 0 0 0 0 1), (0xE0406480, .vadd 1 0 1 2 0 1 0 2 0), (0xE0026C00, .vadd 0 0 9 2 1 1 0 0 0),
  (0xE046543A, .vshr 1 1 9 1 0 1 0 0 3), (0xE088201D, .vexp 2 2 2 0 0 1), (0xE0806213, .vfma 2 0 1 2 0 0 1 0 1),
  (0xE080240C, .vset 2 0 0 2 0 1 0 0 0), (0xE4C48004, .vperm 3 1 2 0 0 0 0 0), (0xE4426415, .vbcast 1 0 9 2 0 1 0 0 1),
  (0xE4401006, .vidx 1 1 0 0)] = true := by decide

theorem test_decode_vector_memory : decodes [
  (0xE4C82010, .vredAdd 3 2 2 0 0 1), (0xE4D5A407, .vmovg 3 5 6 2 0 0), (0xE440C068, .vcvt 1 0 3 0 0 6), (0xEC438400, .vseq 1 14 0),
  (0xEC000481, .vsetl 0 2), (0xE8068000, .vld 0 6 2 0 0), (0xE8428103, .vst 1 2 2 1 1), (0xE848408C, .vldShape 1 8 1 0 3 0)] = true := by
  decide

theorem test_decode_routines :
    (decodeTableWord 16 0x4A04 == some (.rcmplt 2 0 1) && decodeTableWord 16 0x8005 == some (.rshr 0 0 1 1)) = true := by decide

/-- The 256 bits of a tile command's words, the first lowest. -/
def words (l : List Nat) : Nat := l.foldr (fun w x => w % 2 ^ 32 + 2 ^ 32 * x) 0

/-- The tile command of a list of words, with the fields that the spec's tables of words name. -/
def tileIs (l : List Nat) (p : Instr → Bool) : Bool := ((decodeTableWord 256 (words l)).map p).getD false

/-- R94, R396, R338, R339, R404, R451. -/
theorem test_decode_matrix_commands :
    tileIs [0xFD400100, 0x00824001, 0x400, 0, 0x03550000] (fun i => match i with
      | .mma c => c.d == 20 && c.x == 0 && c.y == 8 && c.z == 9 && c.shape == 1 && c.scope == 2
      | _ => false) = true ∧
    tileIs [0xFD700200, 0x58000001, 0x440, 0, 0x03300000] (fun i => match i with
      | .accrd c => c.d == 23 && c.x == 22 && c.shape == 1 && c.jobDone && c.w4 == 0x03300000
      | _ => false) = true ∧
    tileIs [0xFE200300, 0, 0x400] (fun i => match i with
      | .accrel c => c.d == 34 && c.w4 == 0
      | _ => false) = true ∧
    tileIs [0xFD401000, 0x20928004, 0x00200440, 0, 5] (fun i => match i with
      | .outer c => c.d == 20 && c.x == 8 && c.y == 9 && c.z == 10 && c.shape == 4 && c.hb == 2 && c.w4 == 5
      | _ => false) = true := by decide

/-- R188, R418, R451. -/
theorem test_decode_form_commands :
    tileIs [0xFD411100, 0x20900002, 0x20000440] (fun i => match i with
      | .fold c => c.cls == 1 && c.d == 20 && c.x == 8 && c.y == 9 && c.ha == 8
      | _ => false) = true ∧
    tileIs [0xFD411200, 0x20900002, 0x440, 0, 0x10] (fun i => match i with
      | .scan c => c.cls == 1 && c.d == 20 && c.w4 == 0x10
      | _ => false) = true ∧
    tileIs [0xFCE11300, 0x2CA30000, 0x20000400] (fun i => match i with
      | .zip c => c.d == 14 && c.x == 11 && c.y == 10 && c.z == 12 && c.w == 0 && c.ha == 8
      | _ => false) = true := by decide

/-- R207, R218, R405, R407, R357, R408. -/
theorem test_decode_copy_commands :
    tileIs [0xFD510100, 0x20900002, 0x440, 0, 0x403] (fun i => match i with
      | .copy c => c.d == 21 && c.x == 8 && c.y == 9 && c.shape == 2 && c.w4 == 0x403
      | _ => false) = true ∧
    tileIs [0xFD710218, 0x20928003, 0x5400, 0, 0x64, 0x40] (fun i => match i with
      | .get c => c.d == 23 && c.z == 10 && c.cnt == 5 && c.w4 == 100 && c.w5 == 64
      | _ => false) = true ∧
    tileIs [0xFD710328, 0x20928003, 0x5400, 0, 0x64, 0x30040] (fun i => match i with
      | .putAdd c => c.d == 23 && c.w5 == 0x30040
      | _ => false) = true ∧
    tileIs [0xFD710308, 0x20928003, 0x5400, 0, 0x64, 0x40] (fun i => match i with
      | .put c => c.d == 23 && c.w5 == 0x40
      | _ => false) = true := by decide

/-- R405, R357, R408, R234, R356. -/
theorem test_decode_other_commands :
    tileIs [0xFD410400, 0x20900002, 0x440, 0, 0x00400000] (fun i => match i with | .pack c => c.d == 20 | _ => false) = true ∧
    tileIs [0xFD410500, 0x20928B02, 0x440, 0, 5, 0x40] (fun i => match i with | .compact c => c.w == 11 | _ => false) = true ∧
    tileIs [0xFD412000, 0, 0x440] (fun i => match i with | .qfence c => c.d == 20 && c.jobDone | _ => false) = true ∧
    tileIs [0xFDA20100, 0x61455700, 0x440, 0, 0x08208081, 0x00080004, 0x59900000] (fun i => match i with
      | .lookup c => c.d == 26 && c.x == 24 && c.y == 20 && c.z == 21 && c.w == 23
      | _ => false) = true ∧
    tileIs [0xFDA30100, 0x55401700, 0x400, 0, 0x52, 1] (fun i => match i with
      | .coll c => c.d == 26 && c.x == 21 && c.y == 20 && c.w == 23
      | _ => false) = true := by decide

/-! ## Instructions that break a field rule -/

/-- R337, R370, R389, R426, R341, R346, R372 and the other entries: a term for each check. -/
theorem test_ill_formed_scalar : ([.sel 56 1 2, .movhi 56 0, .set 1 2 3 6, .seti 1 2 7 0, .addi 0 0 0, .fadd 1 2 3 3 0, .fcvt 1 2 13 3 0,
  .fcvt 1 2 3 13 0, .b 1 2 6 0, .b 1 0 7 0, .jal 56 0, .jr 57 1 0, .ld 1 2 3 2 0 0, .ld 1 2 3 0 2 0, .ld 1 2 3 1 5 0, .st 1 2 3 1 0 0,
  .st 1 2 3 0 1 0, .st 1 2 3 2 5 0, .amo 1 2 3 0 0 1, .amo 1 2 3 10 0 3, .amo 1 2 3 9 0 3, .amo 56 2 3 0 0 3, .cas 1 2 3 0 1,
  .cas 56 2 3 0 3, .fence 0 1 0, .fence 1 0 0, .fence 1 1 5] : List Instr).all (fun i => !wellFormedInstr i) = true := by decide

theorem test_ill_formed_system : ([.sbind 55 1 0, .sfree 1, .rld 56 1 3 0 0 0, .rst 1 2 3 1 0 0, .ramo 1 2 3 0 0 0, .suspCnt 56 0,
  .suspJob 56, .suspTime 60, .gang 0, .csrr 0 0x10, .csrx 0 1 0x20, .csrx 1 0 0x20, .rcvt 0 1 7] : List Instr).all
    (fun i => !wellFormedInstr i) = true := by decide

/-- R74, R86, R87, R440, R443. -/
theorem test_ill_formed_vector : ([.vadd 0 1 2 3 0 0 0 0 0, .vadd 0 1 2 2 0 0 0 1 0, .vadd 0 1 2 2 0 0 0 0 3, .vfma 0 1 2 2 0 0 0 0 0,
  .vand 0 1 2 2 0 0 0 0 1, .vshr 0 1 2 2 0 0 0 0 1, .vadd 0 1 2 0 0 0 0 0 1, .vadd 0 1 2 2 0 0 0 0 2, .vset 4 0 1 2 0 0 0 0 0,
  .vexp 0 1 2 0 0 0, .vredAdd 0 1 2 0 0 3, .vperm 0 1 2 3 0 0 0 0, .vbcast 0 1 2 2 0 1 0 0 0, .vbcast 0 1 2 2 0 0 0 0 0, .vidx 0 3 0 0,
  .vmovg 0 6 0 2 0 0, .vmovg 1 0 0 0 0 0, .vmovg 0 2 8 0 0 3, .vcvt 0 1 1 0 0 3, .vcvt 0 1 3 0 0 13, .vld 0 1 3 0 0] : List Instr).all
    (fun i => !wellFormedInstr i) = true := by decide

/-- A tile command with every field zero. -/
def tile0 : Tile := ⟨0, 0, 0, 0, 0, 0, 0, 0, 0, 0, 0, 0, false, false, false, 0, 0, 0, 0, 0, 0, 0, 0⟩

/-- The MMA of R94. -/
def mma94 : Tile := { tile0 with d := 20, y := 8, z := 9, shape := 1, scope := 2, w4 := 0x03550000 }

/-- R91, R93, R172, R396: each check of an MMA, broken alone. -/
theorem test_ill_formed_mma : wellFormedInstr (.mma mma94) = true ∧
    ([{ mma94 with cls := 1 }, { mma94 with flags := 2 }, { mma94 with cnt := 1 }, { mma94 with scope := 5 }, { mma94 with p := 1 },
      { mma94 with x := 1 }, { mma94 with w := 1 }, { mma94 with ha := 8 }, { mma94 with inRing := 1 }, { mma94 with inCount := 1 },
      { mma94 with outCount := 1 }, { mma94 with w4 := 0x03550001 }, { mma94 with w4 := 0x035A0000 }, { mma94 with w5 := 1 }] : List Tile).all
        (fun c => !wellFormedInstr (.mma c)) = true := by decide

/-- R338, R339, R188, R375, R404, R418, R451. -/
theorem test_ill_formed_forms : ([.accrd { tile0 with x := 1, w4 := 0x03600000, w5 := 1 }, .accrd { tile0 with x := 1, w4 := 0x03800000 },
  .accrel { tile0 with w4 := 1 }, .outer { tile0 with ha := 4 }, .outer { tile0 with w4 := 0x01000000 }, .outer { tile0 with w4 := 0x800000, x := 1 },
  .fold { tile0 with cls := 2 }, .fold { tile0 with cls := 1, w4 := 0x800000 }, .fold { tile0 with w4 := 10 }, .fold { tile0 with hb := 8 },
  .scan { tile0 with w4 := 0x20 }, .zip { tile0 with z := 1 }, .zip { tile0 with y := 1, w := 1 }, .zip { tile0 with w4 := 1 }] : List Instr).all
    (fun i => !wellFormedInstr i) = true := by decide

/-- R207, R218, R379, R405, R407, R357, R408, R235, R263. -/
theorem test_ill_formed_copies : ([.copy { tile0 with cls := 1, w4 := 0x1000 }, .copy { tile0 with cls := 1, w4 := 0x100, x := 1 },
  .get { tile0 with cls := 1, w5 := 8 }, .get { tile0 with cls := 1, w4 := 1, w5 := 12 }, .put { tile0 with cls := 1, w4 := 1, w5 := 0x10008 },
  .put { tile0 with cls := 1, flags := 0x20, w4 := 1, w5 := 8 }, .putAdd { tile0 with cls := 1, flags := 0x20, w4 := 1, w5 := 0x60008 },
  .pack { tile0 with cls := 1, w4 := 0x300000 }, .compact { tile0 with cls := 1, w5 := 8 }, .qfence { tile0 with cls := 1, cnt := 1 },
  .lookup { tile0 with cls := 2 }, .coll { tile0 with cls := 3, w4 := 5 }, .coll { tile0 with cls := 3, ha := 4 }] : List Instr).all
    (fun i => !wellFormedInstr i) = true := by decide

/-! ## The states of the witnesses: a thread that runs alone, with addresses as they are (R127: no translation) -/

/-- HBM's first byte (R132). -/
def hbm : Nat := 0x010000000000

/-- A capability with every permission to the first megabyte of HBM, its address at an offset. -/
def mega (off : Nat) : Reg := boundedCap (hbm + off) hbm 0x100000 0xFFFF

/-- The thread: every register its own, a capability in g1, data in g2 to g4, an element in q0 and a sender in q1. -/
def runner : Thread :=
  { Thread.empty with
    launch := 1, ctx := 2, code := .running, gran := 7, queuePrio := 127, vregs := 16, nshape := 4
    privBase := hbm + 0x20000, privLen := 0x10000
    pc := BitVec.ofNat 64 (hbm + 0x400), fetchCap := mega 0x400, m := BitVec.allOnes 128, vl := 4
    g := (((Thread.empty.g.set 1 (mega 0x1000)).set 2 (Reg.ofData 7)).set 3 (Reg.ofData 3)).set 4 (Reg.ofData (BitVec.ofInt 64 (-1)))
    q := (Thread.empty.q.set 0 (some ⟨.rx, 5, [21, 22]⟩)).set 1 (some ⟨.tx, 0, []⟩) }

/-- The package with that thread in focus: nothing else runs, and rank 0 of its context is core 0 of quire 0 (R260). -/
def run : State :=
  { State.reset with
    th := runner
    ctxs := State.reset.ctxs.set 2 { Context.reset with
      rankcnt := 4
      ranktab := BitVec.ofNat 64 (hbm + 0x50000)
      cntwin := 0x0820 }
    mem := ⟨[(hbm + 0x50003, 1)], []⟩ }

def runWith (f : Thread → Thread) : State := run.up f

/-- The state after an instruction. -/
def after (i : Instr) (s : State) : State :=
  match exec i s with
  | .next t => t
  | _ => s

/-- Nothing stops any of these at its operands. -/
def AllReady (l : List (Instr × List RegField × Option RegField)) (s : State) : Prop := ∀ x ∈ l, Ready x.1 x.2.1 x.2.2 s

theorem all_ready {l : List (Instr × List RegField × Option RegField)} {s : State}
    (h : (l.all fun x => operandHalt x.1 x.2.1 x.2.2 s == none) = true) : AllReady l s := by
  intro x hx
  simpa [Ready] using List.all_eq_true.mp h x hx

/-- A part that ends well, and one that ends in a trap or a wait. -/
def isOk {ε α : Type} (x : Except ε α) : Bool := match x with | .ok _ => true | .error _ => false
def isError {ε α : Type} [DecidableEq ε] (x : Except ε α) (e : ε) : Bool := match x with | .ok _ => false | .error f => decide (f = e)

theorem ok_exists {ε α : Type} {x : Except ε α} (h : isOk x = true) : ∃ v, x = .ok v := by
  cases x
  · cases h
  · exact ⟨_, rfl⟩

theorem ok_unit {ε : Type} {x : Except ε Unit} (h : isOk x = true) : x = .ok () := by
  obtain ⟨_, h⟩ := ok_exists h
  exact h

theorem not_ok {ε : Type} {x : Except ε Unit} (h : isOk x = false) : x ≠ .ok () := by
  rintro rfl
  cases h

theorem error_of {ε α : Type} [DecidableEq ε] {x : Except ε α} {e : ε} (h : isError x e = true) : x = .error e := by
  cases x
  · simpa [isError] using h
  · cases h

/-- Nothing is in retention where an access is made, and it is not to the host window. -/
def awake (s : State) (pa : Nat) : Bool := (islandsOf pa).all (fun i => bits (s.pwrctl i).toNat 1 0 != 1) && !inHost pa

theorem wake_awake {s : State} {l : List Nat} (h : ∀ i ∈ l, bits (s.pwrctl i).toNat 1 0 ≠ 1) : s.wake l = s := by
  suffices k : l.foldl wakeIn s.pwr = s.pwr by simp [State.wake, k]
  induction l with
  | nil => rfl
  | cons i l ih =>
    have hi : wakeIn s.pwr i = s.pwr := by
      have := h i (List.mem_cons_self ..)
      unfold State.pwrctl at this
      unfold wakeIn
      split
      · rename_i hn; rw [dif_pos hn] at this; exact if_neg this
      · rfl
    rw [List.foldl_cons, hi]
    exact ih (fun j hj => h j (List.mem_cons_of_mem _ hj))

theorem touch_awake {s : State} {c : Ctx} {acc : Access} {pa : Nat} (h : awake s pa = true) : s.touch c acc pa = s := by
  simp only [awake, Bool.and_eq_true, List.all_eq_true, bne_iff_ne, Bool.not_eq_true'] at h
  simp [State.touch, wake_awake h.1, h.2]

/-- Without translation no walk is waited for. -/
theorem may_walk {s : State} {va : Nat} (h : (s.ctx s.th.ctx).enable = false) : MayWalk s va := by
  unfold MayWalk missWaits
  cases s.th.turn <;> simp [walkFull, tlbMiss, h]

/-- An address in a context without translation. -/
theorem off {s : State} {va pa : Nat} {acc : Access}
    (h : (isLocal va && !(s.ctx s.th.ctx).enable && awake s pa &&
      decide (walk s s.th.ctx va acc = .ok pa (va / 4096 * 4096) 12 true true)) = true) :
    Translates s va acc pa s := by
  simp only [Bool.and_eq_true, decide_eq_true_eq, Bool.not_eq_true'] at h
  obtain ⟨⟨⟨l, e⟩, a⟩, w⟩ := h
  exact ⟨may_walk e, va / 4096 * 4096, 12, true, true,
    by simp [Machine.translate, touched, lookup, l, e, w, touch_awake a]⟩

theorem off_fault {s : State} {va : Nat} {acc : Access} {v : Word}
    (h : (isLocal va && !(s.ctx s.th.ctx).enable && decide (walk s s.th.ctx va acc = .fault v)) = true) :
    ∃ t, translate s s.th.quire s.th.ctx va acc = (.fault v, t) := by
  simp only [Bool.and_eq_true, decide_eq_true_eq, Bool.not_eq_true'] at h
  exact ⟨s, by simp [Machine.translate, touched, lookup, h.1.1, h.1.2, h.2]⟩

theorem some_exists {α : Type} {x : Option α} (h : x.isSome = true) : ∃ v, x = some v := Option.isSome_iff_exists.mp h

/-- A continuation that can be written back. -/
theorem saves {u : Thread} {s : State}
    (h : (forwardRoom s u && (poolPages s u).all (fun x => match x.2 with | .ok _ _ _ _ _ => true | _ => false) &&
      ((storeFrame u (fun n => u.dirty.getLsbD n) s).bind (storeRecord { u with dirty := 0 })).isSome) = true) : ∃ t, Saves u s t := by
  simp only [Bool.and_eq_true] at h
  obtain ⟨⟨f, w⟩, st⟩ := h
  obtain ⟨t, st⟩ := some_exists st
  obtain ⟨s1, h1, h2⟩ := Option.bind_eq_some_iff.mp st
  refine ⟨t, f, fun x hx => ?_, s1, h1, h2⟩
  have w := List.all_eq_true.mp w x hx
  cases h : x.2 <;> rw [h] at w
  · exact ⟨_, _, _, _, _, rfl⟩
  all_goals cases w

/-- A job of the thread, and its member. -/

def aMember : JobMember := ⟨1, 0, 0, 0, [], Reg.null, Reg.null, [], [], false⟩
def aJob (id : Nat) : Job :=
  { id := id, cls := 1, unit := 0, quire := 0, core := 0, ctx := 2, launch := 1, cmd := .copy tile0, tile := tile0
    members := [aMember], routines := [], deadline := 0, weight := 1, order := 0, stage := .queued, status := 0, record := [], done := 0
    tickets := [], spillAt := none, parkedAt := none, missAt := none, timedOut := [], freed := false, visible := false, windows := [], stream := [], bound := []
    counts := [], widths := [], gang := none, entered := [], comm := none, number := none, finals := [] }

/-- A remote operation that nothing stops. -/
theorem asks {perms : List Nat} {c : Reg} {va n : Nat} {ordered release : Bool} {r : State}
    (h : ((if ordered then r.entries.isEmpty else isOk (bytesFree va n r)) && isOk (sendRead va n r) && isOk (sendsRead r) && isOk (acquired r) && perms.all (fun p => isOk (capCheck c va n p)) &&
      va % n == 0 && (decide (va < 2 ^ 56) || (va / 2 ^ 60 == 8 && c.has permRemote)) && decide (r.th.replies < 255)) = true) :
    Asks perms c va n ordered release r := by
  simp only [Bool.and_eq_true, Bool.or_eq_true, beq_iff_eq, decide_eq_true_eq, List.all_eq_true] at h
  obtain ⟨⟨⟨⟨⟨⟨⟨b, e⟩, d⟩, a⟩, p⟩, m⟩, f⟩, q⟩ := h
  refine ⟨?_, fun _ => ok_unit e, fun _ => ok_unit d, ok_unit a, fun x hx => ok_unit (p x hx), m, f, q⟩
  cases ordered
  · exact ok_unit b
  · exact List.isEmpty_iff.mp b

theorem ready {i : Instr} {srcs : List RegField} {dst : Option RegField} {s : State}
    (h : operandHalt i srcs dst s = none) : Ready i srcs dst s := h

/-! ## Integers -/

/-- The register forms on data, on g0 and on stream registers. -/
theorem witness_IntegerForms_registers :
    AllReady ([Instr.add, .sub, .mul, .mulh, .mulhU, .and, .andn, .or, .xor, .shl, .shr, .shrA, .rot, .min, .minU, .max,
      .maxU].flatMap (fun f => [(f 55 2 4, [2, 4], some 55), (f 0 0 0, [0, 0], some 0), (f 57 56 56, [56, 56], some 57)])) run ∧
    AllReady [(.addsh 55 2 4 3, [2, 4], some 55), (.addsh 57 56 56 0, [56, 56], some 57), (.sel 55 2 4, [2, 4, 55], some 55),
      (.sel 0 56 56, [56, 56, 0], some 0)] run :=
  ⟨all_ready (by decide +kernel), all_ready (by decide +kernel)⟩

theorem witness_IntegerForms_immediates :
    AllReady [(.addi 55 2 0x1FFF, [2], some 55), (.andi 57 56 0x2000, [56], some 57), (.ori 0 0 1, [0], some 0),
      (.xori 9 4 0x3FFF, [4], some 9), (.muli 9 4 0x2000, [4], some 9), (.shi 9 4 0 63, [4], some 9), (.shi 9 4 1 0, [4], some 9),
      (.shi 9 4 2 63, [4], some 9), (.shi 57 56 3 0, [56], some 57), (.movi 57 0x80000, [], some 57), (.movi 0 1, [], some 0),
      (.movhi 9 0xFFFFF, [9], some 9)] run := all_ready (by decide +kernel)

/-- The words' fields at the ends of their ranges: d at most g55 for SEL and MOVHI, at least q0 for their traps. -/
theorem witness_IntegerForms_words : (55 : RegField).toNat < 56 ∧ 56 ≤ (56 : RegField).toNat ∧ (1 : BitVec 6) ≠ 0 := by decide

theorem witness_DivisionForms :
    AllReady ([Instr.div, .divU, .rem, .remU].flatMap (fun f => [(f 55 2 3, [2, 3], some 55), (f 9 2 0, [2, 0], some 9),
      (f 57 56 56, [56, 56], some 57)])) run := all_ready (by decide +kernel)

theorem witness_SetWritesCondition :
    AllReady ([0, 1, 2, 3, 4, 5].flatMap (fun c => [(.set 9 2 4 c, [2, 4], some 9), (.seti 57 56 c 0x400, [56], some 57)])) run ∧
    (5 : BitVec 3).toNat < 6 ∧ 6 ≤ (6 : BitVec 3).toNat := ⟨all_ready (by decide +kernel), by decide⟩

theorem witness_BitCounts :
    AllReady [(.clz 9 0, [0], some 9), (.ctz 57 56, [56], some 57), (.popc 9 4, [4], some 9)] run := all_ready (by decide +kernel)

/-- R340, R343, R395, R400, R403, R449: sums and products wrap; the high half of −1 × −1 is 0, and unsigned 2^64 − 2. -/
theorem test_integer_results :
    (after (.add 9 4 2) run).th.reg 9 = Reg.ofData 6 ∧ (after (.mulh 9 4 4) run).th.reg 9 = Reg.ofData 0 ∧
    (after (.mulhU 9 4 4) run).th.reg 9 = Reg.ofData 0xFFFFFFFFFFFFFFFE ∧ (after (.sub 2 2 3) run).th.reg 2 = Reg.ofData 4 ∧
    (after (.min 9 2 4) run).th.reg 9 = (run.th.reg 4) ∧ (after (.maxU 9 2 4) run).th.reg 9 = run.th.reg 4 ∧
    (after (.shrA 9 4 2) run).th.reg 9 = run.th.reg 4 ∧ (after (.rot 9 3 2) run).th.reg 9 = Reg.ofData 0x0600000000000000 ∧
    (after (.addsh 9 2 3 1) run).th.reg 9 = Reg.ofData 31 ∧ (after (.sel 0 2 3) run).th.pc = run.th.pc + 4 := by decide +kernel

/-- R363: a division by 0 gives all ones and leaves a; the least number by −1 wraps, with remainder 0; quotients truncate. -/
theorem test_division_corners :
    let s := runWith (fun t => (t.setReg 5 (Reg.ofData 0x8000000000000000)).setReg 6 (Reg.ofData (BitVec.ofInt 64 (-7))))
    (after (.div 9 2 0) s).th.reg 9 = s.th.reg 4 ∧ (after (.rem 9 2 0) s).th.reg 9 = Reg.ofData 7 ∧
    (after (.div 9 5 4) s).th.reg 9 = s.th.reg 5 ∧ (after (.rem 9 5 4) s).th.reg 9 = Reg.ofData 0 ∧
    (after (.div 9 6 3) s).th.reg 9 = Reg.ofData (BitVec.ofInt 64 (-2)) ∧
    (after (.rem 9 6 3) s).th.reg 9 = Reg.ofData (BitVec.ofInt 64 (-1)) ∧
    (after (.divU 9 4 2) s).th.reg 9 = Reg.ofData 0x2492492492492492 := by decide +kernel

/-- R421, R353, R402: a signed and an unsigned comparison, the counts of 7 and of 0, and the two parts of a constant. -/
theorem test_conditions_counts_constants :
    (after (.set 9 4 2 2) run).th.reg 9 = Reg.ofData 1 ∧ (after (.set 9 4 2 4) run).th.reg 9 = Reg.ofData 0 ∧
    (after (.clz 9 2) run).th.reg 9 = Reg.ofData 61 ∧ (after (.ctz 9 0) run).th.reg 9 = Reg.ofData 64 ∧
    (after (.popc 9 4) run).th.reg 9 = Reg.ofData 64 ∧ (after (.movi 9 0xFFFFF) run).th.reg 9 = run.th.reg 4 ∧
    (after (.movhi 2 0x00001) run).th.reg 2 = Reg.ofData 0x700001 := by decide +kernel

/-! ## Floating point -/

theorem witness_FloatArithmetic :
    AllReady ([Instr.fadd, .fsub, .fmul, .fdiv].flatMap (fun f => [(f 55 2 4 0 0, [2, 4], some 55), (f 57 56 56 2 3, [56, 56], some 57)]))
      run ∧
    AllReady [(.fsqrt 9 4 1 2, [4], some 9), (.fmaFp32 9 2 3 4 1, [2, 3, 4], some 9), (.fmaFp16 0 2 3 0 0, [2, 3, 0], some 0)] run :=
  ⟨all_ready (by decide +kernel), all_ready (by decide +kernel)⟩

/-- Numbers, one NaN, two NaNs, and zeros of both signs: the four cases of FMIN and FMAX, and the classes. -/
theorem witness_FloatTestsAndExtremes :
    AllReady ([Instr.fsetEq, .fsetLt, .fsetLe, .fsetUn, .fmin, .fmax].flatMap (fun f =>
      [(f 9 2 3 0, [2, 3], some 9), (f 57 56 56 2, [56, 56], some 57)])) run ∧
    AllReady [(.fneg 9 4 0, [4], some 9), (.fabs 9 4 1, [4], some 9), (.fclass 9 4 2, [4], some 9)] run ∧
    (let nan := decodeFloat 3 0x7FC00000
     let one := decodeFloat 3 0x3F800000
     nan.isNaN = true ∧ one.isNaN = false ∧ cmpNum (decodeFloat 3 0) (decodeFloat 3 0x80000000) = 0 ∧
       (decodeFloat 3 0).neg ≠ (decodeFloat 3 0x80000000).neg) :=
  ⟨all_ready (by decide +kernel), all_ready (by decide +kernel), by decide +kernel⟩

/-- A signed integer's format and a floating format; an integer, a number, a signalling NaN and a quiet one. -/
theorem witness_FormatConversions :
    AllReady [(.fcvt 9 2 3 2 0, [2], some 9), (.fcvt 9 4 12 12 3, [4], some 9), (.fcvt 57 56 0 3 1, [56], some 57)] run ∧
    (isIntFmt 2 = true ∧ 0xFFFFFFFF < 2 ^ fmtWidth 2) ∧
    (isFloatFmt 3 = true ∧ (decodeFloat 3 0x7F7FFFFF).isNaN = false ∧ (decodeFloat 3 0x7F800001).isNaN = true ∧
      (decodeFloat 3 0x7F800001).isSignalling = true ∧ (decodeFloat 3 0xFFFFFFFF).isSignalling = false) :=
  ⟨all_ready (by decide +kernel), by decide +kernel, by decide +kernel⟩

/-- R366, R367, R106: 1 + 2 = 3, 1 / 0 raises DZ, the root of −1 is the canonical NaN with NV, and min(−0, +0) = −0. -/
theorem test_floating_results :
    let s := runWith (fun t => ((t.setReg 5 (Reg.ofData 0x3F800000)).setReg 6 (Reg.ofData 0x40000000)).setReg 7 (Reg.ofData 0xBF800000))
    (after (.fadd 9 5 6 0 0) s).th.reg 9 = Reg.ofData 0x40400000 ∧ (after (.fdiv 9 5 0 0 0) s).th.reg 9 = Reg.ofData 0x7F800000 ∧
    (after (.fdiv 9 5 0 0 0) s).th.fstat = 2 ∧ (after (.fsqrt 9 7 0 0) s).th.reg 9 = Reg.ofData 0x7FC00000 ∧
    (after (.fsqrt 9 7 0 0) s).th.fstat = 1 ∧ (after (.fmaFp32 9 6 6 7 0) s).th.reg 9 = Reg.ofData 0x40400000 ∧
    (after (.fsetLt 9 7 5 0) s).th.reg 9 = Reg.ofData 1 := by decide +kernel

/-! ## Capabilities -/

/-- Lengths in g5 (representable alone) and g6 (to be rounded), a capability at the bound in g7. -/
def caps : State := runWith (fun t => ((t.setReg 5 (Reg.ofData 0x100)).setReg 6 (Reg.ofData 0x8001)).setReg 7 (boundedCap (hbm + 0x1000) hbm 0x1000 0xFFFF))

theorem witness_CapabilityResults_moves :
    AllReady [(.cadd 9 1 2, [1, 2], some 9), (.cadd 9 2 3, [2, 3], some 9), (.cadd 0 1 4, [1, 4], some 0), (.caddi 55 1 0x2000, [1], some 55),
      (.cclr 9 1, [1], some 9), (.cgetBase 9 1, [1], some 9), (.cgetLen 9 2, [2], some 9), (.cgetPerm 57 56, [56], some 57),
      (.cgetTag 0 0, [0], some 0)] run := all_ready (by decide +kernel)

/-- CBND and CBND.x of a length that is exact at exponent 0. -/
theorem witness_CapabilityResults_exact :
    (reg [1, 5] caps 0).tagged = true ∧ LeastExp (hbm + 0x1000) (hbm + 0x1100) 0 ∧ capBase (reg [1, 5] caps 0) ≤ hbm + 0x1000 ∧
    hbm + 0x1100 ≤ capTop (reg [1, 5] caps 0) ∧
    (reg [1, 5] caps 0).addr = hbm + 0x1000 ∧ (val [1, 5] caps 1).toNat = 0x100 ∧
    AllReady [(.cbnd 9 1 5, [1, 5], some 9), (.cbndX 9 1 5, [1, 5], some 9), (.cprm 9 1 5, [1, 5], some 9)] caps :=
  ⟨by decide +kernel, by unfold LeastExp; decide +kernel, by decide +kernel, by decide +kernel, by decide +kernel, by decide +kernel,
    all_ready (by decide +kernel)⟩

/-- A length that no exponent below 2 holds and that exponent 2 rounds up. -/
theorem witness_CapabilityResults_rounded :
    LeastExp (hbm + 0x1000) (hbm + 0x9001) 2 ∧ (reg [1, 6] caps 0).tagged = true ∧ (reg [1, 6] caps 0).addr = hbm + 0x1000 ∧
    (val [1, 6] caps 1).toNat = 0x8001 ∧ (hbm + 0x9001 + 2 ^ 2 - 1) / 2 ^ 2 * 2 ^ 2 ≠ hbm + 0x9001 ∧
    (hbm + 0x9001 + 2 ^ 2 - 1) / 2 ^ 2 * 2 ^ 2 ≤ capTop (reg [1, 6] caps 0) ∧
    AllReady [(.cbnd 9 1 6, [1, 6], some 9), (.cbndX 9 1 6, [1, 6], some 9)] caps :=
  ⟨by unfold LeastExp; decide +kernel, by decide +kernel, by decide +kernel, by decide +kernel, by decide +kernel, by decide +kernel,
    all_ready (by decide +kernel)⟩

/-- A length of 0 at the capability's top, and an untagged operand. -/
theorem witness_CapabilityResults_empty :
    ((reg [7, 0] caps 0).tagged = true ∧ (reg [7, 0] caps 0).addr = capTop (reg [7, 0] caps 0) ∧ (val [7, 0] caps 1).toNat = 0 ∧
      AllReady [(.cbnd 9 7 0, [7, 0], some 9), (.cbndX 9 7 0, [7, 0], some 9)] caps) ∧
    ((reg [2, 5] caps 0).tagged = false ∧
      AllReady [(.cbnd 9 2 5, [2, 5], some 9), (.cbndX 9 2 5, [2, 5], some 9), (.cprm 9 2 5, [2, 5], some 9)] caps) :=
  ⟨⟨by decide +kernel, by decide +kernel, by decide +kernel, all_ready (by decide +kernel)⟩, by decide +kernel, all_ready (by decide +kernel)⟩

theorem witness_NoCapabilityGrows :
    (∃ r, bounded true (mega 0x1000) 0x100 = .ok r) ∧ (∃ r, bounded false (mega 0x1000) 0x8001 = .ok r) ∧
    (∃ r, restricted (mega 0) 0x000F = .ok r) ∧ ((mega 0).moveTo (hbm + 0x0FFFFF)).tagged = true := by
  exact ⟨ok_exists (by decide +kernel), ok_exists (by decide +kernel), ok_exists (by decide +kernel), by decide +kernel⟩

/-- R349: CBND of a length that is not representable rounds its bounds out, and CBND.x traps. -/
theorem test_bounds :
    (capBase ((after (.cbnd 9 1 6) caps).th.reg 9), capTop ((after (.cbnd 9 1 6) caps).th.reg 9)) = (hbm + 0x1000, hbm + 0x9004) ∧
    (after (.cgetLen 9 1) caps).th.reg 9 = Reg.ofData 0x100000 ∧ (after (.cclr 9 1) caps).th.reg 9 = Reg.ofData 0x010000001000 := by
  decide +kernel

/-! ## Control flow, operands and traps -/

/-- A branch that is taken and one that is not for each condition, BEQZ of 0 and of 7, and jumps to data, to a capability and to
an odd address. -/
theorem witness_BranchesAndJumps :
    AllReady ([0, 1, 2, 3, 4, 5].flatMap (fun c => [(.b 2 4 c 0x400, [2, 4], none), (.b 4 2 c 1, [4, 2], none), (.b 2 2 c 2, [2, 2], none)])) run ∧
    AllReady [(.b 0 0 6 5, [0, 0], none), (.b 2 0 6 5, [2, 0], none), (.j 0x2000000, [], none), (.jal 0 1, [], some 0),
      (.jal 55 0x80000, [], some 55), (.jr 0 0 8, [0], some 0), (.jr 55 1 0x3FFF, [1], some 55), (.jr 9 2 0, [2], some 9)] run ∧
    run.th.ganged = false ∧ (reg [0] run 0).tagged = false ∧ (reg [1] run 0).tagged = true ∧ (val [2] run 0 + 0).toNat % 4 ≠ 0 ∧
    (val [1] run 0 + 4 * (0x3FFF : BitVec 14).signExtend 64).toNat % 4 = 0 ∧
    condRule 2 (val [4, 2] run 0) (val [4, 2] run 1) ∧ ¬condRule 4 (val [4, 2] run 0) (val [4, 2] run 1) := by
  refine ⟨all_ready (by decide +kernel), all_ready (by decide +kernel), by decide +kernel, by decide +kernel, by decide +kernel,
    by decide +kernel, by decide +kernel, ?_, ?_⟩
  · show (val [4, 2] run 0).toInt < (val [4, 2] run 1).toInt; decide +kernel
  · show ¬(val [4, 2] run 0).toNat < (val [4, 2] run 1).toNat; decide +kernel

/-- R344, R383, R385: a branch counts words from itself, JAL links the next word, JR adds 4 times its immediate. -/
theorem test_jumps :
    (after (.b 4 2 2 0x7FD) run).th.pc = run.th.pc - 12 ∧ (after (.b 4 2 4 0x7FD) run).th.pc = run.th.pc + 4 ∧
    (after (.jal 55 20) run).th.reg 55 = Reg.ofData 0x010000000404 ∧ (after (.jal 55 20) run).th.pc = run.th.pc + 80 ∧
    (after (.jr 0 1 2) run).th.pc = 0x010000001008 := by decide +kernel

/-- g0, g1 and g55, a stream register with two elements, an unbound one, a sender as a source, and one without elements. -/
theorem witness_OperandsAndResults :
    ((1 : RegField).toNat < 56 ∧ (55 : RegField).toNat < 56 ∧ (56 : RegField).toNat ≥ 56) ∧
    run.th.stream 0 = some ⟨.rx, 5, [21, 22]⟩ ∧ run.th.stream 1 = some ⟨.tx, 0, []⟩ ∧ run.th.stream 7 = none ∧
    (∃ r ∈ [(48 : RegField)], r.toNat < 56 ∧ r ≠ 0 ∧ 8 * (runWith (fun t => { t with gran := 6 })).th.gran ≤ r.toNat) ∧
    ((Instr.add 57 63 2).wellFormed = true ∧ (Instr.add 57 2 3).wellFormed = true ∧ (Instr.cclr 2 56).wellFormed = true) ∧
    (runWith (fun t => t.setStream 0 (some ⟨.rx, 5, []⟩))).th.stream 0 = some ⟨.rx, 5, []⟩ ∧
    (run.th.pend = 0 ∧ run.seqs = [] ∧ run.ecc = []) := by decide +kernel

/-- A usable TBASE. -/
def handled : State := runWith (fun t => { t with tbase := mega 0x8000, epc := mega 0x1000 })
def privileged (s : State) : State := s.setCtx s.th.ctx (fun c => { c with mode := 1 })

/-- A trap with a usable TBASE, one without, one that fetched at TBASE; TRAP; ERET privileged, with and without a capability in
EPC, unprivileged, and in a gang. -/
theorem witness_TrapsAndReturn :
    (handled.th.tbase.tagged = true ∧ capBase handled.th.tbase ≤ handled.th.tbase.addr ∧
      handled.th.tbase.addr + 4 ≤ capTop handled.th.tbase ∧ handled.th.tbase.has permExec = true ∧
      (BitVec.ofNat 64 hbm).toNat ≠ handled.th.tbase.addr) ∧
    run.th.tbase.tagged = false ∧ (BitVec.ofNat 64 (hbm + 0x8000)).toNat = handled.th.tbase.addr ∧
    AllReady [(.trap 0xFFF, [], none), (.eret, [], none)] handled ∧ handled.entries = [] ∧ handled.priv = false ∧
    ((privileged handled).priv = true ∧ (privileged handled).th.ganged = false ∧
      capCheck (privileged handled).th.epc (privileged handled).th.epc.addr 4 permExec = .ok () ∧
      (privileged handled).th.epc.addr % 4 = 0) ∧
    (privileged run).th.epc.tagged = false ∧ (privileged (runWith (fun t => { t with ganged := true }))).priv = true ∧
    AllReady [(.eret, [], none)] (privileged handled) ∧ AllReady [(.eret, [], none)] (privileged run) ∧
    AllReady [(.eret, [], none)] (privileged (runWith (fun t => { t with ganged := true }))) := by
  and_intros <;>
    first | decide +kernel | exact all_ready (by decide +kernel) | exact ok_unit (by decide +kernel) | exact error_of (by decide +kernel)

/-- R311, R364, R434: TRAP saves the next word and goes on at TBASE with CAUSE 0x10; ERET goes back to EPC. -/
theorem test_trap_and_return :
    (after (.trap 7) handled).th.pc = 0x010000008000 ∧ (after (.trap 7) handled).th.tval = 7 ∧ (after (.trap 7) handled).th.cause = 0x10 ∧
    (after (.trap 7) handled).th.epc.addr = hbm + 0x404 ∧ (after (.trap 7) handled).th.epc.tagged = true ∧
    (after .eret (privileged handled)).th.pc = 0x010000001000 ∧ (after .eret handled).th.tval = 0xF8002000 := by decide +kernel

/-! ## Memory -/

/-- Bytes at the capability's base, a misaligned address in g8, the bound in g9, and a capability without STORE in g10. -/
def data : State :=
  { runWith (fun t => ((((t.setReg 8 (mega 0x1001)).setReg 9 (mega 0xFFFF8)).setReg 10 (boundedCap (hbm + 0x1000) hbm 0x100000 1)).setReg 5
      (Reg.ofData 0x1122334455667788)).setReg 11 (boundedCap 0x016000000000 0x016000000000 0x1000 3)) with
    mem := ⟨[(hbm + 0x1000, 0x88), (hbm + 0x1007, 0x80), (hbm + 0x50003, 1)], [(hbm + 0x1000) / 16]⟩ }

theorem witness_LoadsRead :
    AllReady [(.ld 9 1 3 0 0 0, [1], some 9), (.ld 57 9 3 1 4 0, [9], some 57), (.ldX 9 1 0 0 0 2, [1, 2], some 9),
      (.ldC 9 1 0, [1, 0], some 9)] data ∧
    Loads (reg [1] data 0) (addrMI (val [1] data 0) 0 8) 8 false (popped [1] data) 0x8000000000000088 data ∧
    Loads (reg [9] data 0) (addrMI (val [9] data 0) 0 8) 8 true (popped [9] data) 0 data ∧
    Loads (reg [1, 2] data 0) (addrMX (val [1, 2] data 0) (val [1, 2] data 1) 1) 1 false (popped [1, 2] data) 0x80 data ∧
    (capCheck (reg [1, 0] data 0) (hbm + 0x1000) 16 permLoad = .ok () ∧ data.mem.tag (hbm + 0x1000) = true ∧
      Translates (popped [1, 0] data) (hbm + 0x1000) .load (hbm + 0x1000) data) ∧ Calm data := by
  refine ⟨all_ready ?_, ⟨rfl, ok_unit ?_, ok_unit ?_, ?_, hbm + 0x1000, off ?_, ?_, ?_, ?_⟩, ⟨rfl, ok_unit ?_, ok_unit ?_, ?_,
    hbm + 0xFFFF8, off ?_, ?_, ?_, ?_⟩, ⟨rfl, ok_unit ?_, ok_unit ?_, ?_, hbm + 0x1007, off ?_, ?_, ?_, ?_⟩,
    ⟨ok_unit ?_, ?_, off ?_⟩, rfl⟩ <;> decide +kernel

theorem witness_StoresReachMemory :
    AllReady [(.st 5 1 3 0 0 0, [1, 5], none), (.st 5 9 0 2 4 7, [9, 5], none), (.stX 5 1 2 0 0 3, [1, 3, 5], none),
      (.stC 1 1 0, [1, 0, 1], none), (.stC 5 1 0, [1, 0, 5], none)] data ∧
    Stores (reg [1, 5] data 0) (addrMI (val [1, 5] data 0) 0 8) 8 false (popped [1, 5] data) (hbm + 0x1000) data ∧
    Stores (reg [9, 5] data 0) (addrMI (val [9, 5] data 0) 7 1) 1 true (popped [9, 5] data) (hbm + 0xFFFFF) data ∧
    Stores (reg [1, 3, 5] data 0) (addrMX (val [1, 3, 5] data 0) (val [1, 3, 5] data 1) 4) 4 false (popped [1, 3, 5] data) (hbm + 0x100C)
      data ∧
    ((reg [1, 0, 1] data 2).tagged = true ∧ (reg [1, 0, 1] data 0).has permStoreCap = true ∧ (reg [1, 0, 1] data 2).has permGlobal = true ∧
      (reg [1, 0, 5] data 2).tagged = false ∧ Translates (popped [1, 0, 1] data) (hbm + 0x1000) .store (hbm + 0x1000) data) ∧
    (data.mem.wf = true ∧ inSlices (hbm + 0x1000) = false) := by
  refine ⟨all_ready ?_, ⟨ok_unit ?_, ok_unit ?_, ?_, off ?_, ?_, ?_⟩, ⟨ok_unit ?_, ok_unit ?_, ?_, off ?_, ?_, ?_⟩,
    ⟨ok_unit ?_, ok_unit ?_, ?_, off ?_, ?_, ?_⟩, ⟨?_, ?_, ?_, ?_, off ?_⟩, ?_⟩ <;> decide +kernel

/-- Untagged, one byte beyond the bound, without STORE, misaligned, and in the hole above HBM. -/
theorem witness_AccessTraps :
    AllReady [(.ld 9 2 3 0 0 0, [2], some 9), (.ld 9 9 3 0 0 1, [9], some 9), (.ld 9 8 1 0 0 0, [8], some 9), (.ld 9 11 3 0 0 0, [11], some 9),
      (.st 5 10 3 0 0 0, [10, 5], none), (.st 5 8 1 0 0 0, [8, 5], none), (.st 5 11 3 2 1 0, [11, 5], none)] data ∧
    capCheck (reg [2] data 0) (addrMI (val [2] data 0) 0 8) 8 permLoad = .error (.trap .capTag 7) ∧
    capCheck (reg [9] data 0) (addrMI (val [9] data 0) 1 8) 8 permLoad = .error (.trap .capBounds (BitVec.ofNat 64 (hbm + 0x100000))) ∧
    capCheck (reg [10, 5] data 0) (addrMI (val [10, 5] data 0) 0 8) 8 permStore = .error (.trap .capPerm (BitVec.ofNat 64 (hbm + 0x1000))) ∧
    (capCheck (reg [8] data 0) (addrMI (val [8] data 0) 0 2) 2 permLoad = .ok () ∧ addrMI (val [8] data 0) 0 2 % 2 ≠ 0 ∧
      capCheck (reg [8, 5] data 0) (addrMI (val [8, 5] data 0) 0 2) 2 permStore = .ok ()) ∧
    (capCheck (reg [11] data 0) (addrMI (val [11] data 0) 0 8) 8 permLoad = .ok () ∧
      walk data data.th.ctx 0x016000000000 .load = .fault 0x0300016000000000 ∧
      capCheck (reg [11, 5] data 0) (addrMI (val [11, 5] data 0) 0 8) 8 permStore = .ok () ∧
      walk data data.th.ctx 0x016000000000 .store = .fault 0x0300016000000000) ∧
    (∃ t, translate data data.th.quire data.th.ctx 0x016000000000 .load = (.fault 0x0300016000000000, t)) ∧
    accessWaits true true 0x016000000000 8 data = .ok () ∧ MayWalk (popped [11, 5] data) 0x016000000000 := by
  refine ⟨all_ready ?_, error_of ?_, error_of ?_, error_of ?_, ⟨ok_unit ?_, ?_, ok_unit ?_⟩, ⟨ok_unit ?_, ?_, ok_unit ?_, ?_⟩, off_fault ?_,
    ok_unit ?_, may_walk ?_⟩ <;> decide +kernel

/-- R389, R427: a load of 8 bytes and of 1, zero-extended, and a store of 2: lowest byte first, with the granule's tag cleared. -/
theorem test_load_and_store :
    (after (.ld 9 1 3 0 0 0) data).th.reg 9 = Reg.ofData 0x8000000000000088 ∧ (after (.ld 9 1 0 0 0 7) data).th.reg 9 = Reg.ofData 0x80 ∧
    ((after (.st 5 1 1 0 0 0) data).mem.read (hbm + 0x1000), (after (.st 5 1 1 0 0 0) data).mem.read (hbm + 0x1001)) = (0x88, 0x77) ∧
    (after (.st 5 1 1 0 0 0) data).mem.tag (hbm + 0x1000) = false ∧ (after (.stC 1 1 0) data).mem.tag (hbm + 0x1000) = true := by
  decide +kernel

/-- Plain, acquiring and releasing forms; CAS that finds its value and one that does not; the floating add. -/
theorem witness_AtomicsUpdate :
    AllReady ([0, 1, 2, 3, 4, 5, 6, 7, 8].map (fun p => (.amo 9 1 5 p 3 3, [1, 5], some 9))) data ∧
    AllReady [(.amo 9 1 5 9 0 2, [1, 5], some 9), (.cas 2 1 5 0 2, [1, 5, 2], some 2), (.cas 5 1 2 3 3, [1, 2, 5], some 5)] data ∧
    Atomic (reg [1, 5] data 0) 8 3 (popped [1, 5] data) (hbm + 0x1000) 0x8000000000000088 data ∧
    Atomic (reg [1, 5] data 0) 4 0 (popped [1, 5] data) (hbm + 0x1000) 0x88 data ∧
    Atomic (reg [1, 5, 2] data 0) 4 0 (popped [1, 5, 2] data) (hbm + 0x1000) 0x88 data ∧
    0x88 ≠ (val [1, 5, 2] data 2).toNat % 2 ^ 32 ∧ (0 : Nat) = (val [9, 2, 0] data 2).toNat % 2 ^ 64 ∧
    Atomic (reg [9, 2, 0] data 0) 8 3 (popped [9, 2, 0] data) (hbm + 0xFFFF8) 0 data := by
  refine ⟨all_ready ?_, all_ready ?_, ⟨rfl, ok_unit ?_, ok_unit ?_, ok_unit ?_, ?_, off ?_, ?_, ?_, ?_, ?_⟩,
    ⟨rfl, ok_unit ?_, ok_unit ?_, ok_unit ?_, ?_, off ?_, ?_, ?_, ?_, ?_⟩, ⟨rfl, ok_unit ?_, ok_unit ?_, ok_unit ?_, ?_, off ?_, ?_, ?_, ?_,
    ?_⟩, ?_, ?_, ⟨rfl, ok_unit ?_, ok_unit ?_, ok_unit ?_, ?_, off ?_, ?_, ?_, ?_, ?_⟩⟩ <;> decide +kernel

/-- R341, R346: the old value comes back, and memory holds the minimum, signed and unsigned; a CAS that fails stores nothing. -/
theorem test_atomics :
    (after (.amo 9 1 5 4 0 3) data).th.reg 9 = Reg.ofData 0x8000000000000088 ∧
    (after (.amo 9 1 5 4 0 3) data).mem.readNat (hbm + 0x1000) 8 = 0x8000000000000088 ∧
    (after (.amo 9 1 5 6 0 3) data).mem.readNat (hbm + 0x1000) 8 = 0x1122334455667788 ∧
    (after (.cas 2 1 5 0 3) data).mem = data.mem ∧ (after (.cas 2 1 5 0 3) data).th.reg 2 = Reg.ofData 0x8000000000000088 := by
  decide +kernel

/-- A FENCE with msg, and PREF of the capability's last line; IDLE in each case; SYNCI with a line of the range and one beyond. -/
theorem witness_OrderingAndIdling :
    AllReady [(.fence 0xF 0xF 4, [], none), (.pref 1 3 0x3F, [1], none), (.idle, [], none), (.synci 1, [1], none)] run ∧
    run.entries = [] ∧ run.mine = [] ∧ acquired (popped [1] run) = .ok () ∧ performedAll (popped [1] run) = .ok () ∧
    capCheck (reg [1] run 0) (addrMI (val [1] run 0) 0x3F 64) 1 permLoad = .ok () ∧ addrMI (val [1] run 0) 0x3F 64 < 2 ^ 56 ∧
    run.priv = false ∧ (privileged run).priv = true ∧ AllReady [(.idle, [], none)] (privileged run) ∧
    AllReady [(.idle, [], none)] (privileged (runWith (fun t => { t with ganged := true }))) ∧ run.th.mbox = [] ∧ run.th.preempt = none ∧
    (runWith (fun t => { t with mbox := [1] })).th.mbox ≠ [] ∧ AllReady [(.idle, [], none)] (privileged (runWith (fun t => { t with mbox := [1] }))) := by
  and_intros <;>
    first | decide +kernel | exact all_ready (by decide +kernel) | exact ok_unit (by decide +kernel) | exact error_of (by decide +kernel)

/-! ## Control registers and waits -/

/-- A register of each kind read, written and swapped; unprivileged and privileged; a plain value and a capability. -/
theorem witness_ControlRegistersAccessed :
    AllReady [(.csrr 9 0x010, [], some 9), (.csrr 9 0x051, [], some 9), (.csrr 9 0x100, [], some 9), (.csrr 57 0x04, [], some 57),
      (.csrw 1 0x033, [1], none), (.csrw 4 0x020, [4], none), (.csrw 2 0x010, [2], none), (.csrx 9 56 0x031, [56], some 9)] run ∧
    csrCheck (.csrr 9 0x010) 0x010 false run = .ok () ∧ csrCheck (.csrw 1 0x033) 0x033 true (popped [1] run) = .ok () ∧
    csrCheck (.csrx 9 56 0x031) 0x031 true (popped [56] run) = .ok () ∧ csrCheck (.csrr 9 0x10C) 0x10C false (privileged run) = .ok () ∧
    (∃ t, csrWrite 0x033 (reg [1] run 0) (popped [1] run) = some t) ∧ (∃ t, csrWrite 0x031 (reg [56] run 0) (popped [56] run) = some t) ∧
    (csrAccess run 0x051 = none ∧ csrAccess run 0x100 ≠ none ∧ run.priv = false ∧ csrAccess run 0x010 = some false ∧
      csrAccess run 0x10C ≠ none ∧ csrAccess run 0x10D = none) ∧
    csrCheck (.csrw 4 0x020) 0x020 true (popped [4] run) = .ok () ∧ csrWrite 0x020 (reg [4] run 0) (popped [4] run) = none ∧
    ((0x31F : Word) &&& ~~~0x31F = 0 ∧ (0x20 : Word) &&& ~~~0x31F ≠ 0 ∧ (127 : Word).toNat < 128) := by
  and_intros <;> first | decide +kernel | exact all_ready (by decide +kernel) | exact ok_unit (by decide +kernel) |
    exact error_of (by decide +kernel) | exact ok_exists (by decide +kernel) | exact some_exists (by decide +kernel)

/-- R54, R361: FSTAT takes its fields alone, and TBASE a capability whole. -/
theorem test_control_registers :
    (after (.csrw 2 0x020) run).th.fstat = 7 ∧ (after (.csrw 1 0x033) run).th.tbase = run.th.reg 1 ∧
    (after (.csrw 2 0x033) run).th.tbase = Reg.ofData 7 ∧ (after (.csrx 9 2 0x061) run).th.deadline = 7 ∧
    (after (.csrr 9 0x100) handled).th.cause = 0x11 := by decide +kernel

/-- Times, counts and ids at the ends of their ranges in g5 to g9; jobs of the context and of another, ended and not. -/
def waits : State :=
  { runWith (fun t => (((((t.setReg 5 (Reg.ofData 0x20000000000000)).setReg 6 (Reg.ofData 0x10000000000000)).setReg 7
        (Reg.ofData 0x10000000000001)).setReg 8 (Reg.ofData 0x100000000)).setReg 9 (Reg.ofData 0x8000000)).setStream 2 (some ⟨.cp, 0, []⟩)) with
    jobs := [aJob 7, { aJob 3 with stage := .ended, status := 4 }, { aJob 12 with ctx := 3 }]
    counters := [(39, 7)] }

theorem witness_SuspensionPoints :
    waits.entries = [] ∧
    AllReady ([.mwait, .suspMbox, .suspReply, .suspStrm 0, .suspStrm 1, .suspStrm 2, .suspStrm 7].map (fun i => (i, [], none))) waits ∧
    AllReady ([0, 2, 3, 4, 5, 6, 7, 8, 9].flatMap (fun r => [(.suspTime r, [r], none), (.suspJob r, [r], none), (.suspCnt r 7, [r], none),
      (.suspCnt r 8, [r], none)])) waits ∧
    ((runWith (fun t => { t with mbox := [1] })).th.mbox ≠ [] ∧ waits.th.mbox = []) ∧
    (waits.th.replies = 0 ∧ (runWith (fun t => { t with replies := 1 })).th.replies ≠ 0) ∧
    (2 ^ 53 ≤ (val [5] waits 0).toNat ∧ (val [6] waits 0).toNat < 2 ^ 53 ∧
      2 ^ 52 ≤ (waits.time.setWidth 53 - BitVec.ofNat 53 (val [6] waits 0).toNat).toNat ∧
      (waits.time.setWidth 53 - BitVec.ofNat 53 (val [7] waits 0).toNat).toNat < 2 ^ 52 ∧
      (waits.time.setWidth 53 - BitVec.ofNat 53 (val [0] waits 0).toNat).toNat < 2 ^ 52) ∧
    (counterOf waits waits.th.ctx 8 = none ∧ counterOf waits waits.th.ctx 7 = some 39 ∧ (val [2] waits 0).toNat ≤ (waits.counter 0 39).toNat ∧
      (waits.counter 0 39).toNat < (val [9] waits 0).toNat) ∧
    (2 ^ 32 ≤ (val [8] waits 0).toNat ∧ (val [9] waits 0).toNat = 2 ^ 27 ∧ waits.jobOf 0 = none ∧ waits.jobOf 7 = some (aJob 7) ∧
      waits.jobOf 3 = some { aJob 3 with stage := .ended, status := 4 } ∧ (val [2] waits 0).toNat = 7 ∧ (val [3] waits 0).toNat = 3) ∧
    (waits.th.stream 7 = none ∧ waits.th.stream 1 = some ⟨.tx, 0, []⟩ ∧ waits.th.stream 0 = some ⟨.rx, 5, [21, 22]⟩ ∧
      waits.th.stream 2 = some ⟨.cp, 0, []⟩) := by
  and_intros <;> first | decide +kernel | exact all_ready (by decide +kernel) | exact ok_unit (by decide +kernel) | exact error_of (by decide +kernel)

/-- A job of the context that is pending, one that has ended, one of another context (id 12 in g10), and ids of no job. -/
theorem witness_JobsAndMailSeen :
    let s := waits.up (fun t => t.setReg 10 (Reg.ofData 12))
    AllReady ([0, 2, 3, 9, 10].flatMap (fun r => [(.jpoll 57 r, [r], some 57), (.jwait r, [r], none)])) s ∧
    acquired (popped [2] s) = .ok () ∧ (popped [2] s).entries = [] ∧ (val [2] s 0).toNat = 7 ∧ (val [9] s 0).toNat = 2 ^ 27 ∧
    (popped [0] s).jobOf 0 = none ∧ (popped [2] s).jobOf 7 = some (aJob 7) ∧
    (popped [3] s).jobOf 3 = some { aJob 3 with stage := .ended, status := 4 } ∧ (popped [10] s).jobOf 12 = some { aJob 12 with ctx := 3 } ∧
    AllReady [(.mpop 57, [], some 57), (.mpop 0, [], some 0)] s ∧ s.th.mbox = [] ∧ (s.up (fun t => { t with mbox := [5, 6] })).th.mbox = [5, 6] ∧
    AllReady [(.mpop 9, [], some 9)] (s.up (fun t => { t with mbox := [5, 6] })) ∧
    (∀ j ∈ s.jobs, ∀ m ∈ j.members, m.launch = s.th.launch → m.tid = s.th.tid → m.mail = []) := by
  intro s
  refine ⟨all_ready ?_, ok_unit ?_, ?_, ?_, ?_, ?_, ?_, ?_, ?_, all_ready ?_, ?_, ?_, all_ready ?_, ?_⟩ <;> decide +kernel

/-- R184, R387, R398: PENDING, a terminal status, and the oldest mailbox entry. -/
theorem test_polls :
    (after (.jpoll 9 2) waits).th.reg 9 = Reg.ofData 0x8000 ∧ (after (.jpoll 9 3) waits).th.reg 9 = Reg.ofData 4 ∧
    (after (.mpop 9) (run.up (fun t => { t with mbox := [5, 6] }))).th.reg 9 = Reg.ofData 5 ∧
    (after (.mpop 9) (run.up (fun t => { t with mbox := [5, 6] }))).th.mbox = [6] := by decide +kernel

/-- A ring of 4 slots of 64 bytes with two filled, at cb1; advances of 0, 2 and 3, and waits of 1 and 3, in g5 to g9. -/
def ringed : State :=
  { runWith (fun t => { (((((t.setReg 5 (Reg.ofData 0x300000000)).setReg 6 (Reg.ofData 0x100000002)).setReg 7 (Reg.ofData 3)).setReg 8
        (Reg.ofData 0x300000002)).setReg 9 (Reg.ofData 0x500000000)) with cbbase := boundedCap (hbm + 0x4000) (hbm + 0x4000) 0x1000 0x003 }) with
    mem := (((run.mem.writeCap (hbm + 0x4020) (boundedCap (hbm + 0x5000) (hbm + 0x5000) 256 0x003)).writeNat (hbm + 0x4030) 8
      (64 + 4 * 2 ^ 32)).writeNat (hbm + 0x4038) 8 (3 + 1 * 2 ^ 32))
    counters := [(39, 7)] }

theorem witness_CountersAndRings_counters :
    AllReady [(.cntw 2 7 0, [2], none), (.cntw 4 7 0, [4], none), (.cnts 2 7 0, [2], none), (.cnta 56 7 0, [56], none),
      (.cntr 57 7 0, [], some 57), (.cntr 9 8 0, [], some 9), (.cntr 9 63 3, [], some 9)] ringed ∧
    acquired (popped [2] ringed) = .ok () ∧ (popped [2] ringed).entries = [] ∧
    counterOf ringed ringed.th.ctx ((0 : BitVec 2) ++ (7 : BitVec 6)).toNat = some 39 ∧
    counterOf ringed ringed.th.ctx ((0 : BitVec 2) ++ (8 : BitVec 6)).toNat = none ∧
    (val [2] ringed 0).toNat ≤ ((popped [2] ringed).counter 0 39).toNat ∧ ((popped [4] ringed).counter 0 39).toNat < (val [4] ringed 0).toNat := by
  and_intros <;> first | decide +kernel | exact all_ready (by decide +kernel) | exact ok_unit (by decide +kernel) | exact error_of (by decide +kernel)

theorem witness_CountersAndRings_rings :
    AllReady ([5, 6, 7, 8, 9].flatMap (fun r => [(.cbadvP r 1, [r], none), (.cbadvC r 1, [r], none)])) ringed ∧
    acquired (popped [5] ringed) = .ok () ∧ (popped [5] ringed).entries = [] ∧ (popped [5] ringed).mine = [] ∧
    capCheck ringed.th.cbbase (hbm + 0x4020) 32 permLoad = .ok () ∧ capCheck ringed.th.cbbase (hbm + 0x4020) 32 permStore = .ok () ∧
    (∃ x, readRing (hbm + 0x4020) (popped [5] ringed) = .ok x) ∧
    ((match readRing (hbm + 0x4020) (popped [5] ringed) with
      | .ok (r, t) => r.ok && r.slots == 4 && r.pidx == 3 && r.cidx == 1 && isOk (storeAt (hbm + 0x4038) 4 (r.pidx + 2) t)
      | _ => false) = true) := by
  and_intros <;> first | decide +kernel | exact all_ready (by decide +kernel) |
    exact ok_unit (by decide +kernel) | exact error_of (by decide +kernel) | exact ok_exists (by decide +kernel)

/-- R50, R347, R354: an advance of 2 fills the ring; one of 3 does not fit; a counter that is reached. -/
theorem test_rings_and_counters :
    (after (.cbadvP 6 1) ringed).mem.readNat (hbm + 0x4038) 4 = 5 ∧ (after (.cbadvP 6 1) ringed).th.stall = some (.cbadv true 1 1 2) ∧
    (after (.cbadvC 6 1) ringed).th.stall = some (.cbadv false 1 1 2) ∧ (after (.cbadvP 7 1) (ringed.up (fun t => { t with tbase := mega 0x8000 }))).th.cause = 0x04 ∧
    (after (.cbadvC 5 1) ringed).th.stall = some (.cbadv false 1 3 0) ∧ (after (.cnta 3 7 0) ringed).counter 0 39 = 10 := by decide +kernel

/-! ## Threads -/

/-- Selectors of TLBI in g5 to g9: a page, a low bit set, kind 3, a context, everything. -/
def selectors : State :=
  runWith (fun t => ((((t.setReg 5 (Reg.ofData (BitVec.ofNat 64 (hbm + 0x1000)))).setReg 6 (Reg.ofData 1)).setReg 7
    (Reg.ofData 0xC000000000000000)).setReg 8 (Reg.ofData 0x4200000000000000)).setReg 9 (Reg.ofData 0x8000000000000000))

/-- Context 2 with tables: HBM's first GiB in one page, and the next in one that migrates (R127, R128, R138). -/
def paged (f : Thread → Thread) : State :=
  let s := runWith f
  { (s.setCtx 2 (fun c => { c with
      enable := true
      ptroot := BitVec.ofNat 64 (hbm + 0x70000) })) with
    mem := (((s.mem.writeNat (hbm + 0x70000) 8 (hbm + 0x71001)).writeNat (hbm + 0x71010) 8 (hbm + 0x72001)).writeNat (hbm + 0x72000) 8
      (hbm + 0xF)).writeNat (hbm + 0x72008) 8 (hbm + 2 ^ 30 + 0x2F)
    tlb := [⟨some 0, 0, 2, hbm, hbm, 30, true, true⟩, ⟨none, 0, 3, hbm, hbm, 12, true, false⟩]
    cycle := 12000000 }

theorem witness_TranslationsShotDown :
    AllReady ([5, 6, 7, 8, 9].map (fun r => (.tlbi r, [r], none))) selectors ∧
    AllReady ([5, 6, 7, 8, 9].map (fun r => (.tlbi r, [r], none))) (privileged selectors) ∧
    (popped [5] selectors).entries = [] ∧ (popped [5] selectors).mine = [] ∧ selectors.th.ganged = false ∧ selectors.priv = false ∧
    (privileged selectors).priv = true ∧ (val [5] selectors 0).extractLsb' 0 12 = 0 ∧ (val [5] selectors 0).extractLsb' 62 2 = 0 ∧
    (val [6] selectors 0).extractLsb' 0 12 ≠ 0 ∧ (val [7] selectors 0).extractLsb' 62 2 = 3 ∧
    ((val [8] selectors 0).extractLsb' 62 2 = 1 ∧ (val [8] selectors 0).extractLsb' 12 44 = 0) ∧
    ((val [9] selectors 0).extractLsb' 62 2 = 2 ∧ (val [9] selectors 0).extractLsb' 12 50 = 0) ∧
    (let s := paged (fun t => { t with stall := some (.tlbi 0x4200000000000000) })
     s.th.code = .running ∧ s.th.stall = some (.tlbi 0x4200000000000000) ∧ accessPending 0x4200000000000000 s = false ∧
       (∀ e ∈ s.tlb, e.va % 2 ^ e.size = 0 ∧ 12 ≤ e.size) ∧
       accessPending 0x4200000000000000 { s with sends := [⟨0, 0, 1, 0, 2, 0, 0, ⟨true, 0, 12000001, 0, 1, hbm, [], [], []⟩⟩] } = true) ∧
    (paged id).gangOf 1 0 = none ∧ walk (paged id) 2 hbm .store ≠ .park ∧ walk (paged id) 2 (hbm + 2 ^ 30) .load = .park ∧ (paged id).others = [] ∧
    (paged (fun t => { t with stall := some (.retry (.walk 2 hbm true 0)) })).th.stall = some (.retry (.walk 2 hbm true 0)) ∧
    0 + 12000000 ≤ (paged id).cycle.toNat := by
  and_intros <;> first | decide +kernel | exact all_ready (by decide +kernel) | exact ok_unit (by decide +kernel) | exact error_of (by decide +kernel)

/-- R130, R136: a load through the tables, and a store to the page that migrates, which waits. -/
theorem test_translation :
    (after (.ld 9 1 2 0 0 0) (paged id)).th.pc = run.th.pc + 4 ∧
    (after (.st 2 5 3 0 0 0) (paged (fun t => t.setReg 5 (boundedCap (hbm + 2 ^ 30) (hbm + 2 ^ 30) 4096 3)))).th.stall =
      some (.retry (.walk 2 (hbm + 2 ^ 30) true 12000000)) := by decide +kernel

/-- A thread that may yield and exit: no phase; an open phase; a reply outstanding; and its frame can be stored. -/
theorem witness_ThreadsYieldExitAndSave_yield :
    run.entries = [] ∧ AllReady [(.yield, [], none), (.exit, [], none)] run ∧ run.th.phase = none ∧ run.th.replies = 0 ∧
    (∃ t, Saves { run.th with pc := run.th.pc + 4, code := .ready, stall := none, wait := 0, liveSet := none } run t) ∧
    (let s := runWith (fun t => { t with phase := some ⟨0, 0, 128, [], false⟩, replies := 1 })
     s.entries = [] ∧ s.th.phase ≠ none ∧ s.th.replies ≠ 0 ∧ AllReady [(.yield, [], none), (.exit, [], none)] s) := by
  and_intros <;> first | decide +kernel | exact all_ready (by decide +kernel) | exact ok_unit (by decide +kernel) |
    exact error_of (by decide +kernel) | exact ok_exists (by decide +kernel) | exact some_exists (by decide +kernel) | exact saves (by decide +kernel)

/-- CKPT 0 and the last: an LRT that is not there, one of an entry, in a phase, with and without a request to give way. -/
theorem witness_ThreadsYieldExitAndSave_checkpoint :
    let a := runWith (fun t => { t with lrtbase := mega 0x9000 })
    let p := runWith (fun t => { t with lrtbase := mega 0x9000, preempt := some 0 })
    let q := (liveRanges 0 (p.up (fun t => { t with ckptAt := p.cycle.toNat }))).2
    capCheck run.th.lrtbase ((run.th.lrtbase.addr + 64 * (0xFFFFF : BitVec 20).toNat) % 2 ^ 64) 64 permLoad = .error (.trap .capTag 0x3FFFFC0) ∧
    AllReady [(.ckpt 0xFFFFF, [], none)] run ∧ AllReady [(.ckpt 0, [], none)] a ∧ AllReady [(.ckpt 0, [], none)] p ∧
    capCheck a.th.lrtbase ((a.th.lrtbase.addr + 64 * (0 : BitVec 20).toNat) % 2 ^ 64) 64 permLoad = .ok () ∧
    a.entries = [] ∧ a.th.phase = none ∧ a.gangOf a.th.launch a.th.tid = none ∧ a.th.preempt = none ∧ p.th.preempt ≠ none ∧
    (runWith (fun t => { t with phase := some ⟨0, 0, 128, [], false⟩ })).th.phase ≠ none ∧
    (∃ t, Saves { q.th with
      pc := q.th.pc + 4, code := .ready, stall := none, liveSet := some (liveRanges 0 (p.up (fun t => { t with ckptAt := p.cycle.toNat }))).1, wait := 0 } q t) := by
  intro a p q
  refine ⟨error_of ?_, all_ready ?_, all_ready ?_, all_ready ?_, ok_unit ?_, ?_, ?_, ?_, ?_, ?_, ?_, saves ?_⟩ <;> decide +kernel

/-- R12, R450: YIELD leaves the slot, and the continuation is ready at the next word. -/
theorem test_yield :
    (after .yield run).th.code = .exited ∧ (after .yield run).conts.map (fun t => (t.pc, t.code)) = [(0x010000000404, .ready)] ∧
    (after .exit run).th.code = .exited ∧ (after .exit run).conts.length ≤ 1 := by decide +kernel

/-- The thread's launch, with space for its threads, and pool entries. -/
def launched : State :=
  { run.setCtx 2 (fun c => { c with
      poolbase := BitVec.ofNat 64 (hbm + 0x60000)
      poolcnt := 2
      used := [0] }) with
    launches := [⟨1, 2, 0, 0, 127, 0, none, false, false, 0, 1, 1, 0, 64, 1, 16, 7, hbm, 0, true, [], [(0, 0, 0), (0, 1, coreRegion)]⟩] }

/-- SPAWN and SPAWN.p at a code address, at one that is not a word's, with g1 or g5 pending, and where the launch has no
room. -/
theorem witness_SpawnCreates_refused :
    (let s := launched.up (fun t => t.setReg 5 (mega 0x1002))
     AllReady [(.spawn 9 1 2, [1, 2], some 9), (.spawnP 0 5 2 127, [5, 2], some 0)] s ∧
     acquired (popped [1, 2] s) = .ok () ∧ performedAll (popped [1, 2] s) = .ok () ∧ (popped [1, 2] s).entries = [] ∧
     capCheck (reg [1, 2] s 0) (reg [1, 2] s 0).addr 4 permExec = .ok () ∧ capCheck (reg [5, 2] s 0) (reg [5, 2] s 0).addr 4 permExec = .ok () ∧
     (reg [1, 2] s 0).addr % 4 = 0 ∧ (reg [5, 2] s 0).addr % 4 ≠ 0 ∧ (∀ l ∈ s.launches, l.num = s.th.launch → l.ctx = s.th.ctx) ∧
     ∀ n ∈ [(1 : RegField), 5], regEcc (popped [1, 2] s) n = false ∧ awaits (popped [1, 2] s) n = false) ∧
    (let s := launched.up (fun t => { t with replies := 1, pend := 0x22 })
     AllReady [(.spawn 9 2 3, [2, 3], some 9)] s ∧ regEcc (popped [2, 3] s) 1 = false ∧ regEcc (popped [2, 3] s) 5 = false ∧
     awaits (popped [2, 3] s) 1 = true ∧
     awaits (popped [2, 3] (launched.up (fun t => { t with replies := 1, pend := 0x20 }))) 5 = true) ∧
    (spawnRoom (reg [1, 2] run 1) (popped [1, 2] run)).1 = none ∧ freeEntry ((popped [1, 2] run).ctx run.th.ctx) = none ∧
    spawnFaults (reg [1, 2] run 1) (popped [1, 2] run) = false ∧ spawnPark (reg [1, 2] run 1) (popped [1, 2] run) = none := by
  refine ⟨⟨all_ready ?_, ok_unit ?_, ok_unit ?_, ?_, ok_unit ?_, ok_unit ?_, ?_, ?_, ?_, ?_⟩, ⟨all_ready ?_, ?_, ?_, ?_, ?_⟩,
    ?_⟩ <;> decide +kernel

/-- Huddles 1 (the thread's own), 2 (of another thread), 3 (broken); 4095, 4096 and 2 in g5, g6 and g8. -/
def huddled : State :=
  { runWith (fun t => (((t.setReg 5 (Reg.ofData 4095)).setReg 6 (Reg.ofData 4096)).setReg 8 (Reg.ofData 2)).setReg 9 (Reg.ofData 1)) with
    huddles := [⟨1, 1, [0], 4, [], false, 0⟩, ⟨1, 2, [5], 0, [5], false, 0⟩, ⟨1, 3, [0, 5], 0, [], true, 5⟩] }

theorem witness_HuddlesAndBarriers_members :
    AllReady ([3, 5, 6, 8, 9].flatMap (fun r => [(.join r, [r], none), (.leave r, [r], none)])) huddled ∧
    4096 ≤ (val [6] huddled 0).toNat ∧ (popped [5] huddled).huddle 1 (val [5] huddled 0).toNat = none ∧
    (popped [5] huddled).huddles.length < 4096 ∧ (popped [8] huddled).huddle 1 2 = some ⟨1, 2, [5], 0, [5], false, 0⟩ ∧
    (0 : Nat) ∉ [5] ∧ (popped [3] huddled).huddle 1 3 = some ⟨1, 3, [0, 5], 0, [], true, 5⟩ ∧
    (popped [9] huddled).huddle 1 1 = some ⟨1, 1, [0], 4, [], false, 0⟩ ∧ Single (popped [9] huddled) ⟨1, 1, [0], 4, [], false, 0⟩ ∧
    [0].filter (· != huddled.th.tid) = [] := by
  refine ⟨all_ready ?_, ?_, ?_, ?_, ?_, ?_, ?_, ?_, ?_, ?_⟩
  all_goals first | decide +kernel | (unfold Single; decide +kernel)

/-- The last arrival, one before it, a wait for a generation that has passed, and one for the present one. -/
theorem witness_HuddlesAndBarriers_barriers :
    AllReady [(.hbar 9, [9], none), (.hbarArrive 9, [9], none), (.hbarWait 9, [9], none)] huddled ∧
    (popped [9] huddled).entries = [] ∧ acquired (popped [9] huddled) = .ok () ∧ performedAll (popped [9] huddled) = .ok () ∧
    MayMeet (popped [9] huddled) ⟨1, 1, [0], 4, [], false, 0⟩ ∧ huddled.th.arrived = false ∧
    (∀ m ∈ [0], m = huddled.th.tid ∨ m ∈ ([] : List Nat)) ∧
    (let s := { huddled with huddles := [⟨1, 1, [0, 5], 4, [], false, 0⟩] }
     MayMeet (popped [9] s) ⟨1, 1, [0, 5], 4, [], false, 0⟩ ∧ ¬∀ m ∈ [0, 5], m = s.th.tid ∨ m ∈ ([] : List Nat)) ∧
    (let s := huddled.up (fun t => { t with arrived := true, huddle := 1 })
     AllReady [(.hbarWait 9, [9], none)] s ∧ s.th.huddle = 1 ∧ s.th.arrived = true ∧ s.th.tid ∉ ([] : List Nat) ∧
       s.th.ganged = false ∧ s.th.tid ∈ [0] ∧ MayMeet (popped [9] { s with huddles := [⟨1, 1, [0, 5], 4, [0], false, 0⟩] }) ⟨1, 1, [0, 5], 4, [0], false, 0⟩) := by
  refine ⟨all_ready ?_, ?_, ok_unit ?_, ok_unit ?_, ?_, ?_, ?_, ⟨?_, ?_⟩, all_ready ?_, ?_, ?_, ?_, ?_, ?_, ?_⟩
  all_goals first | decide +kernel | (unfold MayMeet; decide +kernel)

/-- R23: the last arrival releases the generation, and one before it suspends its thread. -/
theorem test_barrier :
    (after (.hbar 9) huddled).th.pc = run.th.pc + 4 ∧ ((after (.hbar 9) huddled).huddle 1 1).map (·.gen) = some 5 ∧
    (after (.hbar 9) { huddled with huddles := [⟨1, 1, [0, 5], 4, [], false, 0⟩] }).th.stall = some (.suspend 6) ∧
    ((after (.leave 9) huddled).huddle 1 1) = none := by decide +kernel

/-- A thread in the next core, which follows; what the gang controller keeps of it. -/
def follower : Thread := { runner with tid := 5, core := 1, stall := some (.suspend 7) }
def gangs : State := { run with others := [follower], gangWaits := [⟨1, 5, 0, 1, 0, 0, none⟩] }

/-- GANG 2 with its follower there; GANG 2 and GANG.f with no other; both in a gang. -/
theorem witness_GangsFormAndDisband_form :
    AllReady [(.gang 1, [], none), (.gangF, [], none)] gangs ∧ gangs.entries = [] ∧ gangs.th.ganged = false ∧
    AllReady [(.gang 7, [], none), (.gangF, [], none)] (runWith (fun t => { t with ganged := true })) ∧
    (∀ l ∈ claimAll (run.gangWaits ++ [waiting run 2]), l.n ≠ 0 → gangMembers (claimAll (run.gangWaits ++ [waiting run 2])) l = none) ∧
    (∀ l ∈ claimAll (run.gangWaits ++ [waiting run 0]), l.n ≠ 0 → gangMembers (claimAll (run.gangWaits ++ [waiting run 0])) l = none) ∧
    (claimAll (gangs.gangWaits ++ [waiting gangs 2])).filter (fun w => w.n != 0) = [waiting gangs 2] ∧
    gangs.th.code = .running ∧ gangs.th.core < 8 ∧ gangs.gangWaits.length = (1 : BitVec 3).toNat ∧
    (gangs.th.tid :: gangs.gangWaits.map (·.tid)).Nodup ∧
    gangs.gangWaits = [⟨gangs.th.launch, 5, gangs.th.quire, (gangs.th.core + 0 + 1) % 8, gangs.th.slot, 0, none⟩] ∧
    gangMembers (claimAll (gangs.gangWaits ++ [waiting gangs 2])) (waiting gangs 2) = some [5] ∧
    [gangs.th.tid, 5].Nodup ∧ gangs.th.tid ∈ [gangs.th.tid, 5] ∧ (∃ l, gangs.find 1 0 = some l) := by
  and_intros <;> first | decide +kernel | exact all_ready (by decide +kernel) | exact ok_unit (by decide +kernel) |
    exact error_of (by decide +kernel) | exact ok_exists (by decide +kernel) | exact some_exists (by decide +kernel)

/-- UNGANG outside a gang, and in one of two threads. -/
theorem witness_GangsFormAndDisband_disband :
    (AllReady [(.ungang, [], none)] run ∧ run.gangOf run.th.launch run.th.tid = none) ∧
    (let s := { runWith (fun t => { t with ganged := true, gsize := 1 }) with
        others := [{ follower with ganged := true, gsize := 1, gpos := 1, stall := none }]
        gangs := [⟨4, 1, [0, 5], none, []⟩] }
     AllReady [(.ungang, [], none)] s ∧ s.gangOf s.th.launch s.th.tid = some ⟨4, 1, [0, 5], none, []⟩ ∧
       s.gangOf s.th.launch s.th.tid ≠ none ∧ ∃ l, s.leaderOf ⟨4, 1, [0, 5], none, []⟩ = some l) := by
  and_intros <;> first | decide +kernel | exact all_ready (by decide +kernel) | exact ok_unit (by decide +kernel) |
    exact error_of (by decide +kernel) | exact ok_exists (by decide +kernel) | exact some_exists (by decide +kernel)

/-- GANG.f behind a leader that waits for one follower. -/
def led : State :=
  { run with
    others := [{ follower with core := 7, stall := some (.suspend 7) }]
    gangWaits := [⟨1, 5, 0, 7, 0, 2, none⟩] }

theorem witness_SpawnAndGangsComplete_follower :
    AllReady [(.gangF, [], none)] led ∧ led.entries = [] ∧ led.th.code = .running ∧ led.th.ganged = false ∧ led.th.core < 8 ∧
    (5 : Nat) ≠ led.th.tid ∧ (∃ l, led.find led.th.launch 5 = some l) ∧
    led.gangWaits = [⟨led.th.launch, 5, led.th.quire, (led.th.core + 7) % 8, led.th.slot, 2, none⟩] := by
  and_intros <;> first | decide +kernel | exact all_ready (by decide +kernel) | exact some_exists (by decide +kernel)

/-- R12, R26: the leader and its follower form a gang; the leader goes on, and its follower stands at the leader's word until its
own wait ends. A follower that comes last goes on at the word after its leader's. -/
theorem test_gang :
    ((after .gangF led).th.ganged = true ∧ (after .gangF led).th.gpos = 1 ∧ (after .gangF led).th.pc = run.th.pc + 4) ∧
    (after (.gang 1) gangs).th.ganged = true ∧ (after (.gang 1) gangs).th.gsize = 1 ∧ (after (.gang 1) gangs).th.pc = run.th.pc + 4 ∧
    ((after (.gang 1) gangs).others.map (fun t => (t.ganged, t.gpos, t.pc))) = [(true, 1, run.th.pc)] := by decide +kernel

/-! ## Streams and messages -/

/-- A COPY with stream delivery that the thread pushed. -/
def streaming (id : Nat) : Job := { aJob id with cmd := .copy { tile0 with w4 := 0x100 }, tile := { tile0 with w4 := 0x100 } }

/-- Destination words, channels and job ids in g5 to g9; elements held for channel 255; two jobs of the thread. -/
def bound : State :=
  { runWith (fun t => ((((t.setReg 5 (Reg.ofData 0xFF00000003)).setReg 6 (Reg.ofData 0x10000000000)).setReg 7 (Reg.ofData 255)).setReg 8
      (Reg.ofData 256)).setReg 9 (Reg.ofData 5)) with
    arrivals := [⟨0, 0, 2, 255, 31⟩, ⟨0, 0, 2, 255, 32⟩, ⟨0, 0, 3, 255, 33⟩]
    jobs := [streaming 3, { aJob 7 with members := [{ aMember with fifo := [41, 42] }] }] }

theorem witness_StreamsBoundAndFreed_bind :
    AllReady ([2, 3, 4, 5, 6, 7, 8, 9].flatMap (fun r => [0, 1, 2, 3].flatMap (fun k => [(.sbind 63 r k, [r], none), (.sbind 56 r k, [r], none)]))) bound ∧
    bound.th.stream 7 = none ∧ bound.th.stream 0 ≠ none ∧
    ((val [5] bound 0).toNat < 2 ^ 40 ∧ ((val [5] bound 0).setWidth 32).toNat < (bound.ctx bound.th.ctx).rankcnt.toNat) ∧
    (2 ^ 40 ≤ (val [6] bound 0).toNat ∧ (bound.ctx bound.th.ctx).rankcnt.toNat ≤ ((val [4] bound 0).setWidth 32).toNat) ∧
    ((val [7] bound 0).toNat < 256 ∧ channelHeld bound (val [7] bound 0).toNat = false ∧ 256 ≤ (val [8] bound 0).toNat ∧
      channelHeld bound (val [9] bound 0).toNat = true) ∧
    (streamJob bound (val [3] bound 0).toNat = true ∧ streamJob bound (val [2] bound 0).toNat = false) ∧
    (resultJob bound (val [2] bound 0).toNat = true ∧ resultJob bound (val [9] bound 0).toNat = false ∧
      (popped [2] bound).jobOf 7 = some { aJob 7 with members := [{ aMember with fifo := [41, 42] }] } ∧
      ({ aJob 7 with members := [{ aMember with fifo := [41, 42] }] } : Job).memberOf 1 0 = some 0) := by
  and_intros <;> first | decide +kernel | exact all_ready (by decide +kernel) | exact ok_unit (by decide +kernel) | exact error_of (by decide +kernel)

/-- Bindings of the four kinds: q0 .rx, q1 .tx, q2 .cp to a copy that runs, q3 .eng, and q7 none. -/
def bindings : State :=
  { runWith (fun t => (t.setStream 2 (some ⟨.cp, 3, [1]⟩)).setStream 3 (some ⟨.eng, 7, [41]⟩)) with
    jobs := [{ streaming 3 with stage := .running, stream := [[2]] }, { aJob 7 with members := [{ aMember with fifo := [42] }] }] }

theorem witness_StreamsBoundAndFreed_free :
    AllReady [(.sfree 56, [], none), (.sfree 57, [], none), (.sfree 58, [], none), (.sfree 59, [], none), (.sfree 63, [], none)] bindings ∧
    bindings.th.code = .running ∧ bindings.th.stream 7 = none ∧ bindings.th.stream 0 = some ⟨.rx, 5, [21, 22]⟩ ∧
    bindings.th.stream 1 = some ⟨.tx, 0, []⟩ ∧ bindings.th.stream 2 = some ⟨.cp, 3, [1]⟩ ∧ bindings.th.stream 3 = some ⟨.eng, 7, [41]⟩ ∧
    (∃ j ∈ bindings.jobs, j.id = 3 ∧ j.streams = true ∧ j.stage = .running ∧ j.memberOf 1 0 = some 0 ∧ j.stream.getD 0 [] ≠ []) := by
  and_intros <;> first | decide +kernel | exact all_ready (by decide +kernel) | exact ok_unit (by decide +kernel) | exact error_of (by decide +kernel)

/-- R45, R185, R422: a binding takes what is held for it; SFREE of a copy's register aborts it, and one of results drops them. -/
theorem test_bindings :
    (after (.sbind 63 7 1) bound).th.stream 7 = some ⟨.rx, 255, [31, 32]⟩ ∧ (after (.sbind 63 7 1) bound).arrivals = [⟨0, 0, 3, 255, 33⟩] ∧
    (after (.sbind 63 2 3) bound).th.stream 7 = some ⟨.eng, 7, [41, 42]⟩ ∧
    ((after (.sfree 58) bindings).jobs.map (·.status)) = [3, 0] ∧ (after (.sfree 59) bindings).th.stream 3 = none := by decide +kernel

/-- A rank and one beyond RANKCNT and above 32 bits; an injection queue that is full; a pair that is bound, one that is not, and a
receive queue that is full. -/
theorem witness_MessagesSentAndReceived :
    AllReady [(.send 0 2 255, [0, 2], none), (.send 4 56 0, [4, 56], none), (.send 5 2 0, [5, 2], none)] bound ∧
    (bound.ctx bound.th.ctx).rankcnt.toNat ≤ (val [4, 56] bound 0).toNat ∧ 2 ^ 32 ≤ (val [5, 2] bound 0).toNat ∧
    sendFault bound bound.th.ctx (val [0, 2] bound 0) false = none ∧
    (bound.inject.filter (fun p => p.quire == 0 && p.core == 0)).length < 32 ∧
    32 ≤ ((List.replicate 32 (⟨0, 0, 2, 0, 1, 5⟩ : Packet)).filter (fun p => p.quire == 0 && p.core == 0)).length ∧
    (boundTo run 2 6 0 0).isNone ∧ (run.arrivals.filter (fun e => e.quire == 0 && e.core == 0)).length < 256 ∧
    256 ≤ ((List.replicate 256 (⟨0, 0, 2, 6, 1⟩ : Arrival)).filter (fun e => e.quire == 0 && e.core == 0)).length ∧
    (run.th.code = .running ∧ run.isSaved 1 0 = false ∧ run.th.stream 0 = some ⟨.rx, 5, [21, 22]⟩) ∧
    (runWith (fun t => t.setStream 0 (some ⟨.rx, 5, List.replicate 16 1⟩))).th.stream 0 = some ⟨.rx, 5, List.replicate 16 1⟩ := by
  and_intros <;> first | decide +kernel | exact all_ready (by decide +kernel) | exact ok_unit (by decide +kernel) | exact error_of (by decide +kernel)

/-- R247, R249: a message to rank 0, and one that arrives for q0. -/
theorem test_messages :
    (after (.send 0 2 9) run).inject = [⟨0, 0, 2, 0, 9, 7⟩] ∧
    (after (.messageArrival 2 5 0 0 23) run).th.stream 0 = some ⟨.rx, 5, [21, 22, 23]⟩ ∧
    (after (.messageArrival 2 6 0 0 23) run).arrivals = [⟨0, 0, 2, 6, 23⟩] := by decide +kernel

/-! ## Remote operations -/

/-- A capability to the whole address space in g5, with an address of package 9, and one without REMOTE in g6. -/
def remote : State :=
  runWith (fun t => (t.setReg 5 (boundedCap (2 ^ 63 + 9 * 2 ^ 48 + hbm) 0 (2 ^ 64) 0xFFFF)).setReg 6
    (boundedCap (2 ^ 63 + 9 * 2 ^ 48 + hbm) 0 (2 ^ 64) 0x3))

theorem witness_RemoteOperationsAnswered_issue :
    AllReady [(.rld 9 1 3 0 0 0, [1], some 9), (.rld 0 5 0 1 4 31, [5], some 0), (.rld 9 2 3 0 0 0, [2], some 9), (.rld 9 6 3 0 0 0, [6], some 9),
      (.rld 9 1 3 0 0 1, [1], some 9), (.rst 2 1 3 2 0 0, [1, 2], none), (.rst 2 5 2 0 0 0, [5, 2], none), (.ramo 9 1 2 8 3 3, [1, 2], some 9),
      (.ramo 0 5 2 0 0 2, [5, 2], some 0)] remote ∧
    Asks [permLoad] (reg [1] remote 0) (addrMI (val [1] remote 0) 0 8) 8 false false (popped [1] remote) ∧
    Asks [permLoad] (reg [5] remote 0) (addrMI (val [5] remote 0) 31 1) 1 true false (popped [5] remote) ∧
    Asks [permStore] (reg [1, 2] remote 0) (addrMI (val [1, 2] remote 0) 0 8) 8 true true (popped [1, 2] remote) ∧
    Asks [permLoad, permStore] (reg [1, 2] remote 0) (reg [1, 2] remote 0).addr 8 true true (popped [1, 2] remote) ∧
    capCheck (reg [2] remote 0) (addrMI (val [2] remote 0) 0 8) 8 permLoad = .error (.trap .capTag 7) ∧
    (capCheck (reg [6] remote 0) (addrMI (val [6] remote 0) 0 8) 8 permLoad = .ok () ∧ addrMI (val [6] remote 0) 0 8 / 2 ^ 60 = 8 ∧
      (reg [6] remote 0).has permRemote = false) ∧
    (let s := remote.up (fun t => (t.setReg 5 (boundedCap (2 ^ 60) 0 (2 ^ 64) 0xFFFF)).setReg 1 (mega 0x1001))
     AllReady [(.rld 9 1 1 0 0 0, [1], some 9), (.rld 9 5 3 0 0 0, [5], some 9)] s ∧ addrMI (val [1] s 0) 0 2 % 2 ≠ 0 ∧
       addrMI (val [1] s 0) 0 2 < 2 ^ 56 ∧ capCheck (reg [1] s 0) (addrMI (val [1] s 0) 0 2) 2 permLoad = .ok () ∧
       capCheck (reg [5] s 0) (addrMI (val [5] s 0) 0 8) 8 permLoad = .ok () ∧ 2 ^ 56 ≤ addrMI (val [5] s 0) 0 8 ∧
       addrMI (val [5] s 0) 0 8 / 2 ^ 60 ≠ 8) ∧
    AllReady [(.rld 9 1 3 0 0 0, [1], some 9)] (runWith (fun t => { t with replies := 255 })) := by
  refine ⟨all_ready ?_, asks ?_, asks ?_, asks ?_, asks ?_, error_of ?_, ⟨ok_unit ?_, ?_, ?_⟩,
    ⟨all_ready ?_, ?_, ?_, ok_unit ?_, ok_unit ?_, ?_, ?_⟩, all_ready ?_⟩ <;> decide +kernel

/-- A request of the thread, sent to this package. -/
def ask (k : ReqKind) : Request :=
  ⟨0, k, false, false, 0, 0, 0, 0, 1, 0, 9, 0, 2, hbm + 0x1000, 0, false, 8, 5, false, false, 0, 0, none, none, false, .sent⟩
def asked (r : Request) : State := { runWith (fun t => { t with replies := 1, pend := 0x200 }) with requests := [r], cycle := 12000000 }

/-- A translation of a request that answers. -/
theorem answers {s : State} {q : Nat} {c : Ctx} {va : Nat} {acc : Access} {w : Walk} (h : (translate s q c va acc).1 = w) :
    ∃ t, translate s q c va acc = (w, t) := ⟨_, Prod.ext h rfl⟩

/-- A load, a store, a RAMO, a store in the hole above HBM, a load from a page that migrates, and a load of a package that is
lost. -/
theorem witness_RemoteRequestsServed :
    (∀ r ∈ [ask .rld, ask .rst, ask (.ramo 8), { ask .rst with addr := 0x016000000000 }, { ask .rld with pkg := 9 }],
      (asked r).request r.num = some r ∧ r.stage = .sent ∧ mayPerform (asked r) r = true) ∧
    (ask .rld).pkg = run.pkgid ∧ (9 : BitVec 12) ≠ run.pkgid ∧ missWaits run 0 2 (hbm + 0x1000) false none = false ∧
    (∃ t, translate run 0 2 (hbm + 0x1000) .load = (.ok (hbm + 0x1000) (hbm + 0x1000) 12 true true, t)) ∧
    (∃ t, translate run 0 2 (hbm + 0x1000) .store = (.ok (hbm + 0x1000) (hbm + 0x1000) 12 true true, t)) ∧
    (∃ t, translate run 0 2 0x016000000000 .store = (.fault 0x0300016000000000, t)) ∧
    (∃ t, translate (paged id) 0 2 (hbm + 2 ^ 30) .load = (.park, t)) ∧ missWaits (paged id) 0 2 (hbm + 2 ^ 30) false none = false ∧
    missWaits { paged id with requests := [ask .rld, { ask .rld with num := 1, missAt := some 3 }] } 0 2 (hbm + 2 ^ 30) false none = true ∧
    (ask .rld).expired = false ∧ Calm run ∧
    (9 : BitVec 12) ∈ ({ run with unreachable := [9] } : State).unreachable ∧ inMmio (hbm + 0x1000) = false ∧ inHost (hbm + 0x1000) = false ∧
    eccAt run (hbm + 0x1000) 8 = false ∧ eccPartial run (hbm + 0x1000) 8 = false ∧
    ({ ask .rld with outside := true, ctx := 3 } : Request).outside = true ∧ ctxExists (privileged run) 2 = true := by
  unfold Calm
  refine ⟨?_, ?_, ?_, ?_, answers ?_, answers ?_, answers ?_, answers ?_, ?_⟩ <;> decide +kernel

/-- Replies of each kind, a fault reply, and no reply for 10 ms. -/
theorem witness_RemoteOperationsAnswered_replies :
    (∀ r ∈ [{ ask .rld with stage := .served 8 }, { ask (.ramo 8) with stage := .served 8 }, { ask .rst with stage := .served 0 },
      { ask .rld with stage := .failed 10 }, { ask .rld with pkg := 9 }], Awaited (asked r) r ∧ r.expired = false) ∧
    (0 : Nat) + 12000000 ≤ (asked (ask .rld)).cycle.toNat := by
  unfold Awaited; decide +kernel

/-- R252 to R254: an RLD marks its register and counts; its reply writes it. -/
theorem test_remote :
    (after (.rld 9 1 3 0 0 0) run).th.pend = 0x200 ∧ (after (.rld 9 1 3 0 0 0) run).th.replies = 1 ∧
    (after (.rldReply 0 0) (asked { ask .rld with stage := .served 8 })).th.reg 9 = Reg.ofData 8 ∧
    (after (.remoteTimeout 0) (asked { ask .rld with pkg := 9 })).th.rfq = [0xA009010000001000] := by decide +kernel

/-! ## The fabric, barrier domains and scheduled transfers -/

/-- A link that is up and one that retrains after its sixteenth replay (the CRC of a flit is the model's own constant, log 4);
a request in flight; ranks and time. -/
theorem witness_FabricEvents :
    (run.links[7].failed = false ∧ run.links[7].retraining = false) ∧
    (run.links.set 7 { run.links[7] with replays := 16, retraining := true })[7].retraining = true ∧
    run.links[7].replays < 16 ∧ (run.links.set 7 { run.links[7] with replays := 16 })[7].replays = 16 ∧
    (∀ k (hk : k < 8), run.links[k].carries 9 = false) ∧ routePort run 9 = some 1 ∧ routePort run 9 ≠ some 2 ∧
    (run.links.set 7 { run.links[7] with buffer := [⟨0, 0, [⟨7, 9, 0, 2, 0, 0, 0, 1, 0, 8, 0, 0, []⟩]⟩] })[7].carries 9 = true ∧
    (let s := asked { ask .rld with pkg := 9, wired := true }
     ∃ r ∈ s.requests, r.outside = false ∧ r.pkg = 9 ∧ r.wired = true ∧ r.performed = false ∧
       ∀ k (hk : k < 8), requestWire r s ∉ s.links[k].out) ∧
    run.referee.role ≠ .primary ∧ (∀ r ∈ run.requests, r.outside = false → r.pkg = 9 → r.stage ≠ .sent) ∧
    (∃ r ∈ (asked { ask .rld with pkg := 9 }).requests, r.outside = false ∧ r.pkg = 9 ∧ r.stage = .sent) ∧
    ((0xFFFFFF : Word).extractLsb' 24 40 = 0 ∧ (0x1000000 : Word).extractLsb' 24 40 ≠ 0) ∧ run.time.toNat < 2 ^ 63 ∧ run.timeFrac < 6 := by
  decide +kernel

/-- Domain 63 of core 0 of quire 0 and domain 1 of cores 0 and 1. -/
def domains (f : Thread → Thread) : State :=
  { runWith f with
    domains := (run.domains.set 63 ⟨true, 2, false, 128, 1⟩).set 1 ⟨true, 2, false, 65535, 3⟩
    boot := { run.boot with features := [1, 2, 3, 4, 5, 6, 7, 8] }
    cycle := 1200000 }

/-- WHISTLE of a domain that is the thread's, of one that is not, and of no domain; a phase that is open. -/
theorem witness_BarrierDomains_arrive :
    let s := domains (fun t => (t.setReg 5 (Reg.ofData 63)).setReg 6 (Reg.ofData 64))
    s.feature 4 = true ∧ AllReady [(.whistle 2, [2], none), (.whistle 5, [5], none), (.whistle 6, [6], none)] s ∧
    acquired (popped [5] s) = .ok () ∧ (popped [5] s).entries = [] ∧ performedAll (popped [5] s) = .ok () ∧ s.th.phase = none ∧
    (val [5] s 0).toNat = 63 ∧ MayArrive (popped [5] s) 63 (by decide) ∧ (val [6] s 0).toNat = 64 ∧ ¬MayArrive (popped [2] s) 7 (by decide) ∧
    (s.up (fun t => { t with phase := some ⟨1, 0, 128, [], false⟩ })).th.phase ≠ none := by
  intro s
  refine ⟨?_, all_ready ?_, ok_unit ?_, ?_, ok_unit ?_, ?_, ?_, ⟨?_, ?_, ?_, ?_, ?_, ?_⟩, ?_, ?_, ?_⟩
  all_goals first
    | decide +kernel
    | (intro u hu; rw [show (popped [5] s).others = [] from rfl] at hu; cases hu)
    | (rintro ⟨h, -⟩; revert h; decide +kernel)

/-- A domain that releases and one that does not; a phase in its last cycle, one cycle before it, and 1 ms after an arrival. -/
theorem witness_BarrierDomains_phases :
    let s := domains (fun t => { t with stall := some (.whistle 63 1) })
    let o := domains (fun t => { t with stall := some (.whistle 63 0) })
    let u := domains (fun t => { t with stall := some (.whistle 1 1) })
    let p := domains (fun t => { t with phase := some ⟨63, 1200000 - 128, 128, [], true⟩ })
    s.th.code = .running ∧ s.th.stall = some (.whistle 63 1) ∧ MayRelease s 63 (by decide) ∧ ¬MayRelease u 1 (by decide) ∧
    u.th.stall = some (.whistle 1 1) ∧ o.th.stall = some (.whistle 63 0) ∧ 0 + 1200000 ≤ o.cycle.toNat ∧ p.th.strays = [] ∧ p.th.phase = some ⟨63, 1200000 - 128, 128, [], true⟩ ∧ p.th.stall = none ∧
    1200000 - 128 + 128 ≤ p.cycle.toNat ∧ u.cycle.toNat < 1200000 - 127 + 128 := by
  intro s o u p
  refine ⟨by decide +kernel, by decide +kernel, ⟨by decide +kernel, ?_, by decide +kernel⟩, ?_, by decide +kernel, by decide +kernel,
    by decide +kernel, by decide +kernel, by decide +kernel, by decide +kernel, by decide +kernel, by decide +kernel⟩
  · intro c _ hc
    have h0 : c = 0 := by
      have : s.domains[63].mask = 1 := rfl
      rw [this, Nat.testBit_one_eq_true_iff_self_eq_zero] at hc
      exact hc
    subst h0
    refine ⟨⟨s.th, by decide +kernel, by decide +kernel, 1, by decide +kernel, by decide +kernel⟩, fun p hp => ?_⟩
    rw [show s.openPhases = [] from rfl] at hp
    cases hp
  · intro h
    obtain ⟨⟨t, ht, hc, _⟩, _⟩ := h.2.1 1 (by decide) (by decide +kernel)
    have hs : u.slots = [u.th] := rfl
    rw [hs, List.mem_singleton] at ht
    subst ht
    exact absurd hc (by decide +kernel)

/-- A timetable of a send window and a receive window of core 0 itself, in a phase that opened now. -/
def scheduled : State :=
  let s := domains (fun t => { t.setReg 2 (boundedCap 0x100 0 0x1000 3) with
    ttbase := mega 0x6000, phase := some ⟨63, 1200000, 128, [], false⟩ })
  { s with mem := ((run.mem.writeNat (hbm + 0x6000) 8 (5 + 2 * 2 ^ 20)).writeNat (hbm + 0x6008) 8 0x100).writeNat (hbm + 0x6010) 8 (0 + 91 * 2 ^ 20) }

theorem witness_ScheduledTransfers_post :
    scheduled.feature 4 = true ∧ acquired (popped [0, 2] scheduled) = .ok () ∧
    AllReady [(.ssend 0, [0, 2], none), (.srecv 0, [0, 2], none)] scheduled ∧
    AllReady [(.ssend 0, [0, 2], none), (.srecv 0, [0, 2], none)] (domains id) ∧ (domains id).th.phase = none ∧
    (∃ x, scheduledChecks true 0 (popped [0, 2] scheduled) = .ok x) ∧ (∃ x, scheduledChecks false 0 (popped [0, 2] scheduled) = .ok x) ∧
    (popped [0, 2] scheduled).th.phase = some ⟨63, 1200000, 128, [], false⟩ ∧
    ((match scheduledChecks true 0 (popped [0, 2] scheduled) with
      | .ok (w, _) => w == ⟨true, 0, 5, 0, 2, 0x100, [0x100, 0x108], [], []⟩ && decide (scheduled.cycle.toNat < 1200000 + w.offset)
      | _ => false) = true) ∧
    ((match scheduledChecks true 0 ({ scheduled with cycle := 1200005 }) with
      | .ok (w, _) => decide (1200000 + w.offset ≤ 1200005) | _ => false) = true) := by
  and_intros <;> first | decide +kernel | exact all_ready (by decide +kernel) |
    exact ok_unit (by decide +kernel) | exact error_of (by decide +kernel) | exact ok_exists (by decide +kernel)

/-- A posted send in its second cycle; a receive window in its first, with and without an earlier send of the same bytes to
read; an element that no window is for, and one of another domain. -/
theorem witness_ScheduledTransfers_elements :
    let y : Sending := ⟨0, 0, 1, 0, 2, 63, 1200000 - 6, ⟨true, 0, 5, 0, 2, 0x100, [0x100, 0x108], [], []⟩⟩
    let q : Phase := ⟨63, 1200000 - 37, 128, [⟨false, 1, 5, 0, 2, 0x200, [0x200, 0x208], [], []⟩], false⟩
    let s := { domains id with sends := [y] }
    let r := { domains (fun t => { t with phase := some q }) with
      lanes := [⟨63, 1200000, 0, 0, 77⟩, ⟨63, 1200000, 0, 1, 78⟩, ⟨1, 1200000, 0, 2, 79⟩] }
    s.racing = .off ∧ y ∈ s.sends ∧ InPhase r q ∧ r.th.quire = 0 ∧ r.th.core = 0 ∧
    (s.cycle.toNat = y.start + y.window.offset + 1 ∧ 1 < y.window.len ∧ (1 : Nat) ∉ y.window.got ∧ portCore 0 0 0 = some 0 ∧
      y.window.pas[1]? = some 0x108 ∧ eccAt s 0x108 8 = false) ∧
    (∀ e ∈ r.lanes, e.due = r.cycle.toNat → e.core = 8 * 0 + 0 → e.port = 2 → e.payload = 79 → e.domain ≠ q.domain) ∧
    sendPending r 1 0 0x200 8 = false ∧
    sendPending { r with sends := [{ y with start := 1200000, window := { y.window with va := 0x1F8 } }] } 1 0 0x200 8 = true ∧
    (⟨63, r.cycle.toNat, 8 * 0 + 0, 0, 77⟩ : LaneElem) ∈ r.lanes ∧
    (∀ e ∈ r.lanes, e.due = r.cycle.toNat → e.core = 8 * 0 + 0 → e.port = 0 → e.payload = 77 → e.domain = q.domain) ∧
    q.windows.find? (fun v => !v.send && v.port == 0 && decide (q.start + v.offset + 32 ≤ r.cycle.toNat) &&
      decide (r.cycle.toNat < q.start + v.offset + 32 + v.len)) = some ⟨false, 1, 5, 0, 2, 0x200, [0x200, 0x208], [], []⟩ ∧
    r.cycle.toNat = q.start + 5 + 32 + 0 ∧ (⟨63, r.cycle.toNat, 8 * 0 + 0, 1, 78⟩ : LaneElem) ∈ r.lanes ∧
    (∀ v ∈ q.windows, v.send = false → v.port = 1 → ¬(q.start + v.offset + 32 ≤ r.cycle.toNat ∧ r.cycle.toNat < q.start + v.offset + 32 + v.len)) := by
  intro y q s r
  and_intros <;> decide +kernel

/-- R286, R291: arrival and release; SSEND waits for cycle OFFSET with its window posted. -/
theorem test_phases :
    (after (.domainRelease 63) (domains (fun t => { t with stall := some (.whistle 63 1) }))).th.phase = some ⟨63, 1200000, 128, [], false⟩ ∧
    (after (.ssend 0) scheduled).th.stall = some (.ssend 0) ∧
    ((after (.ssend 0) scheduled).th.phase.map (fun p => p.windows.map (·.pas))) = some [[0x100, 0x108]] ∧
    (after (.phaseClose 63) (domains (fun t => { t with phase := some ⟨63, 1200000 - 128, 128, [], true⟩ }))).th.pendTraps =
      [⟨.outOfSlot, false, slotWord 6 63 0, none, false⟩] := by decide +kernel

/-! ## The vector unit -/

/-- What a vector word needs, computed. -/
def vecIsReady (s : State) (i : Instr) : Bool :=
  isOk (vecLegal i s.th) && operandHalt i (scalarOf i).toList none s == none &&
    (vecGdest i).all (fun r => !beyond s.th r && !awaitsReply s r) && isOk (vecEcc (vecReads i) s) && isOk (seqRoom 1 s)

theorem vec_ready {i : Instr} {s : State} (h : vecIsReady s i = true) : VecReady i s := by
  simp only [vecIsReady, Bool.and_eq_true, beq_iff_eq, Option.all_eq_true, Bool.not_eq_true'] at h
  obtain ⟨⟨⟨⟨a, b⟩, g⟩, c⟩, d⟩ := h
  exact ⟨ok_unit a, b, g, ok_unit c, ok_unit d⟩

theorem all_vec_ready {l : List Instr} {s : State} (h : l.all (vecIsReady s) = true) :
    ∀ i ∈ l, VecReady i s := fun _ hi => vec_ready (List.all_eq_true.mp h _ hi)

/-- Lanes of v1 and v2; a mask with bits 0 and 2; VL 4. -/
def lanes : State :=
  runWith (fun t => { t with
    v := (t.v.set 1 (BitVec.ofNat 1024 (0x40000000 + 0x3F800000 * 2 ^ 32 + 0xFFFFFFFF * 2 ^ 64 + 5 * 2 ^ 96))).set 2
      (BitVec.ofNat 1024 (0x3F800000 + 0x3F800000 * 2 ^ 32 + 0x00000001 * 2 ^ 64 + 7 * 2 ^ 96))
    m := 5 })

/-- An entry of the thread, unbound and in lane group 3; one that moves to g9; a replay with one pass left and with two; one
whose effect comes with its completion. -/
def entry (lane : Option Nat) (g : Option (RegField × Word)) (p : Option Replay) : SeqEntry :=
  ⟨0, 0, 1, 0, [1, 2], [3], g, [], lane, 1, none, p⟩
def replayOf (left : Nat) : Replay := ⟨hbm + 0x404, 1, left, 0, 0, [.vadd 3 1 2 2 0 0 0 0 0], [0], 4, 0⟩
def working (ws : List (Instr × Word)) (els : List (Nat × Nat)) : SeqEntry :=
  { entry (some 3) none none with work := some ⟨ws, 4, 0, els⟩ }

/-- The thread with a replay in the sequencer. -/
def replaying (s : State) : State := { s with seqs := [entry none none (some (replayOf 2))] }

/-- Vector operands and a scalar from a general and a stream register; integer, FP32, BF16 and unsigned; masked and not. -/
theorem witness_VectorElementResults :
    (∀ i ∈ [Instr.vadd 3 1 2 2 0 0 0 0 0, .vadd 0 1 2 2 1 1 0 0 1, .vsub 3 1 8 0 0 1 0 3 0, .vsub 3 1 2 1 1 0 0 0 2, .vmul 3 1 2 1 0 0 0 0 0,
      .vmul 3 1 2 2 0 0 0 0 1, .vfma 3 1 2 2 0 0 0 0 1, .vfma 3 1 2 1 1 0 0 0 1, .vmin 3 1 2 2 0 0 0 0 3, .vmin 3 1 2 2 0 0 0 0 1,
      .vmax 3 1 2 0 0 0 0 0 0, .vmax 15 15 15 1 0 0 0 0 2, .vand 3 1 2 2 0 0 0 0 0, .vor 3 1 2 2 0 0 0 0 0, .vxor 3 1 2 2 0 0 0 0 0,
      .vshl 3 1 2 2 0 0 0 0 0, .vshr 3 1 2 2 0 0 0 0 0, .vshr 3 1 2 2 0 0 0 0 3, .vsel 3 1 2 2 0 0 0 0 0], VecReady i lanes) ∧
    (∀ i ∈ [Instr.vexp 3 1 2 0 0 1, .vexp 3 1 1 1 0 2, .vrcp 3 1 2 0 0 1, .vrsq 3 1 1 0 0 1, .vperm 3 1 2 2 0 0 0 0, .vbcast 3 1 0 2 0 0 0 0 0,
      .vbcast 3 0 2 1 1 1 0 0 0, .vidx 3 0 0 0, .vcvt 3 1 3 0 0 4, .vcvt 3 1 12 1 0 2], VecReady i lanes) ∧
    behind lanes = false ∧ VecReady (.vadd 3 1 2 2 0 0 0 0 0) (replaying lanes) ∧ behind (replaying lanes) = true :=
  ⟨all_vec_ready (by decide +kernel), all_vec_ready (by decide +kernel), by decide +kernel, vec_ready (by decide +kernel), by decide +kernel⟩

/-- R436: FP32 sums in the active lanes alone, an integer sum that wraps, and the scalar of a general register. -/
theorem test_vector_words :
    (after (.vadd 3 1 2 2 0 0 0 0 1) lanes).th.lane 32 3 0 = 0x40400000 ∧ (after (.vadd 3 1 2 2 1 0 0 0 1) lanes).th.lane 32 3 1 = 0 ∧
    (after (.vadd 3 1 2 2 0 0 0 0 0) lanes).th.lane 32 3 2 = 0 ∧ (after (.vmin 3 1 2 2 0 0 0 0 0) lanes).th.lane 32 3 2 = 0xFFFFFFFF ∧
    (after (.vmin 3 1 2 2 0 0 0 0 3) lanes).th.lane 32 3 2 = 1 ∧ (after (.vadd 3 1 2 2 0 1 0 0 0) lanes).th.lane 32 3 3 = 12 ∧
    (after (.vadd 3 1 2 2 0 0 0 0 0) lanes).th.lane 32 3 4 = 0 := by decide +kernel

/-- The eight words of the fused softmax at PC. -/
def soft : State :=
  { lanes with mem := ((softmaxWords 1 4 5 6 2 0 1).foldl (fun (m, a) i => (m.writeNat a 4 (encode i), a + 4)) (run.mem, hbm + 0x400)).1 }

/-- Every condition, and the three reductions, in an integer, an unsigned and a floating class; VRED_MAX alone and at the start of
the fused sequence. -/
theorem witness_VectorMasksAndSums :
    (∀ i ∈ [Instr.vset 0 1 2 2 0 0 0 0 0, .vset 1 1 2 2 1 0 0 0 3, .vset 2 1 2 2 0 0 0 0 1, .vset 3 1 2 1 0 0 0 0 2, .vredAdd 3 1 2 0 0 1,
      .vredAdd 3 1 2 1 0 0, .vredMin 3 1 2 0 0 0, .vredMin 3 1 1 0 0 2, .vredMin 3 1 2 0 0 3, .vredMax 3 1 2 0 0 0, .vredMax 3 1 2 0 0 1],
      VecReady i lanes) ∧
    (∀ i ∈ [Instr.vset 0 1 2 2 0 0 0 0 0, .vredAdd 3 1 2 0 0 1, .vredMin 3 1 2 0 0 0, .vredMax 3 1 2 0 0 0], VecReady i (replaying lanes)) ∧
    behind soft = false ∧ behind (replaying soft) = true ∧
    ((match softmaxAt lanes.th.pc.toNat (.vredMax 3 1 2 0 0 1) lanes with
      | .ok (none, r) => !behind r && vecIsReady r (.vredMax 3 1 2 0 0 1)
      | _ => false) = true) ∧
    ((match softmaxAt soft.th.pc.toNat (.vredMax 5 1 2 0 0 1) (replaying soft) with
      | .ok (some _, r) => behind r && isOk (seqRoom 1 r)
      | _ => false) = true) ∧
    ((match softmaxAt soft.th.pc.toNat (.vredMax 5 1 2 0 0 1) soft with
      | .ok (some ws, r) => ws == softmaxWords 1 4 5 6 2 0 1 && ws.all (fun i => (vecNames i).all (fun n => decide (n < soft.th.vregs))) &&
          isOk (vecEcc (ws.flatMap vecReads) r) && isOk (seqRoom 1 r)
      | _ => false) = true) :=
  ⟨all_vec_ready (by decide +kernel), all_vec_ready (by decide +kernel), by decide +kernel, by decide +kernel, by decide +kernel,
    by decide +kernel, by decide +kernel⟩

/-- R124, R169: a sum of 2, 1, NaN-free lanes, a signed and an unsigned maximum; the fused sequence moves past eight words. -/
theorem test_reductions :
    (after (.vredAdd 3 2 2 1 0 0) lanes).th.lane 32 3 0 = 0x3F800001 ∧ (after (.vredMax 3 1 2 0 0 0) lanes).th.lane 32 3 0 = 0x40000000 ∧
    (after (.vredMax 3 1 2 0 0 3) lanes).th.lane 32 3 0 = 0xFFFFFFFF ∧ (after (.vset 2 1 2 2 0 0 0 0 0) lanes).th.m.getLsbD 2 = true ∧
    (after (.vredMax 5 1 2 0 0 1) soft).th.pc = run.th.pc + 32 := by decide +kernel

/-- R440's own example: four FP32 values to HF8A, with OF and NX. -/
theorem test_vcvt :
    let s := runWith (fun t => { t with v := t.v.set 0 (BitVec.ofNat 1024 (0x43800000 + 0x43FA0000 * 2 ^ 32 + 0x80000000 * 2 ^ 64 + 0x7FC00000 * 2 ^ 96)) })
    ([0, 1, 2, 3, 4].map ((after (.vcvt 1 0 3 0 0 6) s).th.lane 8 1)) = [0x78, 0x7E, 0x80, 0x7F, 0] ∧ (after (.vcvt 1 0 3 0 0 6) s).th.fstat = 0x14 := by
  decide +kernel

theorem witness_VectorUnitStates_moves :
    AllReady [(.vsetl 2 0, [scalarReg 0 2], none), (.vsetl 8 3, [scalarReg 3 8], none)] lanes ∧ scalarReg 3 8 = 56 ∧
    (∀ i ∈ [Instr.vmovg 0 0 2 0 0 0, .vmovg 0 1 8 0 0 3, .vmovg 3 4 2 0 0 0, .vmovg 3 4 2 1 0 0, .vmovg 0 2 9 0 0 0, .vmovg 0 3 9 0 0 2,
      .vmovg 1 5 9 2 0 0], VecReady i lanes) ∧ VecReady (.vmovg 1 5 9 2 0 0) (replaying lanes) :=
  ⟨all_ready (by decide +kernel), by decide, all_vec_ready (by decide +kernel), vec_ready (by decide +kernel)⟩

/-- Shape 1, of 3 words at a stride of 8 bytes, in the table at SHAPEBASE (R37). -/
def shaped : State :=
  { lanes.up (fun t => { t with shapebase := boundedCap (hbm + 0x7000) (hbm + 0x7000) 512 1 }) with
    mem := ((run.mem.writeNat (hbm + 0x7080) 8 (1 + 2 * 2 ^ 4 + 2 ^ 32 + 2 ^ 48)).writeNat (hbm + 0x7088) 4 3).writeNat (hbm + 0x708C) 8 8 }

/-- A VLD or VST whose elements pass their checks. -/
theorem reaches {i : Instr} {store : Bool} {c : Reg} {w : Nat} {m : BitVec 1} {els : List (Nat × Nat)} {r : State}
    (h : (isOk (vecWaits i (w / 8) els r) && isOk (vecEcc (vecReads i) r) &&
      (match elementChecks c (w / 8) store els r with | .ok (_, u) => decide (u.racing = .off) | .error _ => false)) = true) :
    ∃ ps u, Reaches i store c w m els r ps u ∧ Calm u := by
  simp only [Bool.and_eq_true] at h
  cases e : elementChecks c (w / 8) store els r with
  | error _ => rw [e] at h; cases h.2
  | ok x => rw [e] at h; exact ⟨x.1, x.2, ⟨ok_unit h.1.1, .inl (ok_unit h.1.2), e⟩, (of_decide_eq_true h.2 : x.2.racing = .off)⟩

theorem witness_VectorUnitStates_memory :
    let els := elementsAt shaped.th 32 0 (fun k => (((reg [1] shaped 0).addr : Int) + (0 : BitVec 6).toInt * 128) + (k * 4 : Nat)) 1024
    AllReady [(.vld 3 1 2 0 0, [1], none), (.vldShape 3 1 2 0 1 0, [1], none), (.vst 1 1 2 0x3F 1, [1], none), (.vstShape 1 1 2 0 1 0, [1], none)]
      shaped ∧
    vecLegal (.vld 3 1 2 0 0) shaped.th = .ok () ∧ vecLegal (.vst 1 1 2 0x3F 1) shaped.th = .ok () ∧
    vecLegal (.vldShape 3 1 2 0 1 0) shaped.th = .ok () ∧ vecLegal (.vstShape 1 1 2 0 1 0) shaped.th = .ok () ∧
    (∃ x, sliceOf (.vldShape 3 1 2 0 1 0) 1 (popped [1] shaped) = .ok x) ∧ els = [(0, hbm + 0x1000), (1, hbm + 0x1004), (2, hbm + 0x1008), (3, hbm + 0x100C)] ∧
    (∃ ps u, Reaches (.vld 3 1 2 0 0) false (reg [1] shaped 0) 32 0 els (popped [1] shaped) ps u ∧ Calm u) ∧
    (∃ ps u, Reaches (.vst 1 1 2 0 0) true (reg [1] shaped 0) 32 0 els (popped [1] shaped) ps u ∧ Calm u) ∧
    (∃ ps u, Reaches (.vld 3 1 2 0 0) false (reg [1] shaped 0) 32 0 els (popped [1] (replaying shaped)) ps u ∧ Calm u) ∧
    behind (popped [1] shaped) = false ∧ behind (popped [1] (replaying shaped)) = true ∧
    ((match elementChecks (reg [1] shaped 0) 4 true els (popped [1] shaped) with
      | .ok (ps, _) => ps.all (fun x => !inMmio x.2 && !inSlices x.2)
      | _ => false) = true) := by
  intro els
  refine ⟨all_ready ?_, ok_unit ?_, ok_unit ?_, ok_unit ?_, ok_unit ?_, ok_exists ?_, ?_, reaches ?_, reaches ?_, reaches ?_, ?_, ?_, ?_⟩ <;> decide +kernel

/-- R163, R442: a store by shape puts three lanes at a stride of 8 bytes, and a load reads them. -/
theorem test_vector_memory :
    (after (.vstShape 1 1 2 0 1 0) shaped).mem.readNat (hbm + 0x1008) 8 = 0x3F800000 ∧
    (after (.vstShape 1 1 2 0 1 0) shaped).mem.readNat (hbm + 0x1018) 4 = 0 ∧
    (after (.vld 3 1 2 0 0) { shaped with mem := shaped.mem.writeNat (hbm + 0x1004) 4 9 }).th.lane 32 3 1 = 9 := by decide +kernel

/-- A body of two words after PC: VADD, and VMUL with the scalar of a general register. -/
def body : State :=
  { lanes with mem := (run.mem.writeNat (hbm + 0x404) 4 (encode (.vadd 3 1 2 2 0 0 0 0 0))).writeNat (hbm + 0x408) 4 (encode (.vmul 3 3 2 2 0 1 0 0 0)) }

/-- Whose turn it is, computed. -/
theorem turn {s : State} {q k : Nat}
    (h : (let last := (vecTurn s q).1
          let stays := (readyHead s q last).any (fun e => decide ((vecTurn s q).2 < headWeight s e))
          stays && k == last || !stays && (List.range 8).any (fun j => k == (last + 1 + j) % 8 && (readyHead s q k).isSome &&
            (List.range j).all (fun i => (readyHead s q ((last + 1 + i) % 8)).isNone))) = true) : Turn s q k := by
  simp only [Bool.or_eq_true, Bool.and_eq_true, beq_iff_eq, Bool.not_eq_true', List.any_eq_true, List.mem_range, List.all_eq_true,
    Option.isNone_iff_eq_none] at h
  rcases h with ⟨a, b⟩ | ⟨a, j, hj, ⟨b, c⟩, d⟩
  · obtain ⟨e, he, hk⟩ := (Option.any_eq_true ..).mp a
    exact .inl ⟨⟨e, he, of_decide_eq_true hk⟩, b⟩
  · refine .inr ⟨?_, j, hj, b, c, d⟩
    rintro ⟨e, he, hk⟩
    rw [he] at a
    simp [hk] at a

/-- VSEQ of no passes and of seven; the head of a core that may bind and one that waits; entries of each kind that complete. -/
theorem witness_VectorUnitStates_replays :
    AllReady [(.vseq 1 2 0, [scalarReg 0 2], none), (.vseq 1 0 0, [scalarReg 0 0], none)] body ∧ (val [scalarReg 0 0] body 0).toNat = 0 ∧
    0 < (val [scalarReg 0 2] body 0).toNat ∧
    ((match readBody (.vseq 1 2 0) 7 2 (body.th.pc.toNat + 4) body with
      | .ok (b, r) => b == [.vadd 3 1 2 2 0 0 0 0 0, .vmul 3 3 2 2 0 1 0 0 0] &&
          (b.filterMap vecGdest).all (fun x => !beyond body.th x && !awaitsReply body x) &&
          operandHalt (.vseq 1 2 0) (scalarReg 0 2 :: b.filterMap scalarOf) none r == none && isOk (vecEcc (b.flatMap vecReads) body)
      | _ => false) = true) ∧
    ((match readBody (.vseq 1 0 0) 0 2 (body.th.pc.toNat + 4) body with
      | .ok (_, r) => operandHalt (.vseq 1 0 0) [scalarReg 0 0] none r == none
      | _ => false) = true) ∧
    seqRoom 2 body = .ok () ∧
    (let s := { lanes with seqs := [entry none none none, entry (some 2) none none] }
     Head s 0 0 (entry none none none) ∧
       (∀ x ∈ s.seqs, x.quire = 0 → x.lane ≠ some 3) ∧ ∃ f ∈ s.seqs, (entry none none none).next.waitsFor f = true) ∧
    (let s := { lanes with seqs := [entry none none none] }
     (∀ x ∈ s.seqs, x.quire = 0 → x.lane ≠ some 0) ∧ Head s 0 0 (entry none none none) ∧ Turn s 0 0 ∧
       (entry none none none).replay = none) ∧
    (Head (replaying lanes) 0 0 (entry none none (some (replayOf 2))) ∧ Turn (replaying lanes) 0 0 ∧
      ((replayOf 2).body.zip (replayOf 2).vals)[(replayOf 2).word]? = some (.vadd 3 1 2 2 0 0 0 0 0, 0)) ∧
    (let s := { lanes with seqs := [{ entry none none none with core := 1 }] }
     Turn s 0 1 ∧ (1 : Nat) ≠ 0) ∧
    (∀ e ∈ [entry (some 3) none none, entry (some 3) (some (9, 5)) none, working [(.vadd 3 1 2 2 0 0 0 0 0, 0), (.vmovg 1 5 9 2 0 0, 0)] [],
        working [(.vld 3 1 2 0 0, 0)] [(0, hbm + 0x1000), (2, hbm + 0x1008)], working [(.vst 3 1 2 0 0, 0)] [(0, hbm + 0x1000), (2, hbm + 0x1008)]],
      ({ lanes with seqs := [e] } : State).seqs.find? (fun x => x.quire == 0 && x.lane == some 3) = some e ∧ lanes.th.is e.launch e.tid = true) ∧
    vecMoves (.vadd 3 1 2 2 0 0 0 0 0) = none ∧ vecMoves (.vmovg 1 5 9 2 0 0) = none ∧
    vecMoves (.vld 3 1 2 0 0) = some (false, 32, (3 : BitVec 4).toNat) ∧ vecMoves (.vst 3 1 2 0 0) = some (true, 32, (3 : BitVec 4).toNat) ∧
    inMmio (hbm + 0x1008) = false ∧ inSlices (hbm + 0x1008) = false ∧ lanes.others = [] ∧ lanes.racing = .off := by
  refine ⟨all_ready ?_, ?_, ?_, ?_, ?_, ok_unit ?_, ⟨?_, ?_, ?_⟩, ⟨?_, ?_, turn ?_, ?_⟩, ⟨?_, turn ?_, ?_⟩, ⟨turn ?_, ?_⟩, ?_⟩
  all_goals first | decide +kernel | (unfold Head; decide +kernel)

/-- R165: a VSEQ of no passes skips its body, and one of seven enters one entry. -/
theorem test_vseq :
    (after (.vseq 1 0 0) body).th.pc = run.th.pc + 12 ∧ (after (.vseq 1 0 0) body).seqs = [] ∧ (after (.vseq 1 2 0) body).seqs.length = 1 ∧
    (after (.vectorEntryCompletion 0 3) (after (.vectorEntryBind 0 0 3) (replaying lanes))).th.lane 32 3 3 = 12 := by decide +kernel

/-! ## Tile commands, routines and jobs -/

/-- Capabilities to HBM in g8 to g13, g22 and g25; handle 8, a routine of RADD and RRET; the shape table of `shaped`. -/
def pushing : State :=
  { runWith (fun t => { ([8, 9, 10, 11, 12, 22, 25].foldl (fun t n => t.setReg n (mega (0x1000 * n))) t) with
      shapebase := boundedCap (hbm + 0x7000) (hbm + 0x7000) 512 1, routbase := boundedCap (hbm + 0x3000) (hbm + 0x3000) 0x400 1 }) with
    mem := ((shaped.mem.writeNat (hbm + 0x3040) 8 (hbm + 0x3200)).writeNat (hbm + 0x3200) 4 (2 * 2 ^ 26 + 2 * 2 ^ 24 + 3 * 2 ^ 20)).writeNat
      (hbm + 0x3204) 4 (encode (.radd 0 0 1) + 2 ^ 16 * encode .rret) }

/-- One command of each kind. -/
def commands : List (Instr × Tile) :=
  [fun c => (.mma c, c)].map (· { tile0 with d := 20, y := 8, z := 9, shape := 1, w4 := 0x03550000 }) ++
  [fun c => (.accrd c, c)].map (· { tile0 with d := 20, x := 8, shape := 1, w4 := 0x03300000 }) ++
  [fun c => (.accrel c, c)].map (· { tile0 with d := 20 }) ++
  [fun c => (.outer c, c)].map (· { tile0 with d := 20, x := 8, y := 9, z := 10, shape := 3, hb := 2, w4 := 1 }) ++
  [fun c => (.fold c, c)].map (· { tile0 with cls := 1, d := 0, x := 8, y := 9, ha := 8 }) ++
  [fun c => (.scan c, c)].map (· { tile0 with cls := 1, d := 20, x := 8, y := 9, w4 := 0x10 }) ++
  [fun c => (.zip c, c)].map (· { tile0 with d := 20, x := 8, y := 9, z := 10, ha := 8 }) ++
  [fun c => (.copy c, c)].map (· { tile0 with cls := 1, d := 20, x := 8, y := 9, shape := 1, w4 := 1 }) ++
  [fun c => (.get c, c)].map (· { tile0 with cls := 1, d := 57, x := 8, y := 9, z := 10, w4 := 100, w5 := 64 }) ++
  [fun c => (.put c, c)].map (· { tile0 with cls := 1, d := 20, x := 8, y := 9, z := 10, w4 := 100, w5 := 64 }) ++
  [fun c => (.putAdd c, c)].map (· { tile0 with cls := 1, d := 20, x := 8, y := 9, z := 10, flags := 0x20, w4 := 100, w5 := 0x30040 }) ++
  [fun c => (.pack c, c)].map (· { tile0 with cls := 1, d := 20, x := 8, y := 9, w4 := 0x00400000 }) ++
  [fun c => (.compact c, c)].map (· { tile0 with cls := 1, d := 20, x := 8, y := 9, z := 10, w := 11, w4 := 5, w5 := 0x40 }) ++
  [fun c => (.qfence c, c)].map (· { tile0 with cls := 1, d := 20 }) ++
  [fun c => (.lookup c, c)].map (· { tile0 with cls := 2, d := 20, x := 8, y := 9, z := 10, w := 11, w4 := 0x08208081, w5 := 0x00080004, w6 := 0x59900000 }) ++
  [fun c => (.coll c, c)].map (· { tile0 with cls := 3, d := 20, x := 8, y := 9, w := 11, w4 := 0x52, w5 := 1 })

/-- Nothing stops the push of a command. -/
def pushes (s : State) (x : Instr × Tile) : Bool :=
  match pushChecks x.1 x.2 s with
  | .ok (_, t) => isOk (pushWaits x.1 x.2 t) && !queueFull x.2.cls.toNat (pushUnit x.2.cls.toNat s.th.quire) t &&
      !mustSpill x.2.cls.toNat (pushUnit x.2.cls.toNat s.th.quire) t
  | .error _ => false

theorem witness_TileCommandsPushed_each :
    (commands.all (fun x => (tileCommands x.2).contains x.1 && pushes pushing x)) = true ∧ commands.length = 16 ∧ pushing.th.ganged = false ∧
    pushing.others = [] := by decide +kernel

/-- A capability that is not there, an outstanding reply, a full MXE queue, and a broken rule, register and shape. -/
theorem witness_TileCommandsPushed_stops :
    pushChecks (.copy { tile0 with cls := 1, x := 8, y := 2, shape := 1, w4 := 1 }) { tile0 with cls := 1, x := 8, y := 2, shape := 1, w4 := 1 } pushing =
      .error (.trap .capTag 7) ∧
    (let c : Tile := { tile0 with cls := 1, d := 20 }
     pushChecks (.qfence c) c (asked { ask .rst with rel := true }) = .error (.stall (.retry .acks))) ∧
    (let c : Tile := { tile0 with cls := 3, d := 20, x := 8, y := 9, w := 11, w4 := 0x52, w5 := 1, flags := 2, z := 56 }
     ((match pushChecks (.coll c) c (pushing.up (fun t => { t with q := t.q.set 0 (some ⟨.rx, 5, []⟩) })) with
       | .ok (_, t) => isError (pushWaits (.coll c) c t) (.stall (.retry (.pop 56))) | _ => false) = true)) ∧
    (let c : Tile := { tile0 with d := 20 }
     ((match pushChecks (.accrel c) c { pushing with jobs := (List.range 8).map (fun n => { aJob n with cls := 0 }) } with
       | .ok (_, t) => isOk (pushWaits (.accrel c) c t) && queueFull 0 (pushUnit 0 0) t | _ => false) = true)) ∧
    wellFormedInstr (.qfence { tile0 with cls := 1, cnt := 1 }) = false ∧ beyond (runWith (fun t => { t with gran := 6 })).th 48 = true ∧
    pushing.th.nshape ≤ (4 : BitVec 8).toNat := by
  and_intros <;> first | decide +kernel | exact all_ready (by decide +kernel) | exact ok_unit (by decide +kernel) | exact error_of (by decide +kernel)

/-- A full copy unit: a push to a spill ring in HBM, to one in the hole above it, and to one in a page that migrates; an id that
an older job still holds. -/
theorem witness_TileCommandsPushed_spill :
    let c : Tile := { tile0 with cls := 1, d := 20 }
    let full := fun (s : State) (va : Nat) => { s.setCtx 2 (fun x => { x with spillbase := BitVec.ofNat 64 (va + 1) }) with
      jobs := (List.range 64).map aJob }
    let spills := fun (s : State) (p : State → Bool) => match pushChecks (.qfence c) c s with
      | .ok (_, t) => isOk (pushWaits (.qfence c) c t) && !queueFull 1 (pushUnit 1 0) t && mustSpill 1 (pushUnit 1 0) t && p t
      | _ => false
    spills (full pushing hbm) (fun t => isOk (spillWrite (.qfence c) c t)) = true ∧
    spills (full pushing 0x016000000000) (fun t => isError ((spillWrite (.qfence c) c t).map (fun _ => ())) (.trap .spillFault 0x0300016000000000)) = true ∧
    spills (full (paged id) (hbm + 2 ^ 30)) (fun t =>
      isError ((spillWrite (.qfence c) c t).map (fun _ => ())) (.stall (.retry (.spillWalk 2 (hbm + 2 ^ 30) 12000000)))) = true ∧
    ((aJob 0x10000).id = nextSerial pushing 1 (pushUnit 1 0) % 2 ^ 16 + 1 * 2 ^ 16 + pushUnit 1 0 % 512 * 2 ^ 18 ∧ (aJob 0x10000).stage ≠ .ended) := by
  refine ⟨?_, ?_, ?_, ?_⟩ <;> decide +kernel

/-- R96, R183: the push of a QFENCE gives its id, moves past eight words, and leaves a queued job. -/
theorem test_push :
    let c : Tile := { tile0 with cls := 1, d := 20 }
    (after (.qfence c) pushing).th.reg 20 = Reg.ofData 0x10000 ∧ (after (.qfence c) pushing).th.pc = run.th.pc + 32 ∧
    (after (.qfence c) pushing).jobs.map (fun j => (j.stage, j.cls)) = [(.queued, 1)] := by decide +kernel

/-! ### Routines -/

/-- The routine unit with 2 and 3, then a number, an infinity and a NaN, in t0 to t4 of a format. -/
def slots (f : Nat) (l : List Nat) (trap : Bool) : State :=
  { run with rt := { RoutineUnit.reset with
      t := (l.zipIdx.foldl (fun (v : Vector (BitVec 64) 8) x => v.setIfInBounds x.2 (BitVec.ofNat 64 x.1)) RoutineUnit.reset.t)
      fmt := f, trap := trap, active := true } }

theorem witness_RoutineSlotsRun :
    (∀ f ∈ [0, 2, 3, 4, 5], (slots f [2, 3] false).rt.fmt = f) ∧ (5 : BitVec 3).toNat < 6 ∧
    (let s := slots 3 [0x3FC00000, 0x7F800000, 0x7FC00000, 0x7F800001] true
     decodeFloat 3 (slotReg 32 s 0).toNat = .fin false 0xC00000 (-23) ∧ (decodeFloat 3 (slotReg 32 s 1).toNat).isInf = true ∧
       (decodeFloat 3 (slotReg 32 s 1).toNat).isNaN = false ∧ (decodeFloat 3 (slotReg 32 s 2).toNat).isNaN = true ∧
       (decodeFloat 3 (slotReg 32 s 3).toNat).isSignalling = true) := by decide +kernel

/-- R194, R414: 2 − 3 in SI32 and in FP32; RSEL of −0 takes b; a trapped NV ends the invocation. -/
theorem test_slots :
    (after (.rsub 0 0 1) (slots 2 [2, 3] false)).rt.t[0] = 0xFFFFFFFF ∧
    (after (.rsub 0 0 1) (slots 3 [0x40000000, 0x40400000] false)).rt.t[0] = 0xBF800000 ∧
    (after (.rsel 0 1 2) (slots 3 [0x80000000, 5, 6] false)).rt.t[0] = 6 ∧
    (after (.rcmplt 0 0 1) (slots 3 [0x3F800000, 0x7FC00000] true)).rt.fault = true ∧
    (after (.rcvt 0 0 6) (slots 3 [0x40200000] false)).rt.t[0] = 0x40000000 := by decide +kernel

/-! A routine of one RRET always ends in its first input. -/

theorem ok_of {ε α : Type} [DecidableEq α] {x : Except ε α} {v : α} (h : (match x with | .ok w => decide (w = v) | .error _ => false) = true) :
    x = .ok v := by
  cases x
  · cases h
  · exact congrArg _ (of_decide_eq_true h)
theorem slot_runs {u : RoutineUnit} {i : Instr} {k : Nat} (a : u.active = true) (d : decodeSlot u.word = .ok i) :
    runSlots (k + 1) u = runSlots k (runSlot i u) := by rw [runSlots, a, d]; rfl
theorem slots_off (k : Nat) {u : RoutineUnit} (a : u.active = false) : runSlots k u = u := by
  cases k
  · rfl
  · rw [runSlots, a]; rfl
theorem ret_slot (u : RoutineUnit) : runSlot .rret u = u.stop := by
  unfold runSlot; rfl
theorem runs_ret (k : Nat) {u : RoutineUnit} (a : u.active = true) (d : decodeSlot u.word = .ok .rret) :
    runSlots (k + 1) u = u.stop := by
  have e := @slots_off k u.stop (Eq.refl false)
  rw [slot_runs a d, ret_slot, e]

theorem ret_ends (a b : Nat) : ∃ x, invoke ⟨8, 2, 0, true, none, false, [encode .rret]⟩ [a, b] = .ok x := by
  unfold invoke
  generalize hu : ({ t := loadInputs [a, b], fmt := _, step := 0, flags := 0, trap := _, slots := _, active := true, fault := false } : RoutineUnit) = u
  have h1 : u.active = true := by rw [← hu]
  have h2 : u.fault = false := by rw [← hu]
  have h3 : decodeSlot u.word = .ok .rret := by
    have d : decodeSlot (encode .rret + 2 ^ 16 * 0) = .ok .rret := ok_of (by decide +kernel)
    rw [← hu]
    exact d
  rw [runs_ret 32 h1 h3]
  have h4 : u.stop.fault = false := h2
  generalize u.stop = v at h4
  dsimp only
  rw [h4]
  exact ⟨_, Eq.refl _⟩

/-- A list, and a routine that always ends in a result. -/
theorem witness_ReductionOrder : ([1, 2, 3] : List Nat) ≠ [] ∧
    ∃ op : Nat → Nat → Nat, ∀ a b, invoke ⟨8, 2, 0, true, none, false, [encode .rret]⟩ [a, b] = .ok (op a b) :=
  ⟨by decide, fun a b => (ret_ends a b).choose, fun a b => (ret_ends a b).choose_spec⟩

/-! ### Jobs -/

/-- A COPY that was pushed, and a QFENCE behind it. -/
def queued : State :=
  after (.qfence { tile0 with cls := 1, d := 20 }) (after (.copy { tile0 with cls := 1, d := 20, x := 8, y := 9, shape := 1, w4 := 1 }) pushing)

/-- A job that may start, read back from the spill ring where it lies there. -/
def starts (s : State) (j : Job) (p : Je (JobEnd × State) → Bool) : Bool :=
  mayStart j s && (match unspill j s with | .ok (k, r) => p (runJob k (roomFor k r)) | .error _ => false)

/-- The oldest job of two, one alone, one that has begun, one in the spill ring, and one whose chunk parks. -/
theorem witness_JobsStart :
    ((match waitingJobs queued 1 0 0 with
      | [j, k] => !begun queued j && !begun queued k && j.status == 0 && starts queued j isOk && !mayStart k queued
      | _ => false) = true) ∧
    (let s := after (.qfence { tile0 with cls := 1, d := 20 }) pushing
     ((match waitingJobs s 1 0 0 with | [k] => starts s k isOk | _ => false) = true)) ∧
    (let s := { queued with jobs := queued.jobs.map (fun k => { k with parkedAt := some (hbm / 4096, 0) }) }
     ((match (waitingJobs s 1 0 0).find? (begun s) with | some j => j.status == 0 && starts s j isOk | _ => false) = true)) ∧
    (let s := spillStore 2 (hbm + 0x90000) (.qfence { tile0 with cls := 1, d := 20 }) [] 0
       { run with jobs := [{ aJob 0x10000 with stage := .spilled, spillAt := some (hbm + 0x90000) }] }
     ((match waitingJobs s 1 0 0 with | [k] => k.status == 0 && starts s k isOk | _ => false) = true)) ∧
    waitingJobs run 1 0 0 = [] ∧
    (let s := { after (.copy { tile0 with cls := 1, d := 20, x := 8, y := 9, shape := 1, w4 := 1 }) { pushing with
        th := pushing.th.setReg 8 (boundedCap (hbm + 2 ^ 30) (hbm + 2 ^ 30) 4096 0xFFFF) } with
        ctxs := (paged id).ctxs
        mem := ((((pushing.mem.writeNat (hbm + 0x70000) 8 (hbm + 0x71001)).writeNat (hbm + 0x71010) 8 (hbm + 0x72001)).writeNat
          (hbm + 0x72000) 8 (hbm + 0xF)).writeNat (hbm + 0x72008) 8 (hbm + 2 ^ 30 + 0x2F)) }
     ((match waitingJobs s 1 0 0 with
       | [j] => starts s j (fun x => isError (x.map (fun _ => ())) (.park (hbm + 2 ^ 30))) | _ => false) = true)) := by decide +kernel

/-- A job of the thread that has the focus, on its engine. -/
def holding (j : Job) : State := { run with jobs := [j] }
/-- Ring 1 of the thread of `ringed`. -/
def ringMember : JobMember := { aMember with cbbase := boundedCap (hbm + 0x4000) (hbm + 0x4000) 0x1000 0x003 }
/-- A job with a counter, and mail for each message. -/
def counting : Job :=
  { aJob 0x10000 with
    stage := .running
    tile := { tile0 with flags := 8, cnt := 7, srcFree := true, visible := true, jobDone := true } }
/-- A job with two slots of an input or an output ring. -/
def turning (input : Bool) : Job :=
  { counting with
    members := [ringMember]
    freed := !input
    tile := if input then { tile0 with inRing := 1, inCount := 2 } else { tile0 with outRing := 1, outCount := 2 } }

theorem ring_moves {j : Job} {m : JobMember} {n : BitVec 4} {k d : Nat} {pos : Ring → Nat} {s : State}
    (h : (match jobRing j m.cbbase n.toNat s with
      | .ok (r, s1) => (match jobWrite j m.cbbase (ringAddr m.cbbase n.toNat + d) (toBytesLE 4 (pos r + k)) 1 s1 with
        | .ok u => decide (u.th = s.th ∧ u.others = s.others ∧ u.conts = s.conts ∧ u.jobs = s.jobs)
        | .error _ => false)
      | .error _ => false) = true) : ∃ u, RingMoves j m n k d pos s u := by
  cases h1 : jobRing j m.cbbase n.toNat s with
  | error _ => rw [h1] at h; cases h
  | ok x =>
    obtain ⟨r, s1⟩ := x
    rw [h1] at h
    dsimp only at h
    cases h2 : jobWrite j m.cbbase (ringAddr m.cbbase n.toNat + d) (toBytesLE 4 (pos r + k)) 1 s1 with
    | error _ => rw [h2] at h; cases h
    | ok u => rw [h2] at h; exact ⟨u, r, s1, h1, h2, of_decide_eq_true h⟩

/-- SRC_FREE and VISIBLE of a job without rings and of one whose slots move, and the end of a job. -/
theorem witness_JobsReport_messages :
    Sole (holding counting) counting aMember ∧ counting.tile.inCount = 0 ∧ counting.tile.outCount = 0 ∧
    (let j := { counting with freed := true }
     Sole (holding j) j aMember ∧ j.visible = false ∧ j.windows = [] ∧ j.comm = none) ∧
    (∀ input, Sole { ringed with jobs := [turning input] } (turning input) ringMember) ∧
    (turning true).freed = false ∧ (turning false).freed = true ∧
    (∃ u, RingMoves (turning true) ringMember (turning true).tile.inRing 2 28 (·.cidx) { ringed with jobs := [turning true] } u) ∧
    (∃ u, RingMoves (turning false) ringMember (turning false).tile.outRing 2 24 (·.pidx) { ringed with jobs := [turning false] } u) ∧
    (let j := { counting with freed := true, visible := true }
     Sole (holding j) j aMember ∧ (∀ l ∈ j.stream, l = []) ∧ j.tickets = [] ∧ j.cls ≠ 3 ∧ counterOf (holding j) j.ctx j.tile.cnt.toNat = some 39) ∧
    (let j := { counting with freed := true, visible := true, status := 0x30001, record := [9] }
     Sole (holding j) j aMember ∧ j.status % 256 ≠ 0) := by
  unfold Sole
  refine ⟨by decide +kernel, by decide +kernel, by decide +kernel, by decide +kernel, by decide +kernel, by decide +kernel,
    by decide +kernel, ring_moves (by decide +kernel), ring_moves (by decide +kernel), by decide +kernel, by decide +kernel⟩

/-- R153, R210: the consumer of an input ring moves by its slot count; a job that ends DONE adds 1 to its counter. -/
theorem test_job_ends :
    (after (.srcFree 0x10000) { ringed with jobs := [turning true] }).mem.readNat (hbm + 0x403C) 4 = 3 ∧
    (after (.visible 0x10000) { ringed with jobs := [turning false] }).mem.readNat (hbm + 0x4038) 4 = 5 ∧
    (let t := after (.jobDone 0x10000) (holding { counting with freed := true, visible := true })
     t.counter 0 39 = 1 ∧ t.th.mbox = [0x300010000]) ∧
    ((after (.jobDone 0x10000) (holding { counting with freed := true, visible := true, status := 0x30001, record := [9] })).th.mbox =
      [0x0300010300010000]) := by decide +kernel

/-- A LOOKUP whose table record at W has a drain pair. -/
def drawing : Job :=
  { aJob 0x10000 with
    cls := 2
    cmd := .lookup { tile0 with cls := 2, w := 11 }
    tile := { tile0 with cls := 2, w := 11 }
    members := [{ aMember with regs := [Reg.null, Reg.null, Reg.null, mega 0x6000] }] }
/-- Its record in memory, with the pair at ENTER and LEAVE. -/
def drained (enter leave : Nat) : State :=
  { holding drawing with
    mem := (((((run.mem.writeCap (hbm + 0x6000) (mega 0x7000)).writeNat (hbm + 0x6010) 8 (64 + 3 * 2 ^ 32)).writeNat (hbm + 0x6038) 8
      (hbm + 0x8000)).writeNat (hbm + 0x8000) 8 enter).writeNat (hbm + 0x8008) 8 leave) }
/-- A streaming copy whose register q2 is bound. -/
def flowing : Job := { aJob 0x10000 with stage := .running, stream := [[5, 6]], entered := [0] }
def boundCopy : State :=
  { runWith (fun t => { t with q := t.q.set 2 (some ⟨.cp, 0x10000, [4]⟩) }) with jobs := [flowing] }

theorem ticket_place {j : Job} {s : State} {pa : Nat × Nat}
    (h : (match (jobTables j s).find? (wantsTicket j) with
      | some tb => (match drainPlace j tb s with | .ok (some x, t) => decide (x = pa ∧ t.racing = .off) | _ => false)
      | none => false) = true) :
    ∃ tb s1, (jobTables j s).find? (wantsTicket j) = some tb ∧ drainPlace j tb s = .ok (some pa, s1) ∧ Calm s1 := by
  cases f : (jobTables j s).find? (wantsTicket j) with
  | none => rw [f] at h; cases h
  | some tb =>
    rw [f] at h
    dsimp only at h
    cases e : drainPlace j tb s with
    | error _ => rw [e] at h; cases h
    | ok x =>
      obtain ⟨_ | p, s1⟩ := x
      · rw [e] at h; cases h
      · rw [e] at h; exact ⟨tb, s1, rfl, by rw [e, (of_decide_eq_true h).1], (of_decide_eq_true h).2⟩

theorem witness_JobsReport_tickets :
    (let j := { counting with windows := [3, 2], tile := { tile0 with flags := 0x18, cnt := 7 } }
     Sole (holding j) j aMember ∧ j.windows = 3 :: [2] ∧ bitOf j.tile.flags.toNat 4 = true ∧
       counterOf (holding j) j.ctx j.tile.cnt.toNat = some 39) ∧
    Sole (drained 9 2) drawing { aMember with regs := [Reg.null, Reg.null, Reg.null, mega 0x6000] } ∧
    mayStart drawing (drained 9 2) = true ∧ mayStart drawing (drained 65538 2) = true ∧
    (∃ tb s1, (jobTables drawing (drained 9 2)).find? (wantsTicket drawing) = some tb ∧
      drainPlace drawing tb (drained 9 2) = .ok (some (hbm + 0x8000, hbm + 0x8008), s1) ∧ Calm s1) ∧
    (∃ tb s1, (jobTables drawing (drained 65538 2)).find? (wantsTicket drawing) = some tb ∧
      drainPlace drawing tb (drained 65538 2) = .ok (some (hbm + 0x8000, hbm + 0x8008), s1) ∧ Calm s1) ∧
    Sole boundCopy flowing aMember ∧ flowing.stream = [5 :: [6]] ∧
    copyBinding boundCopy.th 0x10000 = some (2, ⟨.cp, 0x10000, [4]⟩) := by
  unfold Sole
  refine ⟨by decide +kernel, by decide +kernel, by decide +kernel, by decide +kernel, ticket_place (by decide +kernel),
    ticket_place (by decide +kernel), by decide +kernel, by decide +kernel, by decide +kernel⟩

/-- R212, R222, R227: a window of 3 adds 3; the ticket of ENTER = 9; an element enters the buffer. -/
theorem test_tickets :
    (after (.windowVisible 0x10000) (holding { counting with windows := [3, 2], tile := { tile0 with flags := 0x18, cnt := 7 } })).counter 0 39 = 3 ∧
    (after (.ticketGrant 0x10000) (drained 9 2)).jobs.map (·.tickets) = [[(hbm + 0x8000, some (hbm + 0x8000), 9)]] ∧
    (after (.ticketGrant 0x10000) (drained 9 2)).mem.readNat (hbm + 0x8000) 8 = 10 ∧
    (after (.copyStreamElement 0x10000 0) boundCopy).th.q[2] = some ⟨.cp, 0x10000, [4, 5]⟩ := by decide +kernel

/-! ### Slots -/

/-- A thread with a stall; a vector entry in the sequencer and an access outstanding. -/
def stalled (x : Stall) (f : Thread → Thread) : State := runWith (fun t => { f t with stall := some x })
def busySeq (s : State) : State := { s with seqs := [⟨0, 0, 1, 0, [3], [3], some (9, 7), [(hbm, 128)], none, 1, none, none⟩] }

/-- Each reason to wait, gone and there; a pop with an element and without one. -/
theorem witness_StallsAndPendingTraps_waits :
    Gone .drain (stalled (.retry .drain) id) ∧ ¬Gone .drain (busySeq (stalled (.retry .drain) id)) ∧
    Gone (.register 9) (stalled (.retry (.register 9)) id) ∧ ¬Gone (.register 9) (stalled (.retry (.register 9)) (fun t => { t with pend := 0x200 })) ∧
    Gone (.replies 255) (stalled (.retry (.replies 255)) id) ∧ ¬Gone (.replies 1) (stalled (.retry (.replies 1)) (fun t => { t with replies := 1 })) ∧
    Gone .acks (stalled (.retry .acks) id) ∧ ¬Gone .acks { asked { ask .rst with rel := true } with th := (stalled (.retry .acks) id).th } ∧
    Gone (.counter 0 39 7) { stalled (.retry (.counter 0 39 7)) id with counters := [(39, 7)] } ∧ ¬Gone (.counter 0 39 7) (stalled (.retry (.counter 0 39 7)) id) ∧
    Gone .idle (stalled (.retry .idle) (fun t => { t with mbox := [1] })) ∧ ¬Gone .idle (stalled (.retry .idle) id) ∧
    Gone .phase (stalled (.retry .phase) id) ∧ ¬Gone .phase (stalled (.retry .phase) (fun t => { t with phase := some ⟨1, 0, 128, [], false⟩ })) ∧
    Gone (.queue 1 0) (stalled (.retry (.queue 1 0)) id) ∧
    Gone .inject (stalled (.retry .inject) id) ∧ Gone (.bytes 0 8) (busySeq (stalled (.retry (.bytes 0 8)) id)) ∧
    ¬Gone (.bytes hbm (hbm + 8)) (busySeq (stalled (.retry (.bytes hbm (hbm + 8))) id)) ∧
    Gone (.pop 56) (stalled (.retry (.pop 56)) id) ∧ ¬Gone (.pop 56) (stalled (.retry (.pop 56)) (fun t => { t with q := t.q.set 0 (some ⟨.rx, 5, []⟩) })) := by
  unfold Gone
  decide +kernel

/-- Suspension points, CBADV, SSEND and SRECV that go on and that wait; a window that missed an element. -/
theorem witness_StallsAndPendingTraps_points :
    (let s := stalled (.suspend 0) (fun t => { t with mbox := [1], phase := some ⟨1, 0, 128, [], false⟩ })
     s.th.phase ≠ none ∧ waitHolds s s.th 0 = true ∧ waitHolds (stalled (.suspend 0) id) (stalled (.suspend 0) id).th 0 = false) ∧
    (stalled .exit id).th.replies = 0 ∧ (stalled .exit (fun t => { t with replies := 1 })).th.replies ≠ 0 ∧
    (let s := { ringed with th := { ringed.th with stall := some (.cbadv true 1 1 0) } }
     ((match readRing (ringAddr s.th.cbbase 1) s with | .ok (r, _) => r.free == 2 && r.fill == 2 | _ => false) = true)) ∧
    (let w : Window := ⟨true, 0, 5, 0, 2, 0x100, [0x100, 0x108], [], []⟩
     let v : Window := ⟨false, 0, 91, 0, 2, 0x100, [0x100, 0x108], [0], []⟩
     let p : Phase := ⟨63, 1200000, 256, [w], false⟩
     let q : Phase := ⟨63, 1200000, 256, [w, v], false⟩
     p.windows.getLast? = some w ∧ q.windows.getLast? = some v ∧ w.send = true ∧ v.send = false ∧
       (∃ j < v.len, j ∉ v.got) ∧ (∀ j < v.len, j ∈ { v with got := [1, 0] }.got) ∧ v.waits run = false ∧
       { v with held := [(0, 5)] }.waits { run with sends := [⟨0, 0, 1, 0, 2, 63, 1200000, w⟩] } = true ∧
       ({ stalled (.ssend 0) (fun t => { t with phase := some p }) with cycle := 1200005 }).th.phase = some p ∧ p.start + w.offset ≤ 1200005 ∧
       1200124 < q.start + v.offset + 32 + v.len) := by decide +kernel

/-- A replay that is to go on after a pick-up with a word that stood behind it, with room and without. -/
theorem witness_StallsAndPendingTraps_replay :
    let s := stalled (.retry .drain) (fun t => { t with replay := some (replayOf 2), vecBehind := [entry none none none] })
    Gone .drain s ∧ s.th.replay = some (replayOf 2) ∧ 0 < (replayOf 2).left ∧
    seqRoom ((replayOf 2).len + (s.th.vecBehind.map (·.held)).sum) s = .ok () ∧
    seqRoom ((replayOf 2).len + (s.th.vecBehind.map (·.held)).sum) { s with seqs := [{ entry none none none with tid := 1, held := 16 }] } ≠
      .ok () := by
  intro s
  exact ⟨by unfold Gone; decide +kernel, by decide +kernel, by decide, ok_unit (by decide +kernel), not_ok (by decide +kernel)⟩

/-- A pending trap, a remote fault, both at a suspension point, and neither. -/
theorem witness_StallsAndPendingTraps_traps :
    (let s := stalled (.retry .drain) (fun t => { t with
        pendTraps := [⟨.gangBroken, false, 0, some (t.pc, t.pc + 4), false⟩, ⟨.capTag, false, 3, none, false⟩], rfq := [9] })
     s.th.pendTraps.find? (fun p => p.after.all (fun x => s.th.pc != x.1)) = some ⟨.capTag, false, 3, none, false⟩ ∧
       s.th.stall = some (.retry .drain) ∧ s.th.ganged = false) ∧
    (runWith (fun t => { t with pendTraps := [⟨.pageFault, false, 3, none, true⟩] })).th.pendTraps.find? (fun p => p.after.all (fun x => run.th.pc != x.1)) =
      some ⟨.pageFault, false, 3, none, true⟩ ∧
    ((runWith (fun t => { t with ganged := true })).th.ganged = true) ∧
    ((runWith (fun t => { t with rfq := [9, 8] })).th.rfq = 9 :: [8] ∧ (runWith (fun t => { t with rfq := [9, 8] })).th.stall = none) ∧
    ((stalled (.suspend 0) (fun t => { t with rfq := [9] })).th.stall = some (.suspend 0)) ∧
    run.th.pendTraps.find? (fun p => p.after.all (fun x => run.th.pc != x.1)) = none ∧ run.th.rfq = [] := by decide +kernel

/-- R12, R30, R293: a suspension point that goes on; a remote fault taken; a window that missed an element. -/
theorem test_stalls :
    (after .slotStallEnd (stalled (.suspend 0) (fun t => { t with mbox := [1], phase := some ⟨1, 0, 128, [], false⟩ }))).th.pc = run.th.pc + 4 ∧
    (after .slotStallEnd (stalled (.suspend 0) (fun t => { t with mbox := [1] }))).th.pc = run.th.pc ∧
    (let s := after .trapEntry (runWith (fun t => { t with rfq := [9, 8], tbase := mega 0x8000 }))
     s.th.rfq = [8] ∧ s.th.cause = 0x12 ∧ s.th.tval = 9) ∧
    (let v : Window := ⟨false, 0, 91, 0, 2, 0x100, [0x100, 0x108], [0], []⟩
     (after .slotStallEnd { stalled (.srecv 0) (fun t => { t with phase := some ⟨63, 1200000, 256, [v], false⟩, tbase := mega 0x8000 }) with
       cycle := 1200125 }).th.tval = 5 + 63 * 2 ^ 8) := by decide +kernel

/-- The launch of the thread, changed. -/
def ending (f : Launch → Launch) : State := { launched with launches := launched.launches.map f }

/-- A thread whose pool entry holds its frame and record, ready since 0, and one since 5; slot 0 of core 0 is free. -/
def resting : Thread := { runner with code := .ready, dirty := 0, gran := 1, vregs := 0, m := 0 }
def pickable : State :=
  match (storeFrame resting (fun _ => true) launched).bind (storeRecord resting) with
  | some m => { m with th := Thread.empty, conts := [resting, { resting with tid := 1, pool := 1, readyAt := 5 }] }
  | none => launched

/-- A restore that gives a ready thread, and its slices. -/
theorem loads {t : Thread} {s : State}
    (h : (match loadThread t s with
      | some u => decide (u.code = .ready ∧ u.replay = none ∧ u.vecBehind = []) && isOk (restoreSlice u s)
      | none => false) = true) :
    ∃ u r, loadThread t s = some u ∧ u.code = .ready ∧ restoreSlice u s = .ok r ∧ u.replay = none ∧ u.vecBehind = [] := by
  cases e : loadThread t s with
  | none => rw [e] at h; cases h
  | some u =>
    rw [e] at h
    simp only [Bool.and_eq_true, decide_eq_true_eq] at h
    obtain ⟨r, hr⟩ := ok_exists h.2
    exact ⟨u, r, rfl, h.1.1, hr, h.1.2⟩

/-- A mailbox wait alone, with a phase open and with an entry in the sequencer; saved threads whose wait holds, does not, and with a trap. -/
theorem witness_ContinuationsSavedAndPickedUp_saved :
    (let s := stalled (.suspend 0) id
     s.th.ganged = false ∧ (∀ u ∈ s.others, u.is s.th.launch s.th.tid = false) ∧ s.th.code = .running ∧ s.th.pendTraps = [] ∧
     s.isSaved s.th.launch s.th.tid = false ∧ s.th.phase = none ∧ s.entries = [] ∧ waitKind 0 = 0 ∧ s.th.mbox = [] ∧
     (∃ m, Saves { s.th with code := .suspended, wait := 0, liveSet := none } s m)) ∧
    (waitKind 5 = 5 ∧ (stalled (.suspend 5) (fun t => { t with replies := 1 })).th.replies ≠ 0) ∧
    (busySeq (stalled (.suspend 0) id)).entries ≠ [] ∧
    (let t := { resting with code := .suspended }
     let s := { pickable with conts := [t] }
     s.conts.find? (·.is 1 0) = some t ∧ t.pendTraps = [] ∧ waitHolds s t t.wait = false ∧
       waitHolds s { t with mbox := [1] } { t with mbox := [1] }.wait = true ∧ s.gangOf 1 0 = none ∧ waitKind t.wait ≠ 7 ∧
       ({ s with gangs := [⟨4, 1, [0, 5], none, []⟩] } : State).gangOf 1 0 = some ⟨4, 1, [0, 5], none, []⟩ ∧
       (∃ m ∈ [0, 5], ∀ x, s.conts.find? (·.is 1 m) = some x → x.code ≠ .suspended ∨ waitHolds s x x.wait = false) ∧
       (let u := { t with pendTraps := [⟨.capTag, false, 3, none, false⟩] }
        (∃ p ∈ u.pendTraps, p.after = none) ∧ ∀ p ∈ u.pendTraps, p.dead = false)) := by
  and_intros <;> first | decide +kernel | exact all_ready (by decide +kernel) | exact ok_unit (by decide +kernel) | exact error_of (by decide +kernel) |
    exact ok_exists (by decide +kernel) | exact some_exists (by decide +kernel) | exact saves (by decide +kernel) | exact off (by decide +kernel)

theorem witness_ContinuationsSavedAndPickedUp_slots :
    slotFree pickable 0 8 0 = false ∧ (∀ t ∈ pickable.conts, fits pickable 1 0 0 t = false) ∧ slotFree pickable 0 0 0 = true ∧
    pickable.conts.map (fits pickable 0 0 0) = [true, true] ∧ resting.ganged = false ∧
    (pickable.quireCharge 0 0 * tierWeight pickable.tierw 0 = 0 ∧ pickable.conts.map (fun t => (t.prio, t.deadline, t.readyAt)) = [(0, 0, 0), (0, 0, 5)]) ∧
    poolPark pickable resting = none ∧ resting.requeued = false ∧ ({ resting with requeued := true } : Thread).requeued = true ∧
    ∃ u r, loadThread resting pickable = some u ∧ u.code = .ready ∧ restoreSlice u pickable = .ok r ∧ u.replay = none ∧ u.vecBehind = [] := by
  refine ⟨?_, ?_, ?_, ?_, ?_, ?_, ?_, ?_, ?_, loads ?_⟩ <;> decide +kernel

/-- R10, R307: the thread that has been ready longest runs in the slot, with its registers; a saved wait that holds is ready past the point. -/
theorem test_pickup :
    (let s := after (.pickup 0 0 0) pickable
     s.th.code = .running ∧ s.th.tid = 0 ∧ s.th.reg 1 = run.th.reg 1 ∧ s.th.pc = run.th.pc ∧ s.conts.map (·.tid) = [1]) ∧
    (let t := { resting with code := .suspended, mbox := [1] }
     (after (.wakeUp 1 0) { pickable with conts := [t] }).conts.map (fun u => (u.code, u.pc)) = [(.ready, run.th.pc + 4)]) := by decide +kernel

/-! Pre-emption: a thread of tier 1 is ready, and tier 0, with a charge, holds every slot of core 0; the round's end. -/

/-- The thread in slot 0 of core 0 and tier 0 in every other slot of quire 0; a thread of tier 1 pinned to slot 0. -/
def crowded : State :=
  { run with
    others := (List.range 63).map (fun n => { runner with tid := n + 2, core := (n + 1) / 8, slot := (n + 1) % 8 })
    conts := [{ resting with tid := 1, tier := 1, pin := some (0, 0) }]
    quireCharges := [(chargeKey 0 0, 100)] }

theorem crowds {s : State} {t v : Thread}
    (h : (crowdedOut s t && victim s t v && (usableSlots s t).all (fun x => (holder s t.quire x.1 x.2).isSome)) = true) : Crowds s t v := by
  simp only [crowdedOut, victim, ratioBelow, Bool.and_eq_true, List.all_eq_true, List.any_eq_true, Option.any_eq_true, Option.all_eq_true,
    decide_eq_true_eq, Bool.not_eq_true', decide_eq_false_iff_not, List.isEmpty_eq_false_iff] at h
  obtain ⟨⟨⟨⟨a, b⟩, c⟩, d, e⟩, _⟩ := h
  exact ⟨a, b, c, d, e⟩

theorem witness_PreemptionAndRounds :
    crowded.find 1 0 = some crowded.th ∧ crowded.isSaved 1 0 = false ∧ (∃ t ∈ crowded.conts, Crowds crowded t crowded.th) ∧
    run.th.code = .running ∧ run.find 1 0 = some run.th ∧ run.conts = [] ∧ (∀ t ∈ run.slots, t.preempt = none) ∧
    (let s := { runWith (fun t => { t with preempt := some 0 }) with cycle := 600000 }
     s.th.preempt = some 0 ∧ s.th.phase = none ∧ s.entries = [] ∧ s.th.pendTraps = [] ∧ s.th.rfq = [] ∧ s.others = [] ∧ s.th.stall = none ∧
     ∃ m, Saves { s.th with replay := none, code := .ready, wait := 0, liveSet := none } (s.up (fun t => { t with replay := none })) m) ∧
    run.cycle.toNat < run.roundAt + 300000 ∧ ({ run with cycle := 900001 }).roundAt + 300000 ≤ 900001 := by
  refine ⟨?_, ?_, ⟨_, List.mem_singleton.mpr rfl, crowds ?_⟩, ?_, ?_, ?_, ?_, ⟨?_, ?_, ?_, ?_, ?_, ?_, ?_, saves ?_⟩, ?_, ?_⟩ <;> decide +kernel

/-- A forced save while a replay waits in the sequencer between two passes, with a word behind it. -/
theorem witness_PreemptionAndRounds_replay :
    let b := [entry none none none]
    let s := { runWith (fun t => { t with preempt := some 0 }) with
      seqs := entry none none (some (replayOf 2)) :: b
      cycle := 600000 }
    let r := { s with
      th := { s.th with replay := some (replayOf 2), vecBehind := b }
      seqs := s.seqs.filter (fun y => !(y.launch == s.th.launch && y.tid == s.th.tid)) }
    s.entries = entry none none (some (replayOf 2)) :: b ∧ (∀ y ∈ s.entries, y.lane = none) ∧ (replayOf 2).word = 0 ∧ 0 < (replayOf 2).left ∧
      s.th.preempt = some 0 ∧ 0 + 600000 ≤ s.cycle.toNat ∧
      s.th.phase = none ∧ s.th.pendTraps = [] ∧ s.th.rfq = [] ∧ s.th.stall = none ∧
      ∃ m, Saves { r.th with code := .ready, wait := 0, liveSet := none } r m := by
  refine ⟨?_, ?_, ?_, ?_, ?_, ?_, ?_, ?_, ?_, ?_, saves ?_⟩ <;> decide +kernel

/-- R307, R322: the request, a forced save that counts 1, and the end of three rounds. -/
theorem test_preemption :
    (after (.preemptionRequest 1 0) crowded).th.preempt = some 0 ∧
    (let s := after .forcedSave { runWith (fun t => { t with preempt := some 0 }) with cycle := 600000 }
     s.th.code = .exited ∧ s.conts.map (·.pc) = [run.th.pc] ∧ (s.ctx 2).stat.toNat % 2 ^ 16 = 1) ∧
    (let s := after .accountingRound { crowded with cycle := 900001 }
     s.roundAt = 900000 ∧ s.quireCharges = []) := by decide +kernel

/-! ### Registers of the package -/

/-- Queue 5: context 2, tier 0, its ring of 32 slots in HBM, with firmware running; the function that owns it. -/
def aQueue : Queue := { Queue.reset with qbase := BitVec.ofNat 64 (hbm + 0x90000), qlog2 := 12, qsched := 2, qctl := 3, qstat := 1, qown := 3 }
def owned (x : Queue) : State := { run with queues := run.queues.set 5 x, boot := { run.boot with recovery := false } }

theorem witness_FunctionsWriteRegisters_queues :
    (owned aQueue).queue 5 = aQueue ∧ aQueue.qown.toNat % 32 = 3 ∧
    (stateOf aQueue = 1 ∧ 2 ^ (aQueue.qlog2.toNat % 64) / 128 = 32 ∧ fillOf { aQueue with qprod := 32 } = 32 ∧ fillOf { aQueue with qprod := 33 } = 33) ∧
    stateOf { aQueue with qstat := 0 } ≠ 1 ∧
    ((4 : Word).toNat / 4 ≠ 0 ∧ run.boot.recovery = true ∧ (1 : Word).toNat % 2 = 1 ∧ (2 : Word).toNat / 4 = 0 ∧ (2 : Word).toNat % 2 = 0) ∧
    (aQueue.qbase.toNat % 4096 = 0 ∧ 12 ≤ aQueue.qlog2.toNat ∧ aQueue.qlog2.toNat ≤ 30 ∧ ({ aQueue with qbase := 8 } : Queue).qbase.toNat % 4096 ≠ 0 ∧
      ({ aQueue with qlog2 := 11 } : Queue).qlog2.toNat < 12 ∧ 30 < ({ aQueue with qlog2 := 31 } : Queue).qlog2.toNat) ∧
    ((0x7F073F : Word) &&& ~~~0x7F073F = 0 ∧ (0x40 : Word) &&& ~~~0x7F073F ≠ 0 ∧ aQueue.qctl.getLsbD 0 = true ∧
      (3 : Word).setWidth 6 ≠ aQueue.qsched.setWidth 6 ∧ (0x7F0702 : Word).setWidth 6 = aQueue.qsched.setWidth 6) ∧
    (let s := (owned { aQueue with qctl := 0 }).setCtx 2 (fun c => { c with own := 0x23 })
     (s.ctx 2).own.toNat % 32 = 3 ∧ (s.ctx 2).own.getLsbD 5 = true) ∧
    (let s := (owned aQueue).reached
     s.queue 5 = aQueue ∧ s.boot.recovery = false) := by decide +kernel

theorem witness_FunctionsWriteRegisters_reached :
    (0x020000020000 % 8 = 0 ∧ inMmio 0x020000020000 = true) ∧ (0x020000000001 % 8 ≠ 0 ∧ inMmio 0x8000 = false ∧ 0x020000010000 ≤ 0x020000020000) ∧ ((16 : Word).toNat ≤ 16 ∧ 16 < (17 : Word).toNat) ∧
    ((0x30 : Word).toNat / 2 ^ 6 = 0 ∧ (0x30 : Word).toNat % 32 ≤ 16 ∧ (0x40 : Word).toNat / 2 ^ 6 ≠ 0 ∧ 16 < (0x11 : Word).toNat % 32) ∧
    ((0xFFFFFFFFFFC0 : Word) &&& ~~~0xFFFFFFFFFFC0 = 0 ∧ (0x20 : Word) &&& ~~~0xFFFFFFFFFFC0 ≠ 0) := by decide +kernel

/-- R100, R102, R328: a doorbell that fills the ring, one past it, and an enable with BASE not aligned. -/
theorem test_queue_registers :
    ((after (.doorbell 3 5 32) (owned aQueue)).queue 5).qstat = 1 ∧ ((after (.doorbell 3 5 33) (owned aQueue)).queue 5).qstat = 0x402 ∧
    (after (.doorbell 3 5 33) (owned aQueue)).msix = [(3, 5)] ∧ ((after (.doorbell 2 5 1) (owned aQueue)).queue 5).qprod = 0 ∧
    ((after (.registerWrite 3 0x020000000160 1) (owned { aQueue with qbase := 8, qctl := 0, qstat := 0 })).queue 5).qstat = 0x100 := by decide +kernel

/-- Weights, a power island's states, a counter, and a correctable error that a scrub finds. -/
def islands : State :=
  { run with pwr := (run.pwr.set 0 0x318).set 57 0x801, ecc := [.correctable (hbm / 8), .correctable (hbm / 8 + 7), .correctable (hbm / 8 + 8)] }

/-- A value that no reserved bit, no step and no state refuses, and that turns nothing off. -/
theorem not_refused {i : Nat} {v : Word} {s : State}
    (h : v.toNat / 2 ^ 6 % 4 = 0 ∧ v.toNat / 2 ^ 13 = 0 ∧ v.toNat % 4 < 2 ∧ ¬((i % 64 < 48 ∨ 58 ≤ i % 64) ∧ (v.toNat / 4 % 16 = 0 ∨ 8 < v.toNat / 4 % 16)) ∧
      ¬(48 ≤ i % 64 ∧ i % 64 < 58 ∧ v.toNat / 4 % 16 ≠ 0)) : ¬PowerRefused i v s := by
  obtain ⟨a, b, c, d, e⟩ := h
  rintro (h | h | h | h | h | ⟨h, -⟩ | ⟨h, -⟩)
  · exact h a
  · exact h b
  · omega
  · exact d h
  · exact e h
  · omega
  · omega

theorem witness_WeightsPowerAndCounters :
    (∀ n < 8, weightOf 0 n = 0) ∧ (weightOf 0x4001 0 ≠ 0 ∧ 64 * weightOf 0x4001 0 < ((List.range 8).map (weightOf 0x4001)).sum) ∧
    ((∃ n < 8, weightOf 0x3F01 n ≠ 0) ∧ ∀ n < 8, weightOf 0x3F01 n = 0 ∨ ((List.range 8).map (weightOf 0x3F01)).sum ≤ 64 * weightOf 0x3F01 n) ∧
    (islands.pwrctl 0).toNat / 2 ^ 8 % 16 = 3 ∧ islandHeld islands 0 = false ∧
    (let s := { islands with openPhases := [⟨1, 0, 128⟩], domains := islands.domains.set 1 ⟨true, 2, false, 128, 1⟩ }
     islandHeld s 0 = true) ∧ ((2 : BitVec 4).toNat < 3 ∧ 3 ≤ (3 : BitVec 4).toNat) ∧ ¬(48 % 64 < 48 ∨ 58 ≤ 48 % 64) ∧
    (islands.ecc.filter (inScrubLine hbm)).length = 2 ∧ inHbm hbm = true ∧ (islands.ecc.filter (inScrubLine 0)).length = 0 ∧
    (PowerRefused 0 0x40 islands.reached ∧ PowerRefused 0 3 islands.reached ∧ PowerRefused 0 (4 * 9) islands.reached ∧
      PowerRefused 48 4 islands.reached ∧ PowerRefused 0 (2 + 4) islands.reached ∧ ¬PowerRefused 0 (4 * 8) islands.reached ∧
      ¬PowerRefused 48 1 islands.reached) := by
  refine ⟨?_, ?_, ?_, ?_, ?_, ?_, ?_, ?_, ?_, ?_, ?_, .inl ?_, .inr (.inr (.inl ?_)), .inr (.inr (.inr (.inl ?_))),
    .inr (.inr (.inr (.inr (.inl ?_)))), .inr (.inr (.inr (.inr (.inr (.inl ⟨?_, ?_, 0, .inl ?_, .inl ⟨run.th, ?_, ?_, ?_⟩⟩))))), not_refused ?_, not_refused ?_⟩
  all_goals decide +kernel

/-- R326, R334, R336: a change of clock, a throttle to step 2, a scrub that counts 2, and a doorbell that wakes island 57 but
not one of a die's quires. -/
theorem test_power :
    (after (.doorbell 0 5 0) islands).pwrctl 57 = 0x800 ∧
    (after (.doorbell 0 5 0) { islands with pwr := islands.pwr.set 1 0x821 }).pwrctl 1 = 0x821 ∧
    (after (.dvfsChange 0) islands).pwrctl 0 = 0x618 ∧ (after (.throttle 0 2) islands).pwrctl 0 = 0x218 ∧
    (after (.throttle 0 2) islands).rasOf 11 = 1 ∧ (after (.scrub hbm) islands).rasOf 2 = 2 ∧
    (after (.pwrctlStateWrite 0 0 0x46) islands).pwrctl 0 = 0x1318 ∧ (after (.tierwWrite 0 0x3F01) islands).tierw = 0x3F01 := by decide +kernel

/-- Both images refused, by their magic; the state of an attestation, and its address at the end of the host's space.
Whether an image is accepted rests on the free `Config.verifies`, so no image is shown that is. -/
theorem witness_BootAndAttestation :
    run.boot.recovery = true ∧ fwFailure run.boot.flashA ≠ 0 ∧ fwFailure run.boot.flashB ≠ 0 ∧ (owned aQueue).boot.recovery = false ∧
    ((1 : Word).toNat / 8 = 0 ∧ (1 : Word).toNat % 2 = 1 ∧ (8 : Word).toNat / 8 ≠ 0 ∧ run.boot.attst.toNat / 2 % 4 ≠ 1) ∧
    (let s := { run with boot := { run.boot with attst := 2, attaddr := 0x7FFFFFFFF5C0 } }
     s.boot.attst.toNat / 2 % 4 = 1 ∧ s.boot.attaddr.toNat + 2612 ≤ 2 ^ 47 ∧ eccAt s (0x800000000000 + s.boot.attaddr.toNat) 32 = false ∧
       2 ^ 47 < (0x7FFFFFFFF600 : Word).toNat + 2612) := by decide +kernel

/-- R332: an attestation past the host's space. -/
theorem test_attestation :
    (after (.attestationGo 0 1) run).boot.attst = 2 ∧
    (after .attestationReport { run with boot := { run.boot with attst := 2, attaddr := 0x7FFFFFFFF600 } }).boot.attst = 6 ∧
    (after .boot run).boot.bootst = 0x44 := by decide +kernel

/-- Granules 0 and 1 of quire 0 for context 2, 8 for context 3; a quota of 4 and of 316. -/
def resident : State := { run with residents := [⟨2, 0, 0⟩, ⟨2, 0, 1⟩, ⟨3, 0, 8⟩], quotas := [(2, 0, 4), (3, 0, 316)] }
/-- An operation on a count of granules from a first one, for context 2 on quire 0. -/
def granules (op first count : Nat) : Word := BitVec.ofNat 64 (op + 2 * 2 ^ 2 + first * 2 ^ 17 + count * 2 ^ 26)

theorem taken {v : Word} {s : State}
    (h : (s.residents.any (fun r => r.ctx != mapCtx v && r.quire == mapQuire v && decide (mapFirst v ≤ r.granule) && decide (r.granule < mapFirst v + mapCount v))) = true) :
    mapTaken v s := by
  obtain ⟨r, hr, h⟩ := List.any_eq_true.mp h
  simp only [Bool.and_eq_true, bne_iff_ne, beq_iff_eq, decide_eq_true_eq] at h
  exact ⟨r, hr, h.1.1.1, h.1.1.2, h.1.2, h.2⟩

theorem not_taken {v : Word} {s : State}
    (h : (s.residents.any (fun r => r.ctx != mapCtx v && r.quire == mapQuire v && decide (mapFirst v ≤ r.granule) && decide (r.granule < mapFirst v + mapCount v))) = false) :
    ¬mapTaken v s := by
  rintro ⟨r, hr, a, b, c, d⟩
  have := List.any_eq_false.mp h r hr
  simp [a, b, c, d] at this

/-- Values with a reserved field, of each operation, past the end, taken, beyond the quota, both, and free. -/
theorem witness_PrivilegedRegistersAct_residency :
    resmapBad (2 ^ 35) = true ∧
    ([granules 1 0 3, granules 1 319 2, granules 1 8 1, granules 1 20 3, granules 1 6 3, granules 2 0 2, granules 2 319 2, granules 2 8 1, granules 3 0 4,
      granules 3 0 1, granules 3 0 5].all (fun v => !resmapBad v.toNat)) = true ∧
    (320 < mapFirst (granules 1 319 2) + mapCount (granules 1 319 2)) ∧ mapTaken (granules 1 8 1) resident ∧
    (let v := granules 1 8 1
     ¬quotaOf resident (mapCtx v).toNat 0 < residentCount resident (mapCtx v) 0 + (newGranules resident (mapCtx v) 0 8 1).length) ∧
    ¬mapTaken (granules 1 20 3) resident ∧ quotaOf resident 2 0 < residentCount resident 2 0 + (newGranules resident 2 0 20 3).length ∧
    mapTaken (granules 1 6 3) resident ∧ quotaOf resident 2 0 < residentCount resident 2 0 + (newGranules resident 2 0 6 3).length ∧
    ¬mapTaken (granules 1 0 3) resident ∧ ¬quotaOf resident 2 0 < residentCount resident 2 0 + (newGranules resident 2 0 0 3).length ∧
    ¬mapTaken (granules 2 0 2) resident ∧ mapTaken (granules 2 8 1) resident ∧
    ((resident.quotas.filter (fun x => x.2.1 == 0 && x.1 != 2)).map (fun x => x.2.2)).sum = 316 ∧ residentCount resident 2 0 = 2 := by
  refine ⟨?_, ?_, ?_, taken ?_, ?_, not_taken ?_, ?_, taken ?_, ?_, not_taken ?_, ?_, not_taken ?_, taken ?_, ?_, ?_⟩ <;> decide +kernel

/-- R141: the statuses of a mark that goes past the end, is taken, exceeds, and fits, and of quotas. -/
theorem test_residency :
    ([granules 1 319 2, granules 1 8 1, granules 1 20 3, granules 1 0 3].map (fun v => (after (.resmapMark v) resident).resmap.toNat / 2 ^ 62)) = [2, 3, 1, 0] ∧
    (after (.resmapMark (granules 1 0 3)) resident).residents = resident.residents ++ [⟨2, 0, 2⟩] ∧
    ([granules 3 0 4, granules 3 0 1, granules 3 0 5].map (fun v => (after (.resmapSetQuota v) resident).resmap.toNat / 2 ^ 62)) = [0, 1, 1] ∧
    (after (.resmapUnmark (granules 2 0 2)) resident).residents = [⟨3, 0, 8⟩] := by decide +kernel

theorem witness_PrivilegedRegistersAct_system :
    (writeCntwin 0x20000 run = none ∧ writeCntwin 0x0810 run ≠ none ∧ run.asidSel = 0 ∧ ctxBusy run run.asidSel = false ∧
      (0x0810 : Word).toNat / 2 ^ 17 = 0 ∧ (0x0810 : Word).toNat % 2 ^ 8 + (0x0810 : Word).toNat / 2 ^ 8 ≤ 256 ∧
      ∀ c : Ctx, c ≠ run.asidSel → ∀ k < 256, (0x0810 : Word).toNat % 2 ^ 8 ≤ k → k < (0x0810 : Word).toNat % 2 ^ 8 + (0x0810 : Word).toNat / 2 ^ 8 →
        ¬(windowBase run c ≤ k ∧ k < windowBase run c + windowCount run c)) ∧
    ((0x100 : Word).toNat / 2 ^ 8 ≠ 0 ∧ (0xC2 : Word).toNat / 2 ^ 8 = 0 ∧ (0xC2 : Word).getLsbD 7 = true ∧ (0x42 : Word).getLsbD 7 = false) ∧
    (phaseOpen { run with openPhases := [⟨1, 0, 128⟩] } = true ∧ phaseOpen run = false ∧
      BitVec.ofNat 64 (hbm + 0x80000) &&& ~~~0x0000FFFFFFFFF000 = 0 ∧ (1 : Word) &&& ~~~0x0000FFFFFFFFF000 ≠ 0) ∧
    (stalled (.whistle 3 0) id).th.stall = some (.whistle 3 0) ∧ run.th.code = .running ∧ (127 : Word).toNat < 128 := by
  refine ⟨⟨?_, ?_, ?_, ?_, ?_, ?_, ?_⟩, ?_, ?_, ?_, ?_, ?_⟩ <;> decide +kernel

/-- R54, R56, R57, R285: a window's counters, a context selected and enabled, PRIO, and an arrival withdrawn. -/
theorem test_system_registers :
    (after (.cntwinWrite 0x0810) { run with counters := [(16, 5), (23, 6), (24, 7)] }).counters = [(24, 7)] ∧
    (after (.asidctlWrite 0x42) run).asidSel = 2 ∧ ((after (.asidctlWrite 0x42) run).ctx 2).enable = true ∧
    (after (.prioWrite 127) (runWith (fun t => { t with queuePrio := 9 }))).th.prio = 9 ∧
    (after (.bdtabWrite (BitVec.ofNat 64 (hbm + 0x80000))) (stalled (.whistle 3 0) id)).th.pendTraps = [⟨.outOfSlot, false, 0x309, none, false⟩] := by decide +kernel

/-! ### Launch queues -/

/-- Queue 5 with `n` slots filled, the packet `w` at its head; the word at `hbm + 0x1000` is 7. -/
def posted (w n : Nat) : State :=
  let s := owned { aQueue with qprod := BitVec.ofNat 64 n }
  { s with mem := (s.mem.writeNat (hbm + 0x90000) 128 w).writeNat (hbm + 0x1000) 8 7 }
/-- A packet of a type: an address and a value, or a launch's fields. -/
def packet (type : Nat) (w : Nat) : Nat := 0x14C51 + type * 2 ^ 32 + w
/-- A word to wait for or to store, at `hbm + off`. -/
def wordOf (off value : Nat) : Nat := (hbm + off) * 2 ^ 64 + value * 2 ^ 128

/-- The launch of `launched`, changed. -/
theorem witness_PacketsAct_headers :
    (posted (packet 4 0) 1).queue 5 = { aQueue with qprod := 1 } ∧ packetSlot (posted (packet 4 0) 1) { aQueue with qprod := 1 } 0 = packet 4 0 ∧
    (¬Present (posted (packet 4 0) 0) { aQueue with qprod := 0 } ∧ Present (posted (packet 4 0) 1) { aQueue with qprod := 1 }) ∧
    (GoodHeader (packet 4 0) ∧ ¬GoodHeader (packet 4 0 + 2 ^ 26) ∧ ¬GoodHeader 0 ∧ Present (posted 0 1) { aQueue with qprod := 1 }) ∧
    (GoodHeader (packet 0 0) ∧ GoodHeader (packet 5 0) ∧ typeOf (packet 0 0) = 0 ∧ 4 < typeOf (packet 5 0)) ∧
    (∀ k ∈ [1, 2, 3, 4], typeOf (packet k 0) = k ∧ GoodHeader (packet k 0)) ∧
    (packet 4 (2 ^ 40) / 2 ^ 40 % 2 ^ 24 ≠ 0 ∧ packet 4 (2 ^ 192) / 2 ^ 192 ≠ 0 ∧ packet 4 (2 ^ 24) / 2 ^ 24 % 4 ≠ 0 ∧ packet 3 (2 ^ 64) / 2 ^ 64 % 8 ≠ 0 ∧
      Present (posted (packet 4 (2 ^ 24)) 2) { aQueue with qprod := 2 }) := by
  unfold Present GoodHeader
  decide +kernel

/-- An address that is no memory, one whose word is wrong, and a word that is reached and one that is not. -/
theorem witness_PacketsAct_words :
    (∀ v ∈ [packet 2 (wordOf 0x1000 7), packet 3 (wordOf 0x1000 7), packet 4 0],
      v / 2 ^ 40 % 2 ^ 24 = 0 ∧ v / 2 ^ 192 = 0 ∧ v / 2 ^ 24 % 4 = 0 ∧ v / 2 ^ 64 % 8 = 0) ∧
    ((match walk run 2 0x00F000000000 .load, walk run 2 0x00F000000000 .store with | .fault _, .fault _ => true | _, _ => false) = true) ∧
    ((∀ acc ∈ [Access.load, .store], walk (posted 0 1) 2 (hbm + 0x1000) acc = .ok (hbm + 0x1000) (hbm + 0x1000) 12 true true) ∧
      inMmio (hbm + 0x1000) = false ∧ (posted 0 1).racing = .off) ∧
    (eccAt { posted 0 1 with ecc := [.memory ((hbm + 0x1000) / 8)] } (hbm + 0x1000) 8 = true ∧ eccAt (posted 0 1) (hbm + 0x1000) 8 = false) ∧
    ((posted 0 1).mem.readNat (hbm + 0x1000) 8 = 7 ∧ packet 2 (wordOf 0x1000 7) / 2 ^ 128 = 7 ∧ packet 2 (wordOf 0x1000 8) / 2 ^ 128 = 8) ∧
    (walk { paged id with queues := (owned aQueue).queues } 2 (hbm + 2 ^ 30) .load = .park ∧
      ParksSince { paged id with queues := (owned { aQueue with parkedAt := some ((hbm + 2 ^ 30) / 4096, 0) }).queues } 5 (hbm + 2 ^ 30) 0 ∧
      0 + 12000000 ≤ (paged id).cycle.toNat ∧ ParksSince (owned aQueue) 5 (hbm + 2 ^ 30) (owned aQueue).cycle.toNat) ∧
    ((∃ l ∈ (ending (fun l => { l with queue := 5 })).launches, l.queue = 5) ∧
      ∀ l ∈ (posted 0 1).launches, l.queue ≠ 5) := by
  unfold ParksSince
  decide +kernel

/-- R99, R101, R302: a NOP passes, a store and a wait that is reached, and a header that is wrong. -/
theorem test_packets :
    ((after (.noOp 5) (posted (packet 4 0) 1)).queue 5).qcons = 1 ∧
    ((after (.valueWrite 5) (posted (packet 3 (wordOf 0x1008 9)) 1)).mem.readNat (hbm + 0x1008) 8 = 9) ∧
    ((after (.counterWait 5) (posted (packet 2 (wordOf 0x1000 7)) 1)).queue 5).qcons = 1 ∧
    ((after (.counterWait 5) (posted (packet 2 (wordOf 0x1000 8)) 1)).queue 5).qcons = 0 ∧
    ((after (.noOp 5) (posted (packet 5 0) 1)).queue 5).qstat = 0x302 := by decide +kernel

/-- A launch packet in queue 5, its other fields by offset and size: one thread of 163,712 private bytes, of the object at `hbm + 0x8000`. -/
def launching (l : List (Nat × Nat × Nat)) : State :=
  let s := posted (packet 1 0) 1
  let fields := [(8, 8, hbm + 0x8000), (16, 8, hbm + 0xA000), (24, 4, 64), (28, 4, 1), (40, 4, 163712)] ++ l
  { s with mem := fields.foldl (fun m x => m.writeNat (hbm + 0x90000 + x.1) x.2.1 x.2.2) s.mem }
def slotOf (s : State) : Nat := packetSlot s { aQueue with qprod := 1 } 0

theorem witness_LaunchesRun_packets :
    (let s := launching []
     s.queue 5 = { aQueue with qprod := 1 } ∧ Present s { aQueue with qprod := 1 } ∧ GoodHeader (slotOf s) ∧ typeOf (slotOf s) = 1 ∧
       launchOk (slotOf s) = true ∧ (s.ctx 2).enable = false ∧ statusParks 2 0 s = false ∧ s.taken = none ∧
       makeLaunch 5 (slotOf s) (launchTouched 5 (slotOf s) (ringWoken { aQueue with qprod := 1 } s)) = .error (.inl 8)) ∧
    (∀ l ∈ [[(28, 4, 0)], [(5, 1, 1)], [(42, 4, 0x12)], [(28, 4, 2 ^ 32 - 1)], [(24, 4, 1048577)], [(8, 8, 1)], [(16, 8, 8)], [(40, 4, 63)], [(72, 8, 1)]],
      Present (launching l) { aQueue with qprod := 1 } ∧ launchOk (slotOf (launching l)) = false) := by
  unfold Present GoodHeader
  refine ⟨⟨?_, ?_, ?_, ?_, ?_, ?_, ?_, ?_, error_of ?_⟩, ?_⟩ <;> decide +kernel

theorem witness_LaunchesRun_order :
    tierWeight ({ launching [] with tierw := 0x100 }).tierw ((launching []).queue 5).tier = 0 ∧
    (let s := launching []
     let t := { s with queues := s.queues.set 6 { aQueue with qprod := 1, qsched := 0x10002 } }
     Precedes t 6 5 ∧ launchReady t 6 = true ∧ tierWeight s.tierw 0 ≠ 0 ∧ s.huddles.length < 4096) := by
  unfold Precedes
  decide +kernel

/-- No other queue of `launching []` has a packet. -/
theorem witness_LaunchesRun_first (a : Nat) (h : a ≠ 5) : launchReady (launching []) a = false := by
  have q : (launching []).queue a = Queue.reset := by
    unfold State.queue
    split
    · rename_i l
      have e : (launching []).queues = run.queues.set 5 { aQueue with qprod := 1 } := rfl
      rw [getElem_congr_coll e, Vector.getElem_set_ne _ _ (fun x => h x.symm)]
      exact Vector.getElem_replicate _
    · rfl
  unfold launchReady packetPresent
  rw [q]
  rfl

theorem witness_LaunchesRun_ends :
    (∃ l, (ending (fun l => { l with live := 1 })).launches.find? (fun k => k.num == 1) = some l ∧ l.live ≠ 0) ∧
    (let s := ending (fun l => { l with live := 0, stat := hbm + 0x1000 })
     ∃ l, s.launches.find? (fun k => k.num == 1) = some l ∧ l.live = 0 ∧ s.jobs = [] ∧
       statusParks l.ctx l.stat s = false ∧ physOf s l.ctx l.stat .store = some (hbm + 0x1000)) ∧
    (let s := { paged id with launches := (ending (fun l => { l with live := 0, stat := hbm + 2 ^ 30 })).launches }
     ∃ l, s.launches.find? (fun k => k.num == 1) = some l ∧ l.live = 0 ∧ statusParks l.ctx l.stat s = true ∧
       s.cycle.toNat < l.statParked.getD s.cycle.toNat + 12000000) ∧
    (let s := { paged id with launches := (ending (fun l => { l with live := 0, stat := hbm + 2 ^ 30, statParked := some 0 })).launches }
     ∃ l, s.launches.find? (fun k => k.num == 1) = some l ∧ l.live = 0 ∧ l.statParked.getD s.cycle.toNat + 12000000 ≤ s.cycle.toNat) ∧
    (let s := { ending (fun l => { l with live := 0 }) with jobs := [aJob 3] }
     ∃ l, s.launches.find? (fun k => k.num == 1) = some l ∧ l.live = 0 ∧ (∃ j ∈ s.jobs, j.launch = l.num ∧ j.stage ≠ .ended) ∧ l.stat = 0) := by
  refine ⟨⟨_, rfl, ?_⟩, ⟨_, rfl, ?_⟩, ⟨_, rfl, ?_⟩, ⟨_, rfl, ?_⟩, ⟨_, rfl, ?_⟩⟩ <;> decide +kernel

/-- R303, R305, R321: the status word of a launch with two faults; a packet of no threads halts its queue. -/
theorem test_launch_ends :
    (after (.launchStatusWrite 1) (ending (fun l => { l with live := 0, stat := hbm + 0x1000, faults := 2, rounded := true }))).mem.readNat
      (hbm + 0x1000) 8 = 0x200000101 ∧
    (after (.launchStatusWrite 1) (ending (fun l => { l with live := 0 }))).launches.length = 0 ∧
    ((after (.launchPacket 5) (launching [(28, 4, 0)])).queue 5).qstat = 0x202 := by decide +kernel

/-! A private region as long as its core region has one place, whatever `Config.freeNat` is. -/

theorem usable_base {s : State} {l : Launch} {q c b : Nat} (hp : l.privb = coreRegion) (h : regionUsable s l q c b = true) : b = regionBase q c := by
  simp only [regionUsable, rangeFree, hp, Bool.and_eq_true, decide_eq_true_eq] at h
  omega

theorem first_place {us : Nat → Nat → Bool} {rb : Nat → Nat} {cands : Nat → List Nat} (hb : ∀ c b, us c b = true → b = rb c)
    (hc : ∃ r, cands 0 = rb 0 :: r) (h0 : us 0 (rb 0) = true) (cs : List Nat) (c b : Nat) (hm : c ∈ 0 :: cs → us c b = true → c = 0) :
    (if (0 :: cs).contains c && us c b then some (c, b)
      else ((0 :: cs).flatMap (fun c => (cands c).map (fun b => (c, b)))).find? (fun x => us x.1 x.2)) = some (0, rb 0) := by
  split
  · rename_i h
    simp only [Bool.and_eq_true, List.contains_iff_mem] at h
    have z := hm h.1 h.2
    rw [hb c b h.2, z]
  · obtain ⟨r, hr⟩ := hc
    simp only [List.flatMap_cons, hr, List.map_cons, List.cons_append, List.find?_cons, h0]

theorem only_region {s : State} {l : Launch} {q : Nat} (core : Option Nat) (hp : l.privb = coreRegion)
    (hf : (candidateStarts s q 0).head? = some (regionBase q 0))
    (h0 : regionUsable s l q 0 (regionBase q 0) = true)
    (hc : core = some 0 ∨ (core = none ∧ ∀ c < 8, c ≠ 0 → copyIn l q c = none)) :
    findRegion s l q core = some (0, regionBase q 0) := by
  have hb : ∀ c b, regionUsable s l q c b = true → b = regionBase q c := fun _ _ => usable_base hp
  have hs : ∃ r, candidateStarts s q 0 = regionBase q 0 :: r := by
    cases e : candidateStarts s q 0 with
    | nil => rw [e] at hf; cases hf
    | cons x r => rw [e] at hf; cases hf; exact ⟨r, rfl⟩
  have hn : core = none → ∀ c b, c < 8 → regionUsable s l q c b = true → c = 0 := by
    rintro rfl c b h8 hu
    by_cases hz : c = 0
    · exact hz
    · rcases hc with h | ⟨-, hn⟩
      · cases h
      · simp [regionUsable, hn c h8 hz] at hu
  have hr : List.range 8 = 0 :: [1, 2, 3, 4, 5, 6, 7] := rfl
  unfold findRegion
  generalize regionBase q = rb at *
  generalize candidateStarts s q = cands at *
  generalize regionUsable s l q = us at *
  generalize Config.freeNat s.free = x
  rcases hc with rfl | ⟨rfl, -⟩ <;> dsimp only
  · exact first_place hb hs h0 [] _ _ (fun h _ => by simpa using h)
  · rw [hr]
    refine first_place hb hs h0 _ _ _ (fun h hu => hn rfl _ _ ?_ hu)
    simp only [List.mem_cons, List.not_mem_nil, or_false] at h
    omega

/-- A launch whose threads' private region is all of core 0's, which alone has a copy of the shape table, of no shapes. -/
def roomy : State := ending (fun l => { l with privb := coreRegion, nshape := 0, vregs := 0, gran := 1, regions := [], copies := [(0, 0, 0)] })

theorem kept {launch q : Nat} {bs : List Byte} {s : State} {l : Launch} (h : s.launches.find? (·.num == launch) = some l)
    (hc : hasCopies l q = true) : reserveCopies launch q bs s = some s := by
  unfold reserveCopies
  rw [h]
  simp [hc]

/-- The launch of `roomy`. -/
def roomyLaunch : Launch := ⟨1, 2, 0, 0, 127, 0, none, false, false, 0, 1, 1, 0, coreRegion, 0, 0, 1, hbm, 0, true, [], [(0, 0, 0)]⟩

/-- `roomy` with pool pages in the GiB of context 2 that migrates; the slices are mapped as they are. -/
def parked : State :=
  { (paged id).setCtx 2 (fun c => { c with
      poolbase := BitVec.ofNat 64 (hbm + 2 ^ 30)
      poolcnt := 2
      used := [0] }) with
    mem := (((paged id).mem.writeNat (hbm + 0x71000) 8 (hbm + 0x73001)).writeNat (hbm + 0x73000) 8 (hbm + 0x74001)).writeNat
      (hbm + 0x74000) 8 0xF
    launches := roomy.launches }

theorem room_found {s : State} (h1 : s.launches.find? (·.num == s.th.launch) = some roomyLaunch)
    (h2 : freeEntry (s.ctx s.th.ctx) = some 1) (h3 : homeOfReg s s.th.ctx (reg [1, 2] s 1) s.th.quire = 0)
    (h5 : findRegion s roomyLaunch 0 none = some (0, 0)) :
    spawnRoom (reg [1, 2] s 1) s = (some (1, roomyLaunch, 0, 0, 0), s) := by
  have h4 : reserveCopies roomyLaunch.num 0 (shapeBytes s roomyLaunch) s = some s := by
    have : roomyLaunch.num = s.th.launch := by simpa using (List.find?_some h1)
    rw [this]
    exact kept h1 rfl
  unfold spawnRoom
  dsimp only
  rw [h1, h2]
  dsimp only
  rw [h3, h4]
  dsimp only
  rw [h1]
  dsimp only
  rw [h5]
  rfl

/-- SPAWN finds room for its thread; where its pool page migrates it waits. -/
theorem witness_SpawnCreates_created : popped [1, 2] roomy = roomy ∧ spawnPark (reg [1, 2] roomy 1) roomy = none ∧
    spawnFaults (reg [1, 2] roomy 1) roomy = false ∧ (spawnRoom (reg [1, 2] roomy 1) roomy).1 ≠ none ∧
    spawnPark (reg [1, 2] parked 1) (popped [1, 2] parked) = some (hbm + 2 ^ 30 + 64) := by
  have h := room_found (s := roomy) rfl (by decide +kernel) (by decide +kernel)
    (only_region none rfl (by decide +kernel) (by decide +kernel) (.inr ⟨rfl, by decide +kernel⟩))
  have k := room_found (s := parked) rfl (by decide +kernel) (by decide +kernel)
    (only_region none rfl (by decide +kernel) (by decide +kernel) (.inr ⟨rfl, by decide +kernel⟩))
  refine ⟨rfl, ?_, ?_, ?_, ?_⟩
  · rw [spawnPark, h]; decide +kernel
  · rw [spawnFaults, h]; decide +kernel
  · rw [h]; decide +kernel
  · rw [spawnPark, show popped [1, 2] parked = parked from rfl, k]; decide +kernel

/-- Context 2 with tables that map HBM's first GiB and the first 2 MiB of the slices to themselves; queue 5 holds a launch
of one thread, pinned to core 0 of quire 0, of an object without shapes. -/
def launchable : State :=
  let s := launching [(40, 4, coreRegion), (56, 8, hbm + 0xB000)]
  let tables := [(0x1F0000, 0x1F1001), (0x1F1000, 0x1F3001), (0x1F1010, 0x1F2001), (0x1F2000, hbm + 0xF), (0x1F3000, 0x1F4001), (0x1F4000, 0xF)]
  let words := [(0x8000, 0x4B584548 + 2 ^ 32 + 8 * 2 ^ 40 + 10 * 2 ^ 56), (0x8008, 128), (0x8010, 256), (0x8018, 320),
    (0x8020, 384), (0xB000, 0x8000)]
  { s.setCtx 2 (fun c => { c with
      enable := true
      ptroot := 0x1F0000
      poolbase := BitVec.ofNat 64 (hbm + 0x60000)
      poolcnt := 2 }) with
    mem := words.foldl (fun m x => m.writeNat (hbm + x.1) 8 x.2) (tables.foldl (fun m x => m.writeNat x.1 8 x.2) s.mem) }

theorem some_getD {α : Type} {x : Option α} (d : α) (h : x.isSome = true) : x = some (x.getD d) := by
  cases x
  · cases h
  · rfl

/-- Its object's header, its launch, and the state with the copies of its shape table. -/
def header : Nat := 0x1800000000000000140000000000000010000000000000000800a0008014b584548
def entered : State := enterLaunch (newLaunch 5 (slotOf launchable) header launchable) launchable
def copied : State := (reserveCopies (newLaunch 5 (slotOf launchable) header launchable).num 0 [] entered).getD entered
def theLaunch : Launch := (copied.launches.find? (·.num == (newLaunch 5 (slotOf launchable) header launchable).num)).getD roomyLaunch

theorem its_thread : ∃ t, createThread 5 2 (slotOf launchable) header (newLaunch 5 (slotOf launchable) header launchable).num [] 0 entered = .ok t := by
  have h1 : homeOf 5 2 (slotOf launchable) 0 entered = .ok (0, some (0, 0)) := ok_of (by decide +kernel)
  have h2 : refuseIf ((some (0, 0) : Option (Nat × Nat)).isSome && entered.boot.disabled.contains 0) 11 = .ok () := ok_unit (by decide +kernel)
  have h3 : reserveCopies (newLaunch 5 (slotOf launchable) header launchable).num 0 [] entered = some copied := some_getD _ (by decide +kernel)
  have h4 : copied.launches.find? (·.num == (newLaunch 5 (slotOf launchable) header launchable).num) = some theLaunch :=
    some_getD _ (by decide +kernel)
  have h5 : freeEntry (copied.ctx 2) = some 0 := by decide +kernel
  have h6 : findRegion copied theLaunch 0 ((some (0, 0) : Option (Nat × Nat)).map (·.1)) = some (0, 0) :=
    only_region _ (by decide +kernel) (by decide +kernel) (by decide +kernel) (.inl rfl)
  refine ok_exists ?_
  unfold createThread
  rw [h1]
  simp only [Except.bind, bind, h2]
  rw [h3]
  dsimp only
  rw [h4, h5]
  dsimp only
  rw [h6]
  decide +kernel

/-- A launch whose object lies in a page that migrates, and one that is refused, with a status word there. -/
def parking : State :=
  { launchable with mem := (launchable.mem.writeNat (hbm + 0x90008) 8 (hbm + 2 ^ 30)).writeNat 0x1F2008 8 (hbm + 2 ^ 30 + 0x2F) }
def refusing : State :=
  { parking with mem := ((parking.mem.writeNat (hbm + 0x90008) 8 (hbm + 0x8000)).writeNat (hbm + 0x90040) 8 (hbm + 2 ^ 30)).writeNat (hbm + 0x8000) 8 0 }

theorem its_object : lpRead 5 2 (lpKobj (slotOf launchable)) 64 launchable = .ok header ∧
    lpRead 5 2 (lpKobj (slotOf launchable) + koShapetab header) (128 * min (koNshape header) 256) launchable = .ok 0 ∧
    toBytesLE (128 * min (koNshape header) 256) 0 = [] ∧ headerChecks header 0 = .ok () ∧
    variantCheck 5 2 (slotOf launchable) header launchable = .ok () ∧ argCheck 5 2 (slotOf launchable) launchable = .ok () :=
  ⟨ok_of (by decide +kernel), ok_of (by decide +kernel), by decide +kernel, ok_unit (by decide +kernel), ok_unit (by decide +kernel),
    ok_unit (by decide +kernel)⟩

theorem its_packet : (launchable.queue 5).ctx = 2 ∧ lpNthr (slotOf launchable) = 1 ∧ inlineBytes launchable (launchable.queue 5) = [] ∧
    refuseIf (!(launchable.ctx 2).enable) 8 = .ok () ∧
    inlineCheck 5 2 (slotOf launchable) (128 * packetLen (slotOf launchable)) launchable = .ok () ∧
    refuseIf (decide (freeEntries (launchable.ctx 2) < 1) || decide (163840 < lpPrivb (slotOf launchable) + 128 * koNshape header)) 11 = .ok () ∧
    placeChecks 5 2 (slotOf launchable) launchable = .ok () :=
  ⟨by decide +kernel, by decide +kernel, by decide +kernel, ok_unit (by decide +kernel), ok_unit (by decide +kernel), ok_unit (by decide +kernel),
    ok_unit (by decide +kernel)⟩

theorem makes {q w h num : Nat} {c : Ctx} {s e t : State} (hc : (s.queue q).ctx = c) (hn : num = (newLaunch q w h s).num)
    (he : e = enterLaunch (newLaunch q w h s) s) (r1 : refuseIf (!(s.ctx c).enable) 8 = .ok ()) (h1 : lpRead q c (lpKobj w) 64 s = .ok h)
    (h2 : lpRead q c (lpKobj w + koShapetab h) (128 * min (koNshape h) 256) s = .ok 0) (h3 : toBytesLE (128 * min (koNshape h) 256) 0 = [])
    (r2 : headerChecks h 0 = .ok ()) (r3 : variantCheck q c w h s = .ok ()) (ra : argCheck q c w s = .ok ()) (r4 : inlineCheck q c w (128 * packetLen w) s = .ok ())
    (h4 : lpNthr w = 1) (h5 : inlineBytes s (s.queue q) = [])
    (r5 : refuseIf (decide (freeEntries (s.ctx c) < 1) || decide (163840 < lpPrivb w + 128 * koNshape h)) 11 = .ok ())
    (r6 : placeChecks q c w s = .ok ()) (r7 : createThread q c w h num [] 0 e = .ok t) : ∃ r, makeLaunch q w s = .ok r := by
  subst hn he
  unfold makeLaunch
  simp only [hc, r1, h1, h2, r2, r3, ra, r4, h4, r5, r6, h3, r7, h5, createThreads, Except.bind, bind, ctxStoreBytes]
  exact ⟨t, rfl⟩

/-- Nothing is in retention. -/
def allAwake (s : State) : Bool := (List.range 256).all (fun i => bits (s.pwrctl i).toNat 1 0 != 1)

theorem wake_all {s : State} (h : allAwake s = true) (l : List Nat) : s.wake l = s := by
  refine wake_awake (fun i _ => ?_)
  by_cases hi : i < 256
  · exact of_decide_eq_true (by simpa [bne] using List.all_eq_true.mp h i (List.mem_range.mpr hi))
  · simp [State.pwrctl, hi, bits]

/-- An access to one address is not to the host window. -/
def quiet (c : Ctx) (acc : Access) (s : State) (va : Nat) : Bool := match walk s c va acc with | .ok pa _ _ _ _ => !inHost pa | _ => true

theorem range_quiet {c : Ctx} {acc : Access} {s : State} (h : allAwake s = true) (va n : Nat)
    (hq : (pagesOf va n).all (fun p => quiet c acc s (max va p)) = true) : touchRange c acc va n s = s := by
  have one : ∀ a, quiet c acc s a = true → touchVa c acc a s = s := by
    intro a ha
    have hw : s.wakeWalk c a = s := by unfold State.wakeWalk; split <;> simp [wake_all h]
    unfold quiet at ha
    unfold touchVa
    rw [hw]
    cases hk : walk s c a acc <;> rw [hk] at ha <;> simp_all [State.touch, wake_all h]
  unfold touchRange
  generalize pagesOf va n = l at hq
  induction l with
  | nil => rfl
  | cons p l ih =>
    rw [List.all_cons, Bool.and_eq_true] at hq
    rw [List.foldl_cons, one _ hq.1]
    exact ih hq.2

/-- What the command processor reaches for a launch is awake, and none of it in the host window. -/
def launchQuiet (q w : Nat) (s : State) : Bool :=
  allAwake s && (launchReads (s.queue q).ctx w s).all (fun x => (pagesOf x.1 x.2).all (fun p => quiet (s.queue q).ctx .load s (max x.1 p))) &&
    (pagesOf (lpArg w) (128 * packetLen w)).all (fun p => quiet (s.queue q).ctx .store s (max (lpArg w) p))

theorem touched_quiet {q w : Nat} {s : State} (h : launchQuiet q w s = true) (x : Queue) : launchTouched q w (ringWoken x s) = s := by
  simp only [launchQuiet, Bool.and_eq_true] at h
  obtain ⟨⟨a, r⟩, t⟩ := h
  have k : ∀ l : List (Nat × Nat), l.all (fun x => (pagesOf x.1 x.2).all (fun p => quiet (s.queue q).ctx .load s (max x.1 p))) = true →
      l.foldl (fun u x => touchRange (s.queue q).ctx .load x.1 x.2 u) s = s := by
    intro l
    induction l with
    | nil => intro _; rfl
    | cons y l ih =>
      intro hl
      rw [List.all_cons, Bool.and_eq_true] at hl
      rw [List.foldl_cons, range_quiet a _ _ hl.1]
      exact ih hl.2
  rw [show ringWoken x s = s from wake_all a _]
  unfold launchTouched
  dsimp only
  rw [k _ r]
  split
  · exact range_quiet a _ _ t
  · rfl

/-- So it is for each of the launches below: what is examined is the state itself. -/
theorem launches_quiet : ∀ s ∈ [launchable, parking, refusing], ∀ x, launchTouched 5 (slotOf s) (ringWoken x s) = s := by
  intro s hs x
  refine touched_quiet ?_ x
  revert s
  decide +kernel

theorem it_is_made : ∃ r, makeLaunch 5 (slotOf launchable) launchable = .ok r := by
  obtain ⟨h1, h2, h3, r2, r3, ra⟩ := its_object
  obtain ⟨c, h4, h5, r1, r4, r5, r6⟩ := its_packet
  obtain ⟨t, r7⟩ := its_thread
  exact makes c (Eq.refl _) (Eq.refl _) r1 h1 h2 h3 r2 r3 ra r4 h4 h5 r5 r6 r7

/-- A launch that is made: its packet is first in its order, and the bytes of the object are there. -/
theorem witness_LaunchesRun_created :
    (∃ r, makeLaunch 5 (slotOf launchable) launchable = .ok r) ∧ Present launchable (launchable.queue 5) ∧ launchOk (slotOf launchable) = true ∧
    tierWeight launchable.tierw (launchable.queue 5).tier ≠ 0 ∧ launchable.huddles.length < 4096 ∧
    (∃ bs, ctxLoadBytes launchable 2 (slotOf launchable / 2 ^ 64 % 2 ^ 64) 64 = some bs) :=
  ⟨it_is_made, by unfold Present; decide +kernel, by decide +kernel, by decide +kernel, by decide +kernel, some_exists (by decide +kernel)⟩

/-- A launch that is held: its object's page migrates, or the page of the status word of its refusal. -/
theorem witness_LaunchesRun_held :
    makeLaunch 5 (slotOf parking) parking = .error (.inr (hbm + 2 ^ 30)) ∧ ParksSince parking 5 (hbm + 2 ^ 30) parking.cycle.toNat ∧
    launchOk (slotOf parking) = true ∧ launchOk (slotOf refusing) = true ∧
    (match makeLaunch 5 (slotOf refusing) refusing with | .error (.inl _) => true | _ => false) = true ∧
    slotOf refusing / 2 ^ 512 % 2 ^ 64 = hbm + 2 ^ 30 ∧ statusParks 2 (hbm + 2 ^ 30) refusing = true ∧
    ParksSince refusing 5 (hbm + 2 ^ 30) refusing.cycle.toNat ∧ refusing.cycle.toNat < refusing.cycle.toNat + 12000000 := by
  unfold ParksSince
  refine ⟨error_of ?_, ?_, ?_, ?_, ?_, ?_, ?_, ?_, ?_⟩ <;> decide +kernel

/-! ### Collectives -/

/-- A die of this package, and one of package 5. -/
def here : Member := ⟨0, 0⟩
def there : Member := ⟨5, 1⟩
/-- The Referee of this package, with some numbers open. -/
def refereed (last acked : Nat) (opens : List Kickoff) : State :=
  { run with referee := { run.referee with role := .primary, last := last, acked := acked, opens := opens } }
/-- Number 9 of the pair 1, 2, which one member has registered. -/
def kickoff : Kickoff := ⟨9, 1, 2, [here, there], [here], [], 0, false, none⟩
/-- A COLL of the pair that is registered: an op that moves two blocks of 8 elements of 32 bits. -/
def gathering : Job :=
  { aJob 0x30000 with
    cls := 3
    cmd := .coll { tile0 with cls := 3, x := 8, y := 9, w := 11, w4 := 0x22, w5 := 2 }
    tile := { tile0 with cls := 3, x := 8, y := 9, w := 11, w4 := 0x22, w5 := 2 }
    members := [{ aMember with regs := [mega 0x1000, mega 0x2000, Reg.ofData 50, mega 0x3000] }]
    stage := .registered
    comm := some ⟨1, 0, [here, there], 64, 128, 8⟩ }

/-- A package that is no primary; a first registration, here, elsewhere, and with numbers exhausted. -/
theorem witness_RefereeDecides_first :
    run.referee.role ≠ .primary ∧ here.pkg = run.pkgid ∧ waitingJob run here.die.toNat 1 2 = none ∧ there.pkg ≠ run.pkgid ∧
    (let s := { refereed 9 9 [] with jobs := [gathering] }
     (10 : BitVec 32) = BitVec.ofNat 32 (s.referee.last + 1) ∧ waitingJob s here.die.toNat 1 2 = some gathering ∧ gathering.group.members = [here, there] ∧
       (10 + 2 ^ 32 - s.referee.acked % 2 ^ 32) % 2 ^ 32 ≤ 2 ^ 16 - 1) ∧
    (let s := refereed 70000 0 []
     2 ^ 16 - 1 < ((BitVec.ofNat 32 (s.referee.last + 1)).toNat + 2 ^ 32 - s.referee.acked % 2 ^ 32) % 2 ^ 32) ∧
    ((refereed 9 9 []).engineNums = [] ∧ ∀ k ∈ (refereed 9 9 [kickoff]).referee.opens, k.commid ≠ 1 ∨ k.key ≠ 3) := by decide +kernel

/-- A second registration: a member twice, the last one, one of three, and one of a cancelled number; its other ends. -/
theorem witness_RefereeDecides_open :
    (∀ k ∈ [kickoff, { kickoff with members := [here, there, ⟨6, 0⟩] }, { kickoff with cancelled := some 0 }, { kickoff with deadline := 5 },
        { kickoff with started := true, registered := [here, there], reported := [there, here] }, { kickoff with registered := [there] }],
      OpenNumber (refereed 9 9 [k]) k ∧ (refereed 9 9 [k]).referee.role = .primary) ∧
    there ∈ ({ kickoff with registered := [there] } : Kickoff).registered ∧ there ∉ kickoff.registered ∧ kickoff.started = false ∧
    (∀ m ∈ kickoff.members, m ∈ kickoff.registered ++ [there]) ∧
    ¬(∀ m ∈ ({ kickoff with members := [here, there, ⟨6, 0⟩] } : Kickoff).members, m ∈ kickoff.registered ++ [there]) ∧
    (let s := { refereed 9 9 [{ kickoff with deadline := 5 }] with time := 6, collcanst := 3, collcan := 0x200000001 }
     (5 : Word).toNat < s.now ∧ s.collcanst = 3 ∧ s.collcan.toNat = (1 : BitVec 32).toNat + (2 : BitVec 32).toNat * 2 ^ 32) ∧
    (run.now ≤ (5 : Word).toNat ∧ run.cycle.toNat < 0 + 1200000000 ∧ 0 + 1200000000 ≤ ({ run with cycle := 1200000000 }).cycle.toNat) ∧
    (∀ m ∈ kickoff.members, m ∈ ({ kickoff with reported := [there, here] } : Kickoff).reported) ∧ here ∉ kickoff.reported := by
  unfold OpenNumber
  decide +kernel

/-- A member of this package with its job: first past its deadline, and then again to a number that has started and to one that
was cancelled; and a member elsewhere to a number whose deadline has passed, with another still to come and as the last one. -/
theorem witness_RefereeDecides_own :
    (let j := { gathering with deadline := 5 }
     let s := { refereed 9 9 [] with jobs := [j], time := 6 }
     waitingJob s here.die.toNat 1 2 = some j ∧ j.group.members = [here, there] ∧ j.deadline = 5 ∧ (5 : Word).toNat < s.now ∧ s.jobOf j.id = some j) ∧
    (∀ k ∈ [{ kickoff with started := true }, { kickoff with cancelled := some 0 }], let s := { refereed 9 9 [k] with jobs := [gathering] }
     OpenNumber s k ∧ waitingJob s here.die.toNat 1 2 = some gathering ∧ gathering.deadline = 0 ∧ s.jobOf gathering.id = some gathering) ∧
    (let s := { refereed 9 9 [{ kickoff with deadline := 5 }] with time := 6 }
     (5 : Word).toNat < s.now ∧ (∀ m ∈ kickoff.members, m ∈ kickoff.registered ++ [there]) ∧
       ¬(∀ m ∈ ({ kickoff with members := [here, there, ⟨6, 0⟩] } : Kickoff).members, m ∈ kickoff.registered ++ [there])) := by
  unfold OpenNumber
  decide +kernel

/-- R269, R270, R273, R274: the number of a first registration, START with the last one, a deadline that passes, and what COLLCANST says. -/
theorem test_referee :
    (after (.registration 1 2 [here, there] there 0) (refereed 9 9 [])).referee.opens.map (·.num) = [10] ∧
    (after (.registration 1 2 [here, there] there 0) { refereed 9 9 [kickoff] with engineNums := [⟨0, 9, 1, 2, false, false⟩] }).engineNums =
      [⟨0, 9, 1, 2, true, false⟩] ∧
    (after (.deadlineCancel 9) { refereed 9 9 [{ kickoff with deadline := 5 }] with time := 6 }).referee.opens.map (·.cancelled) = [some 0] ∧
    (after (.ownerCancel 1 2) { refereed 9 9 [{ kickoff with started := true }] with collcanst := 3, collcan := 0x200000001 }).collcanst = 1 ∧
    (after (.numberClose 9) (refereed 9 9 [{ kickoff with started := true, reported := [there, here] }])).referee.opens = [] := by decide +kernel

/-- A standby that has heard nothing for 1 ms, with a copy of number 9, and numbers 10 and 11 of the gap at its engines. -/
def standby : State :=
  { run with
    referee := { run.referee with role := .standby, hw := 9, replica := [kickoff], heard := 0 }
    engineNums := [⟨0, 9, 1, 2, true, false⟩, ⟨0, 10, 1, 3, true, false⟩, ⟨1, 11, 1, 4, false, false⟩]
    cycle := 1200000 }

theorem witness_CollectivesRunAndFailOver_standby :
    standby.referee.role = .standby ∧ standby.referee.heard + 1200000 ≤ standby.cycle.toNat ∧ standby.referee.role ≠ .primary ∧
    (refereed 9 8 []).referee.role = .primary ∧ ({ standby with cycle := 1199999 }).cycle.toNat < standby.referee.heard + 1200000 ∧
    kickoff ∈ standby.referee.replica ∧ startHeld standby 9 = true ∧
    (∀ e ∈ [10, 11], NumberBefore standby.referee.hw e ∧ (e + 2 ^ 32 - standby.referee.hw % 2 ^ 32) % 2 ^ 32 < 2 ^ 16) ∧
    startHeld standby 11 = false ∧ (⟨0, 10, 1, 3, true, false⟩ : EngineNumber) ∈ standby.engineNums := by
  unfold NumberBefore
  decide +kernel

/-- A gap number whose START another package's engine has told the standby of. -/
theorem witness_CollectivesRunAndFailOver_gap :
    let k : Kickoff := { kickoff with num := 20, started := true }
    let s := { standby with referee := { standby.referee with held := [k] } }
    k ∈ s.referee.held ∧ NumberBefore s.referee.hw k.num.toNat ∧ (k.num.toNat + 2 ^ 32 - s.referee.hw % 2 ^ 32) % 2 ^ 32 < 2 ^ 16 := by
  unfold NumberBefore
  decide +kernel

/-- R275: what the standby keeps, cancels and goes on with. -/
theorem test_failover :
    let s := after .failover standby
    s.referee.opens.map (fun k => (k.num, k.started)) = [(9, true), (10, true)] ∧ s.referee.last = 65544 ∧
    s.engineNums.map (fun e => (e.num, e.cancelled)) = [(9, false), (10, false), (11, true)] := by decide +kernel

/-- The engine of die 0 has START for number 9 of the job; the other member has shown its bytes. -/
def meeting (f : Job → Job) : State :=
  { run with
    jobs := [f { gathering with number := some 9 }]
    engineNums := [⟨0, 9, 1, 2, true, false⟩, ⟨0, 10, 1, 3, true, false⟩]
    contributions := [⟨9, 1, [2, 2, 8, 0, 0], [here, there], 0, false, List.replicate 32 7, [], none⟩,
      ⟨9, 0, [2, 2, 8, 0, 0], [here, there], 0, false, List.replicate 32 5, [], none⟩] }

theorem startable {s : State} {die : Nat} {e : EngineNumber}
    (h : (s.engineNums.contains e && e.die == die && e.started && !e.cancelled && s.engineNums.all (fun x => x.die != die || x.cancelled || x == e ||
      (decide (1 ≤ (x.num + 2 ^ 32 - e.num % 2 ^ 32) % 2 ^ 32) && decide ((x.num + 2 ^ 32 - e.num % 2 ^ 32) % 2 ^ 32 ≤ 2 ^ 31 - 1))) &&
      !engineBusy s die) = true) : Startable s die e := by
  simp only [Bool.and_eq_true, beq_iff_eq, List.contains_iff_mem, Bool.not_eq_true', List.all_eq_true, Bool.or_eq_true, bne_iff_ne, decide_eq_true_eq] at h
  obtain ⟨⟨⟨⟨⟨a, b⟩, c⟩, d⟩, e⟩, f⟩ := h
  refine ⟨a, b, c, d, fun x hx hd hc => ?_, f⟩
  rcases e x hx with ((h | h) | h) | h
  · exact absurd hd h
  · rw [hc] at h; cases h
  · exact .inl h
  · exact .inr h

theorem witness_CollectivesRunAndFailOver_start :
    (∀ e, ¬Startable run 0 e) ∧ run.engineNums = [] ∧ Startable (meeting id) 0 ⟨0, 9, 1, 2, true, false⟩ ∧
    (meeting id).jobs.find? (numberJob 0 9) = some { gathering with number := some 9 } ∧
    collAt { gathering with number := some 9 } = none ∧
    (let at_ : Job → Job := fun j => { j with tile := { j.tile with flags := 2 } }
     collAt (at_ gathering) = some 50 ∧ run.now < 50 ∧ (50 : Nat) ≤ ({ run with time := 60 }).now) ∧
    (∃ x, collContribute { gathering with number := some 9 } ⟨1, 0, [here, there], 64, 128, 8⟩ 9 (meeting id) = .ok x) := by
  refine ⟨fun _ h => List.not_mem_nil h.1, ?_, startable ?_, ?_, ?_, ?_, ok_exists ?_⟩ <;> decide +kernel

/-- The job has started and block 1 of package 5's member is there; the flag of the job's W. -/
theorem witness_CollectivesRunAndFailOver_blocks :
    let f : Job → Job := fun j => { j with stage := .running }
    let j := f { gathering with number := some 9 }
    let g : Comm := ⟨1, 0, [here, there], 64, 128, 8⟩
    (meeting f).jobOf 0x30000 = some j ∧ j.stage = .running ∧ blockReady j 2 = false ∧ blockReady j 1 = true ∧ j.comm = some g ∧ blockOf j 1 = 1 ∧
    allContributions 9 g (collParams j g) (meeting f) = some ((meeting f).contributions.reverse) ∧
    (match writeChunks j g 1 (((destBlockBytes j g (meeting f).contributions.reverse)[1]?).getD []) (List.range (blockChunks g.count)) (meeting f) with
      | .ok r => isOk (writeFlag j g 1 r) | .error _ => false) = true ∧
    (∃ x < destBlocks (collOp j) g.members.length, x ≠ 1 ∧ x ∉ j.entered) := by decide +kernel

/-- R281: the block lies behind the job's own, and its flag is set. -/
theorem test_blocks :
    let s := after (.blockFinal 0x30000 1) (meeting (fun j => { j with stage := .running }))
    s.mem.readNat (hbm + 0x1020) 8 = 0x0707070707070707 ∧ s.mem.readNat (hbm + 0x3048) 8 = 0x100000002 ∧ s.jobs.map (·.entered) = [[1]] := by decide +kernel

/-! ### Words, steps and the whole machine -/

theorem witness_DecodingInvertsEncoding :
    (wellFormedInstr .nop = true ∧ bitLength .nop = 32) ∧
    (let c : Tile := { tile0 with d := 20, y := 8, z := 9, shape := 1, w4 := 0x03550000 }
     wellFormedInstr (.mma c) = true ∧ bitLength (.mma c) = 256) ∧
    (wellFormedInstr (.rmov 7 1) = true ∧ bitLength (.rmov 7 1) = 16) ∧ wellFormedInstr (.rconst 0x80000000 7) = true := by decide +kernel

/-- The state in which a step's word is fetched. -/
def begun (s : State) : State := (State.tick { s with racing := .off } 1).wakeQuire

/-- The word `w` at PC. -/
def coded (w : Nat) : State := { run with mem := run.mem.writeNat (hbm + 0x400) 32 w }

theorem fetched {n : Nat} {s : State} {p : List Byte → Bool} (h : (match fetchBytes n s with | .ok (bs, _) => p bs | .error _ => false) = true) :
    ∃ bs t, fetchBytes n s = .ok (bs, t) ∧ p bs = true := by
  cases e : fetchBytes n s with
  | error _ => rw [e] at h; cases h
  | ok x => obtain ⟨bs, t⟩ := x; rw [e] at h; exact ⟨bs, t, rfl, h⟩

/-- The fused softmax at PC, with a reserved field of its first word set. -/
def badSoft : State := { soft with th := run.th, mem := soft.mem.writeNat (hbm + 0x400) 4 (encode (.vredMax 5 1 2 0 0 1) + 2 ^ 14) }

/-- An event of the agenda, a slot of the routine unit, an ADD, a QFENCE, a word that is no instruction, and one that would
start the fused softmax but for a reserved field. -/
theorem witness_StepRunsDecoded :
    (bitLength .forcedSave = 0 ∧ ({ run with agenda := [.event 5 .forcedSave] } : State).agenda = .event 5 .forcedSave :: []) ∧
    (let s := { slots 2 [2, 3] false with rt := { (slots 2 [2, 3] false).rt with slots := [encode (.radd 0 0 1)] } }
     s.agenda = [] ∧ s.rt.active = true ∧ isOk (decodeSlot s.rt.word) = true) ∧
    (run.agenda = [] ∧ run.rt.active = false ∧ run.th.code = .running ∧ run.th.ganged = false ∧ run.th.stall = none ∧ run.th.pendTraps = [] ∧ run.th.rfq = []) ∧
    (∃ bs t, fetchBytes 4 (begun (coded 0x08000000)) = .ok (bs, t) ∧
      (decide (ofBytesLE bs / 2 ^ 26 % 2 ^ 6 ≠ 0x3F) && isOk (decodeControl (ofBytesLE bs))) = true) ∧
    (∃ bs t, fetchBytes 4 (begun (coded (encode (.qfence { tile0 with cls := 1, d := 20 })))) = .ok (bs, t) ∧
      decide (ofBytesLE bs / 2 ^ 26 % 2 ^ 6 = 0x3F ∧ (begun run).th.pc.toNat % 32 = 0) = true) ∧
    (∃ cs v, fetchBytes 32 (begun (coded (encode (.qfence { tile0 with cls := 1, d := 20 })))) = .ok (cs, v) ∧ isOk (decodeTile (ofBytesLE cs)) = true) ∧
    (∃ bs t, fetchBytes 4 (begun (coded 0)) = .ok (bs, t) ∧
      (decide (ofBytesLE bs / 2 ^ 26 % 2 ^ 6 ≠ 0x3F) && !isOk (decodeControl (ofBytesLE bs)) && (softmaxStart (ofBytesLE bs)).isNone) = true) ∧
    (∃ bs t, fetchBytes 4 (begun badSoft) = .ok (bs, t) ∧
      (decide (ofBytesLE bs / 2 ^ 26 % 2 ^ 6 ≠ 0x3F) && !isOk (decodeControl (ofBytesLE bs)) &&
        (match softmaxStart (ofBytesLE bs) with
         | some j => (match softmaxScan (begun badSoft).th.pc.toNat 7 [j] (some 0) (begun badSoft) with
           | .error (.trap c v) => c == .illegal && v == BitVec.ofNat 64 (hbm + 0x400)
           | _ => false)
         | none => false)) = true) ∧
    ((begun run).th.pc.toNat % 4 = 0 ∧ capCheck (begun run).th.fetchCap (begun run).th.pc.toNat 4 permExec = .ok () ∧
      Translates (begun run) (begun run).th.pc.toNat .fetch (hbm + 0x400) (begun run) ∧ eccAt (begun run) (hbm + 0x400) 4 = false ∧
      icacheFind (begun run) (begun run).th.pc.toNat = none) := by
  refine ⟨?_, ?_, ?_, fetched ?_, fetched ?_, fetched ?_, fetched ?_, fetched ?_, ?_, ok_unit ?_, off ?_, ?_, ?_⟩ <;> decide +kernel

/-- An address that is in no cached translation. -/
theorem miss_fault {s : State} {va : Nat} {acc : Access} {v : Word}
    (h : (isLocal va && (s.ctx s.th.ctx).enable && (tlbFind s s.th.quire s.th.ctx va).isNone && decide (walk s s.th.ctx va acc = .fault v)) = true) :
    ∃ t, translate s s.th.quire s.th.ctx va acc = (.fault v, t) := by
  simp only [Bool.and_eq_true, decide_eq_true_eq, Option.isNone_iff_eq_none] at h
  obtain ⟨⟨⟨l, e⟩, n⟩, w⟩ := h
  exact ⟨tlbFill (s.wakeWalk s.th.ctx va) s.th.quire s.th.ctx va (.fault v), by simp [Machine.translate, touched, lookup, l, e, n, w]⟩

/-- A fetch from a reserved region, and one outside the mapping. -/
theorem witness_StepRunsDecoded_faults :
    (let s := begun (runWith (fun t => { t with pc := 0x00F000000000, fetchCap := boundedCap 0x00F000000000 0x00F000000000 4096 0xFFFF }))
     s.th.pc.toNat % 4 = 0 ∧ capCheck s.th.fetchCap s.th.pc.toNat 4 permExec = .ok () ∧ missWaits s s.th.quire s.th.ctx s.th.pc.toNat false s.th.turn = false ∧
       (pageTval 0x00F000000000 3 0).toNat / 2 ^ 56 % 16 = 3 ∧
       ∃ t, translate s s.th.quire s.th.ctx s.th.pc.toNat .fetch = (.fault (pageTval 0x00F000000000 3 0), t)) ∧
    (let s := begun (paged (fun t => { t with pc := 0x8000, fetchCap := boundedCap 0x8000 0x8000 4096 0xFFFF }))
     s.th.pc.toNat % 4 = 0 ∧ capCheck s.th.fetchCap s.th.pc.toNat 4 permExec = .ok () ∧ missWaits s s.th.quire s.th.ctx s.th.pc.toNat false s.th.turn = false ∧
       (pageTval 0x8000 0 4).toNat / 2 ^ 56 % 16 = 0 ∧
       ∃ t, translate s s.th.quire s.th.ctx s.th.pc.toNat .fetch = (.fault (pageTval 0x8000 0 4), t)) := by
  refine ⟨⟨?_, ok_unit ?_, ?_, ?_, off_fault ?_⟩, ?_, ok_unit ?_, ?_, ?_, miss_fault ?_⟩ <;> decide +kernel

theorem next_of {x : Host.Outcome State Fault Refusal} (h : (match x with | .next _ => true | _ => false) = true) : ∃ t, x = .next t := by
  cases x
  · exact ⟨_, rfl⟩
  · cases h
  · cases h

/-- Steps of a machine whose memory has its form, and of code that is not privileged. -/
theorem witness_StepKeepsMemoryForm : (coded 0x08000000).mem.wf = true ∧ ∃ t, step (coded 0x08000000) = .next t := ⟨by decide +kernel, next_of (by decide +kernel)⟩
theorem witness_UnprivilegedCodeKeepsControl : run.priv = false ∧ bitLength .nop = 32 ∧ ∃ t, exec .nop run = .next t :=
  ⟨by decide +kernel, rfl, next_of (by decide +kernel)⟩

/-- A step runs the word at PC, from the memory that `withFetchWord` gives. -/
theorem test_step : ((match step (State.reset.withFetchWord 32 0x08000000) with | .next t => t.th.pc | _ => 0) =
    (State.reset.withFetchWord 32 0x08000000).th.pc + 4) := by decide +kernel

end Sys2Proof.Tests
end

section
/-!
PROOFS. The integer forms of the reference entries (R340, R343, R353, R395, R397, R400, R403, R419, R423, R429, R449):
the fields of their words, the values they compute, and the statements O1 and O4.
-/
namespace Sys2Proof.Proofs
open Machine Claims

/-! ## The fields of a word (R72) -/

/-- A field of a number that lies below bit `m` does not see what stands from bit `m` upward. -/
theorem field_add_high {lo n m : Nat} (x y : Nat) (h : lo + n ≤ m) :
    (x * 2 ^ m + y) / 2 ^ lo % 2 ^ n = y / 2 ^ lo % 2 ^ n := by
  obtain ⟨k, hk⟩ := Nat.exists_eq_add_of_le h
  have hx : x * 2 ^ m = 2 ^ lo * (2 ^ n * (2 ^ k * x)) := by
    rw [hk, Nat.pow_add, Nat.pow_add, Nat.mul_comm, Nat.mul_assoc, Nat.mul_assoc]
  rw [hx, Nat.mul_add_div (Nat.two_pow_pos lo), Nat.mul_add_mod]

section
variable {op fn imm n hi lo : Nat} (d a b : RegField) (l : BitVec 20)

theorem rrWord_eq_riWord : rrWord op d a b fn = riWord op d a (b.toNat * 2 ^ 8 + fn) := by
  simp only [rrWord, riWord]; omega

theorem riWord_eq : riWord op d a imm = (op * 2 ^ 12 + d.toNat * 2 ^ 6 + a.toNat) * 2 ^ 14 + imm := by
  unfold riWord; omega

theorem rrWord_eq : rrWord op d a b fn = (op * 2 ^ 18 + d.toNat * 2 ^ 12 + a.toNat * 2 ^ 6 + b.toNat) * 2 ^ 8 + fn := by
  unfold rrWord; omega

theorem riWord_opcode (h : imm < 2 ^ 14) : riWord op d a imm / 2 ^ 26 = op := by
  have := d.isLt; have := a.isLt
  unfold riWord; omega

theorem wiWord_opcode : wiWord op d l / 2 ^ 26 = op := by
  have := d.isLt; have := l.isLt
  unfold wiWord; omega

theorem fld_riWord_d (h : imm < 2 ^ 14) : fld 6 (riWord op d a imm) 20 = d := by
  have := d.isLt; have := a.isLt
  apply BitVec.eq_of_toNat_eq
  simp only [fld, riWord, BitVec.toNat_ofNat]; omega

theorem fld_riWord_a (h : imm < 2 ^ 14) : fld 6 (riWord op d a imm) 14 = a := by
  have := d.isLt; have := a.isLt
  apply BitVec.eq_of_toNat_eq
  simp only [fld, riWord, BitVec.toNat_ofNat]; omega

theorem fld_riWord_imm (h : lo + n ≤ 14) : fld n (riWord op d a imm) lo = fld n imm lo := by
  apply BitVec.eq_of_toNat_eq
  simp only [fld, BitVec.toNat_ofNat, riWord_eq, field_add_high _ _ h]

theorem bits_riWord_imm (h : lo + (hi + 1 - lo) ≤ 14) : bits (riWord op d a imm) hi lo = bits imm hi lo := by
  simp only [bits, riWord_eq, field_add_high _ _ h]

theorem fld_wiWord_d : fld 6 (wiWord op d l) 20 = d := by
  have := d.isLt; have := l.isLt
  apply BitVec.eq_of_toNat_eq
  simp only [fld, wiWord, BitVec.toNat_ofNat]; omega

theorem fld_wiWord_l : fld 20 (wiWord op d l) 0 = l := by
  have := l.isLt
  apply BitVec.eq_of_toNat_eq
  simp only [fld, wiWord, BitVec.toNat_ofNat]; omega

end

/-- A whole field that stands at bit 0. -/
theorem fld_toNat {n : Nat} (x : BitVec n) : fld n x.toNat 0 = x := by simp [fld]

/-! ## Decoding by opcode (R75) -/

theorem decodeControl_of_raw {w : Nat} {i : Instr} (hr : decodeRaw w = some i) (hw : wellFormedInstr i = true) :
    decodeControl w = .ok i := by
  simp [decodeControl, hr, hw]

theorem decodeControl_none {w : Nat} (hr : decodeRaw w = none) : ∃ e, decodeControl w = .error e := by
  unfold decodeControl
  rw [hr]
  dsimp only
  split <;> exact ⟨_, rfl⟩

/-- A word of the register forms is decoded by the table of R76. -/
theorem decodeRaw_rrWord {fn : Nat} (d a b : RegField) (h : fn < 2 ^ 8) :
    decodeRaw (rrWord 0x01 d a b fn) = decodeOp01 (rrWord 0x01 d a b fn) := by
  have hop : rrWord 0x01 d a b fn / 2 ^ 26 = 0x01 := by
    have := b.isLt
    rw [rrWord_eq_riWord, riWord_opcode _ _ (by omega)]
  simp only [decodeRaw, hop]

section
variable {fn n : Nat} (d a b : RegField)

theorem fld_rrWord_d {op : Nat} (h : fn < 2 ^ 8) : fld 6 (rrWord op d a b fn) 20 = d := by
  have := b.isLt
  rw [rrWord_eq_riWord, fld_riWord_d _ _ (by omega)]

theorem fld_rrWord_a {op : Nat} (h : fn < 2 ^ 8) : fld 6 (rrWord op d a b fn) 14 = a := by
  have := b.isLt
  rw [rrWord_eq_riWord, fld_riWord_a _ _ (by omega)]

theorem fld_rrWord_b {op : Nat} (h : fn < 2 ^ 8) : fld 6 (rrWord op d a b fn) 8 = b := by
  apply BitVec.eq_of_toNat_eq
  rw [rrWord_eq_riWord, fld_riWord_imm _ _ (by omega)]
  have := b.isLt
  simp only [fld, BitVec.toNat_ofNat]; omega

theorem bits_rrWord_7_0 {op : Nat} (h : fn < 2 ^ 8) : bits (rrWord op d a b fn) 7 0 = fn := by
  rw [bits, rrWord_eq, field_add_high _ _ (by omega)]; omega

theorem bits_rrWord_7_2 {op : Nat} (h : fn < 2 ^ 8) : bits (rrWord op d a b fn) 7 2 = fn / 4 := by
  rw [bits, rrWord_eq, field_add_high _ _ (by omega)]; omega

theorem bits_rrWord_7_3 {op : Nat} (h : fn < 2 ^ 8) : bits (rrWord op d a b fn) 7 3 = fn / 8 := by
  rw [bits, rrWord_eq, field_add_high _ _ (by omega)]; omega

/-- The function field together with b, as the forms that have no b read it. -/
theorem bits_rrWord_13_0 {op : Nat} (h : fn < 2 ^ 8) : bits (rrWord op d a b fn) 13 0 = b.toNat * 256 + fn := by
  rw [rrWord_eq_riWord, bits_riWord_imm _ _ (by omega)]
  have := b.isLt
  simp only [bits]; omega

theorem fld_rrWord_fn {op : Nat} (h : n ≤ 8) : fld n (rrWord op d a b fn) 0 = BitVec.ofNat n fn := by
  apply BitVec.eq_of_toNat_eq
  simpa [fld, rrWord_eq] using field_add_high (lo := 0) (n := n) (m := 8) _ fn (by omega)

end

/-- The word with the function field `fn` decodes to `i`, where the table of R76 says so. -/
theorem decodeControl_rrWord {fn : Nat} {d a b : RegField} {i : Instr} (h : fn < 2 ^ 8)
    (hd : decodeOp01 (rrWord 0x01 d a b fn) = some i) (hw : wellFormedInstr i = true) :
    decodeControl (rrWord 0x01 d a b fn) = .ok i :=
  decodeControl_of_raw ((decodeRaw_rrWord d a b h).trans hd) hw

/-- The register forms that have no field rule, with their function fields (R76). -/
def registerForms (d a b : RegField) (k : BitVec 2) : List (Nat × Instr) :=
  [(0x00, .add d a b), (0x01, .sub d a b), (0x02, .mul d a b), (0x03, .mulh d a b), (0x04, .mulhU d a b),
    (0x10, .and d a b), (0x11, .andn d a b), (0x12, .or d a b), (0x13, .xor d a b), (0x14, .shl d a b),
    (0x15, .shr d a b), (0x16, .shrA d a b), (0x17, .rot d a b), (0x20, .min d a b), (0x21, .minU d a b),
    (0x22, .max d a b), (0x23, .maxU d a b), (0x38 + k.toNat, .addsh d a b k)]

theorem decodeOp01_addsh (d a b : RegField) (k : BitVec 2) :
    decodeOp01 (rrWord 0x01 d a b (0x38 + k.toNat)) = some (.addsh d a b k) := by
  have hk := k.isLt
  have hfn : 0x38 + k.toNat < 2 ^ 8 := by omega
  have h2 : (0x38 + k.toNat) / 4 = 14 := by omega
  have h3 : (0x38 + k.toNat) / 8 = 7 := by omega
  have hne : ∀ m < 0x38, 0x38 + k.toNat ≠ m ∧ b.toNat * 256 + (0x38 + k.toNat) ≠ m := by omega
  have hs : BitVec.ofNat 2 (0x38 + k.toNat) = k := by apply BitVec.eq_of_toNat_eq; simp only [BitVec.toNat_ofNat]; omega
  simp [decodeOp01, bits_rrWord_7_0 _ _ _ hfn, bits_rrWord_13_0 _ _ _ hfn, bits_rrWord_7_3 _ _ _ hfn,
    bits_rrWord_7_2 _ _ _ hfn, fld_rrWord_d _ _ _ hfn, fld_rrWord_a _ _ _ hfn, fld_rrWord_b _ _ _ hfn, fld_rrWord_fn,
    h2, h3, hne, hs]

theorem decodeOp01_sel (d a b : RegField) : decodeOp01 (rrWord 0x01 d a b 0x24) = some (.sel d a b) := by
  simp [decodeOp01, bits_rrWord_7_0, fld_rrWord_d, fld_rrWord_a, fld_rrWord_b]

theorem decodeOp01_registerForms (d a b : RegField) (k : BitVec 2) :
    ∀ fi ∈ registerForms d a b k, decodeOp01 (rrWord 0x01 d a b fi.1) = some fi.2 := by
  have addsh := decodeOp01_addsh d a b k
  simp only [registerForms, List.forall_mem_cons, addsh]
  simp [decodeOp01, bits_rrWord_7_0, fld_rrWord_d, fld_rrWord_a, fld_rrWord_b]

theorem registerForms_fn_lt (d a b : RegField) (k : BitVec 2) : ∀ fi ∈ registerForms d a b k, fi.1 < 2 ^ 8 := by
  have hk : 0x38 + k.toNat < 2 ^ 8 := by have := k.isLt; omega
  simpa [registerForms] using hk

theorem registerForms_wellFormed (d a b : RegField) (k : BitVec 2) :
    ∀ fi ∈ registerForms d a b k, wellFormedInstr fi.2 = true :=
  List.all_eq_true.1 (show (registerForms d a b k).all (fun fi => wellFormedInstr fi.2) = true from rfl)

theorem registerForms_decode (d a b : RegField) (k : BitVec 2) :
    ∀ fi ∈ registerForms d a b k, decodeControl (rrWord 0x01 d a b fi.1) = .ok fi.2 := by
  intro fi hfi
  exact decodeControl_rrWord (registerForms_fn_lt d a b k fi hfi) (decodeOp01_registerForms d a b k fi hfi)
    (registerForms_wellFormed d a b k fi hfi)

theorem decodeOp01_bitCounts (d a : RegField) :
    decodeOp01 (rrWord 0x01 d a 0 0x28) = some (.clz d a) ∧ decodeOp01 (rrWord 0x01 d a 0 0x29) = some (.ctz d a) ∧
    decodeOp01 (rrWord 0x01 d a 0 0x2A) = some (.popc d a) := by
  simp [decodeOp01, bits_rrWord_7_0, bits_rrWord_13_0, fld_rrWord_d, fld_rrWord_a]

theorem isGeneral_iff (r : RegField) : isGeneral r = true ↔ r.toNat < 56 := by simp [isGeneral]

theorem immediateForms_decode (d a : RegField) (j : BitVec 14) :
    ∀ fi ∈ [(0x03, Instr.andi d a j), (0x04, .ori d a j), (0x05, .xori d a j), (0x0A, .muli d a j)],
      decodeControl (riWord fi.1 d a j.toNat) = .ok fi.2 := by
  have hj := j.isLt
  have ops := fun op => riWord_opcode (op := op) d a hj
  have hd := fun op => fld_riWord_d (op := op) d a hj
  have ha := fun op => fld_riWord_a (op := op) d a hj
  have hi := fun op => (fld_riWord_imm (op := op) (imm := j.toNat) (n := 14) (lo := 0) d a (Nat.le_refl 14)).trans (fld_toNat j)
  simp only [List.forall_mem_cons]
  refine ⟨decodeControl_of_raw ?_ rfl, decodeControl_of_raw ?_ rfl, decodeControl_of_raw ?_ rfl,
    decodeControl_of_raw ?_ rfl, fun _ h => absurd h List.not_mem_nil⟩
  · simp only [decodeRaw, ops, decodeOp03, hd, ha, hi]
  · simp only [decodeRaw, ops, decodeOp04, hd, ha, hi]
  · simp only [decodeRaw, ops, decodeOp05, hd, ha, hi]
  · simp only [decodeRaw, ops, decodeOp0A, hd, ha, hi]

/-- The word of ADDI with every field 0 is NOP's (R402). -/
theorem addi_decodes (d a : RegField) (j : BitVec 14) :
    decodeControl (riWord 0x02 d a j.toNat) = .ok (if d = 0 ∧ a = 0 ∧ j = 0 then .nop else .addi d a j) := by
  have hj := j.isLt
  have hz : bits (riWord 0x02 d a j.toNat) 25 0 = 0 ↔ d = 0 ∧ a = 0 ∧ j = 0 := by
    have := d.isLt; have := a.isLt
    simp only [← BitVec.toNat_inj, bits, riWord, BitVec.toNat_ofNat, BitVec.ofNat_eq_ofNat]
    omega
  have hr : decodeRaw (riWord 0x02 d a j.toNat) = some (if d = 0 ∧ a = 0 ∧ j = 0 then .nop else .addi d a j) := by
    simp only [decodeRaw, riWord_opcode d a hj, decodeOp02, beq_iff_eq, hz, fld_riWord_d d a hj, fld_riWord_a d a hj,
      fld_riWord_imm d a (show 0 + 14 ≤ 14 by decide), fld_toNat]
    split <;> rfl
  have hwf : wellFormedInstr (.addi d a j) = !(d == 0 && a == 0 && j == 0) := rfl
  refine decodeControl_of_raw hr ?_
  split
  case isTrue => rfl
  case isFalse h => simpa [hwf, or_assoc, Decidable.imp_iff_not_or] using h

/-- A word of SHI, with its reserved field imm[11:6] (R423). -/
theorem decodeRaw_shi {imm : Nat} (d a : RegField) (h : imm < 2 ^ 14) : decodeRaw (riWord 0x06 d a imm) =
    if bits imm 11 6 = 0 then some (.shi d a (fld 2 imm 12) (fld 6 imm 0)) else none := by
  simp only [decodeRaw, riWord_opcode d a h, decodeOp06, fld_riWord_d d a h, fld_riWord_a d a h, beq_iff_eq,
    bits_riWord_imm d a (show 6 + (11 + 1 - 6) ≤ 14 by decide), fld_riWord_imm d a (show 12 + 2 ≤ 14 by decide),
    fld_riWord_imm d a (show 0 + 6 ≤ 14 by decide)]

theorem shi_decodes (d a : RegField) (k : BitVec 2) (n : BitVec 6) :
    decodeControl (riWord 0x06 d a (k.toNat * 2 ^ 12 + n.toNat)) = .ok (.shi d a k n) := by
  have hk := k.isLt
  have hn := n.isLt
  have hb : bits (k.toNat * 2 ^ 12 + n.toNat) 11 6 = 0 := by simp only [bits]; omega
  have hfk : fld 2 (k.toNat * 2 ^ 12 + n.toNat) 12 = k := by
    apply BitVec.eq_of_toNat_eq; simp only [fld, BitVec.toNat_ofNat]; omega
  have hfn : fld 6 (k.toNat * 2 ^ 12 + n.toNat) 0 = n := by
    apply BitVec.eq_of_toNat_eq; simp only [fld, BitVec.toNat_ofNat]; omega
  refine decodeControl_of_raw ?_ rfl
  rw [decodeRaw_shi d a (by omega), if_pos hb, hfk, hfn]

theorem shi_refused (d a : RegField) (k : BitVec 2) (n : BitVec 6) {r : BitVec 6} (h : r ≠ 0) :
    ∃ e, decodeControl (riWord 0x06 d a (k.toNat * 2 ^ 12 + r.toNat * 2 ^ 6 + n.toNat)) = .error e := by
  have hk := k.isLt
  have hn := n.isLt
  have hr := r.isLt
  have hb : bits (k.toNat * 2 ^ 12 + r.toNat * 2 ^ 6 + n.toNat) 11 6 = r.toNat := by simp only [bits]; omega
  have hne : r.toNat ≠ 0 := fun h0 => h (BitVec.toNat_inj.1 h0)
  apply decodeControl_none
  rw [decodeRaw_shi d a (by omega), hb, if_neg hne]

theorem movi_decodes (d : RegField) (l : BitVec 20) : decodeControl (wiWord 0x08 d l) = .ok (.movi d l) := by
  refine decodeControl_of_raw ?_ rfl
  simp only [decodeRaw, wiWord_opcode, decodeOp08, fld_wiWord_d, fld_wiWord_l]

theorem movhi_decodes {d : RegField} (l : BitVec 20) (h : d.toNat < 56) :
    decodeControl (wiWord 0x09 d l) = .ok (.movhi d l) := by
  refine decodeControl_of_raw ?_ ((isGeneral_iff d).2 h)
  simp only [decodeRaw, wiWord_opcode, decodeOp09, fld_wiWord_d, fld_wiWord_l]

/-! ## The values (R340, R395, R400, R423) -/

/-- The product of the sign extensions is the signed product, to 128 bits. -/
theorem signExtend_mul (x y : Word) : x.signExtend 128 * y.signExtend 128 = BitVec.ofInt 128 (x.toInt * y.toInt) :=
  (BitVec.ofInt_mul ..).symm

theorem mulHighS_eq (x y : Word) : mulHighS x y = (x.signExtend 128 * y.signExtend 128).extractLsb' 64 64 := by
  apply BitVec.eq_of_toNat_eq
  rw [signExtend_mul, mulHighS, BitVec.extractLsb'_toNat, Nat.shiftRight_eq_div_pow]
  simp only [BitVec.toNat_ofInt]
  generalize x.toInt * y.toInt = p
  omega

theorem mulHighU_eq (x y : Word) : mulHighU x y = (x.setWidth 128 * y.setWidth 128).extractLsb' 64 64 := by
  apply BitVec.eq_of_toNat_eq
  simp only [mulHighU, BitVec.extractLsb'_toNat, Nat.shiftRight_eq_div_pow, BitVec.toNat_ofNat, BitVec.toNat_mul,
    BitVec.toNat_setWidth_of_le (show 64 ≤ 128 by decide)]
  generalize x.toNat * y.toNat = p
  omega

theorem amount_eq (y : Word) : amount y = (y.setWidth 6).toNat := by simp [amount]

theorem rotateRight_eq (x : Word) (n : BitVec 6) : rotateRight x n.toNat = (x >>> n) ||| (x <<< (64 - n.toNat)) := by
  have := n.isLt
  simp [rotateRight, BitVec.rotateRight_def, Nat.mod_eq_of_lt this]

/-- Where the operands are equal, MIN and MAX may give either: `<` and `≤` choose alike. -/
theorem ite_slt_eq_ite_toInt_le {x y u v : Word} (h : x = y → u = v) :
    (if x.slt y then u else v) = if x.toInt ≤ y.toInt then u else v := by
  by_cases hxy : x = y
  · rw [h hxy, ite_self, ite_self]
  · have hne : x.toInt ≠ y.toInt := fun he => hxy (BitVec.toInt_inj.1 he)
    have hiff : x.slt y = true ↔ x.toInt ≤ y.toInt := BitVec.slt_iff_toInt_lt.trans (by omega)
    simp only [hiff]

theorem ite_ult_eq_ite_toNat_le {x y u v : Word} (h : x = y → u = v) :
    (if x.ult y then u else v) = if x.toNat ≤ y.toNat then u else v := by
  by_cases hxy : x = y
  · rw [h hxy, ite_self, ite_self]
  · have hne : x.toNat ≠ y.toNat := fun he => hxy (BitVec.toNat_inj.1 he)
    have hiff : x.ult y = true ↔ x.toNat ≤ y.toNat := BitVec.ult_iff_toNat_lt.trans (by omega)
    simp only [hiff]

theorem shiftLeft_eq_mul (x : Word) (k : Nat) : x <<< k = x * BitVec.ofNat 64 (2 ^ k) := by
  rw [BitVec.shiftLeft_eq_mul_twoPow]
  congr 1
  apply BitVec.eq_of_toNat_eq
  simp [BitVec.toNat_twoPow]

/-! ## Counting bits (R353) -/

theorem isClz_leadingZeros (x : Word) : IsClz x (leadingZeros 64 x.toNat) := by
  unfold leadingZeros
  split
  case isTrue h =>
    refine ⟨Nat.le_refl 64, fun k _ => ?_, fun hlt => absurd hlt (Nat.lt_irrefl 64)⟩
    rw [← BitVec.testBit_toNat, h, Nat.zero_testBit]
  case isFalse h =>
    have hlog : Nat.log2 x.toNat < 64 := (Nat.log2_lt h).2 x.isLt
    refine ⟨by omega, fun k hk => ?_, fun _ => ?_⟩
    · rw [← BitVec.testBit_toNat]
      exact Nat.testBit_lt_two_pow (Nat.lt_of_lt_of_le Nat.lt_log2_self (Nat.pow_le_pow_right (by decide) (by omega)))
    · rw [← BitVec.testBit_toNat, show 63 - (64 - 1 - Nat.log2 x.toNat) = Nat.log2 x.toNat by omega]
      exact Nat.testBit_log2 h

theorem trailingZeros_le (n x : Nat) : trailingZeros n x ≤ n := by
  induction n generalizing x with
  | zero => exact Nat.le_refl 0
  | succ n ih =>
    have := ih (x / 2)
    simp only [trailingZeros]
    split <;> omega

theorem testBit_below_trailingZeros {n x k : Nat} (h : k < trailingZeros n x) : x.testBit k = false := by
  induction n generalizing x k with
  | zero => exact absurd h (Nat.not_lt_zero _)
  | succ n ih =>
    simp only [trailingZeros] at h
    split at h
    case isTrue => exact absurd h (Nat.not_lt_zero _)
    case isFalse hx =>
      cases k with
      | zero => simpa using hx
      | succ k => exact (Nat.testBit_succ ..).trans (ih (by omega))

theorem testBit_trailingZeros {n x : Nat} (h : trailingZeros n x < n) : x.testBit (trailingZeros n x) = true := by
  induction n generalizing x with
  | zero => exact absurd h (Nat.not_lt_zero _)
  | succ n ih =>
    simp only [trailingZeros] at h ⊢
    split at h
    case isTrue hx => simp [hx]
    case isFalse hx =>
      rw [if_neg hx, Nat.add_comm, Nat.testBit_succ]
      exact ih (by omega)

theorem isCtz_trailingZeros (x : Word) : IsCtz x (trailingZeros 64 x.toNat) :=
  ⟨trailingZeros_le .., fun _ hk => testBit_below_trailingZeros hk, fun h => testBit_trailingZeros h⟩

theorem setBits_eq_countP (n x : Nat) : setBits n x = (List.range n).countP x.testBit := by
  induction n generalizing x with
  | zero => rfl
  | succ n ih =>
    have hs : x.testBit ∘ Nat.succ = (x / 2).testBit := funext fun k => Nat.testBit_succ ..
    rw [setBits, ih, List.range_succ_eq_map, List.countP_cons, List.countP_map, hs, Nat.testBit_zero]
    rcases Nat.mod_two_eq_zero_or_one x with h | h <;> simp [h, Nat.add_comm]

/-! ## How an instruction ends, by its shape -/

/-- An instruction that is computed by `compute` has the result that its function gives. -/
theorem computes_of_compute {i : Instr} {srcs : List RegField} {d : RegField} {s : State} {f : List Reg → Word} {w : Word}
    (he : exec i s = compute i srcs d f s) (hw : f (vals srcs s) = w) : Computes i srcs d w s := by
  intro hr
  rw [he, compute_ready hr, ← hw]
  rfl

theorem unary_of_exec {i : Instr} {d a : RegField} {s : State} {g f : Word → Word}
    (he : exec i s = unary i d a g s) (hg : ∀ x, g x = f x) : Unary i d a s f :=
  computes_of_compute he (hg _)

theorem binary_of_exec {i : Instr} {d a b : RegField} {s : State} {g f : Word → Word → Word}
    (he : exec i s = binary i d a b g s) (hg : ∀ x y, g x y = f x y) : Binary i d a b s f :=
  computes_of_compute he (hg _ _)

/-- A word that breaks a field rule is ILLEGAL before its operands are looked at (R2). -/
theorem trapsAt_of_illFormed {i : Instr} {srcs : List RegField} {d : RegField} {s : State} {f : List Reg → Word}
    (he : exec i s = compute i srcs d f s) (hw : wellFormedInstr i = false) : TrapsAt i s .illegal (wordTval i) := by
  have hh : operandHalt i srcs (some d) s = some (.trap .illegal (wordTval i)) := by simp [operandHalt, hw]
  rw [TrapsAt, he, compute_halt hh, finish_trap]

/-! ## The statements -/

theorem integerRegisterForms : IntegerRegisterForms := by
  intro d a b k s
  exact ⟨binary_of_exec (exec_add ..) fun _ _ => rfl,
    binary_of_exec (exec_sub ..) fun _ _ => rfl,
    binary_of_exec (exec_mul ..) fun _ _ => rfl,
    binary_of_exec (exec_mulh ..) mulHighS_eq,
    binary_of_exec (exec_mulhU ..) mulHighU_eq,
    binary_of_exec (exec_and ..) fun _ _ => rfl,
    binary_of_exec (exec_andn ..) fun _ _ => rfl,
    binary_of_exec (exec_or ..) fun _ _ => rfl,
    binary_of_exec (exec_xor ..) fun _ _ => rfl,
    binary_of_exec (exec_shl ..) fun x y => by rw [amount_eq]; rfl,
    binary_of_exec (exec_shr ..) fun x y => by rw [amount_eq]; rfl,
    binary_of_exec (exec_shrA ..) fun x y => by rw [amount_eq]; rfl,
    binary_of_exec (exec_rot ..) fun x y => by rw [amount_eq, rotateRight_eq],
    binary_of_exec (exec_min ..) fun _ _ => ite_slt_eq_ite_toInt_le id,
    binary_of_exec (exec_minU ..) fun _ _ => ite_ult_eq_ite_toNat_le id,
    binary_of_exec (exec_max ..) fun _ _ => ite_slt_eq_ite_toInt_le Eq.symm,
    binary_of_exec (exec_maxU ..) fun _ _ => ite_ult_eq_ite_toNat_le Eq.symm,
    binary_of_exec (exec_addsh ..) fun x _ => by rw [shiftLeft_eq_mul],
    computes_of_compute (exec_sel ..) rfl⟩

theorem integerImmediateForms : IntegerImmediateForms := by
  intro d a j l n s
  exact ⟨unary_of_exec (exec_addi ..) fun _ => rfl,
    unary_of_exec (exec_andi ..) fun _ => rfl,
    unary_of_exec (exec_ori ..) fun _ => rfl,
    unary_of_exec (exec_xori ..) fun _ => rfl,
    unary_of_exec (exec_muli ..) fun _ => rfl,
    unary_of_exec (exec_shi ..) fun _ => rfl,
    unary_of_exec (exec_shi ..) fun _ => rfl,
    unary_of_exec (exec_shi ..) fun _ => rfl,
    unary_of_exec (exec_shi ..) fun x => rotateRight_eq x n,
    computes_of_compute (exec_movi ..) rfl,
    unary_of_exec (exec_movhi ..) fun _ => rfl,
    exec_nop ..⟩

theorem integerWords : IntegerWords := by
  intro d a b j l k n r s
  refine ⟨registerForms_decode d a b k, fun hd => ⟨?sel, movhi_decodes l hd⟩, fun hd => ?stream, immediateForms_decode d a j,
    addi_decodes d a j, movi_decodes d l, shi_decodes d a k n, shi_refused d a k n⟩
  case sel => exact decodeControl_rrWord (by decide) (decodeOp01_sel d a b) ((isGeneral_iff d).2 hd)
  case stream =>
    have hg : isGeneral d = false := by simpa [isGeneral] using hd
    have hsel : wellFormedInstr (.sel d a b) = false := hg
    have hmovhi : wellFormedInstr (.movhi d l) = false := hg
    have emovhi : exec (.movhi d l) s = compute (.movhi d l) [d] d (fun xs => ((nth xs 0).data <<< 20) ||| zext64 l) s :=
      exec_movhi ..
    exact ⟨trapsAt_of_illFormed (exec_sel ..) hsel, trapsAt_of_illFormed emovhi hmovhi⟩

/-- Settles O1: every form is `compute` of a function that agrees with the rule's, and its word decodes by its own fields. -/
theorem integerForms : Obligations.IntegerForms := ⟨integerRegisterForms, integerImmediateForms, integerWords⟩

/-- Settles O4: the three counts are characterised bit by bit, by the highest and the lowest set bit. -/
theorem bitCounts : Obligations.BitCounts := by
  intro d a s
  obtain ⟨clz, ctz, popc⟩ := decodeOp01_bitCounts d a
  have clz_computes : Unary (.clz d a) d a s fun x => BitVec.ofNat 64 (leadingZeros 64 x.toNat) :=
    unary_of_exec (exec_clz ..) fun _ => rfl
  have ctz_computes : Unary (.ctz d a) d a s fun x => BitVec.ofNat 64 (trailingZeros 64 x.toNat) :=
    unary_of_exec (exec_ctz ..) fun _ => rfl
  refine ⟨fun hr => ⟨_, clz_computes hr, isClz_leadingZeros _⟩,
    fun hr => ⟨_, ctz_computes hr, isCtz_trailingZeros _⟩,
    unary_of_exec (exec_popc ..) (f := fun x => BitVec.ofNat 64 ((List.range 64).countP x.getLsbD)) fun x => ?_,
    decodeControl_rrWord (by decide) clz rfl, decodeControl_rrWord (by decide) ctz rfl,
    decodeControl_rrWord (by decide) popc rfl⟩
  rw [setBits_eq_countP]
  rfl

end Sys2Proof.Proofs
end

section
/-!
PROOFS. The division forms (R363): their words, and the statement O2.
-/
namespace Sys2Proof.Proofs
open Machine Claims

/-! ## The words (R76, R363) -/

/-- The division forms with their function fields. -/
def divisionTable (d a b : RegField) : List (Nat × Instr) :=
  [(0x05, .div d a b), (0x06, .divU d a b), (0x07, .rem d a b), (0x08, .remU d a b)]

theorem decodeOp01_divisionTable (d a b : RegField) :
    ∀ fi ∈ divisionTable d a b, decodeOp01 (rrWord 0x01 d a b fi.1) = some fi.2 := by
  simp [divisionTable, decodeOp01, bits_rrWord_7_0, fld_rrWord_d, fld_rrWord_a, fld_rrWord_b]

/-- A division form has a function field of eight bits and no field rule to break. -/
theorem divisionTable_admissible (d a b : RegField) :
    ∀ fi ∈ divisionTable d a b, fi.1 < 2 ^ 8 ∧ wellFormedInstr fi.2 = true := by
  simp [divisionTable, wellFormedInstr]

theorem divisionTable_decodes (d a b : RegField) :
    ∀ fi ∈ divisionTable d a b, decodeControl (rrWord 0x01 d a b fi.1) = .ok fi.2 := by
  intro fi hfi
  obtain ⟨hfn, hwf⟩ := divisionTable_admissible d a b fi hfi
  exact decodeControl_rrWord hfn (decodeOp01_divisionTable d a b fi hfi) hwf

/-! ## The statement -/

/-- Settles O2: the words decode by their own fields, and each form is `binary` of its rule of R363, where the quotient
and the remainder of -2^63 by -1 are the exact ones, wrapped to 64 bits. -/
theorem divisionForms : Obligations.DivisionForms := by
  intro d a b s
  exact ⟨divisionTable_decodes d a b,
    binary_of_exec (exec_div ..) fun _ _ => rfl,
    binary_of_exec (exec_divU ..) fun _ _ => rfl,
    binary_of_exec (exec_rem ..) fun _ _ => rfl,
    binary_of_exec (exec_remU ..) fun _ _ => rfl⟩

end Sys2Proof.Proofs
end

section
/-!
PROOFS. SET and SETI (R421): their conditions, their words, and the statement O3.
-/
namespace Sys2Proof.Proofs
open Machine Claims

/-! ## The conditions (R421) -/

theorem b2w_zero_or_one (p : Bool) : b2w p = 0 ∨ b2w p = 1 := by
  cases p
  case false => exact .inl rfl
  case true => exact .inr rfl

theorem b2w_eq_one_iff (p : Bool) : b2w p = 1 ↔ p = true := by cases p <;> decide

/-- One case for each condition: eq, ne, lt, ge, lt.u, ge.u. -/
theorem condHolds_iff_condRule {c : BitVec 3} (h : c.toNat < 6) (x y : Word) :
    condHolds c x y = true ↔ condRule c x y := by
  have hc : c = 0 ∨ c = 1 ∨ c = 2 ∨ c = 3 ∨ c = 4 ∨ c = 5 := by
    revert h c; decide
  obtain rfl | rfl | rfl | rfl | rfl | rfl := hc
  · simp [condHolds, condRule, BitVec.toNat_inj]
  · simp [condHolds, condRule, BitVec.toNat_inj]
  · exact BitVec.slt_iff_toInt_lt
  · simp [condHolds, condRule, BitVec.slt]
  · exact BitVec.ult_iff_toNat_lt
  · simp [condHolds, condRule, BitVec.ult]

/-- An instruction that nothing stops at its operands breaks no field rule (R2). -/
theorem wellFormedInstr_of_ready {i : Instr} {srcs : List RegField} {dst : Option RegField} {s : State}
    (h : Ready i srcs dst s) : wellFormedInstr i = true := by
  cases hw : wellFormedInstr i
  case true => rfl
  case false => simp [Ready, operandHalt, hw] at h

theorem wellFormedInstr_set (d a b : RegField) (c : BitVec 3) : wellFormedInstr (.set d a b c) = true ↔ c.toNat < 6 :=
  decide_eq_true_iff.trans Nat.lt_succ_iff.symm

theorem wellFormedInstr_seti (d a : RegField) (c : BitVec 3) (j : BitVec 11) :
    wellFormedInstr (.seti d a c j) = true ↔ c.toNat < 6 :=
  decide_eq_true_iff.trans Nat.lt_succ_iff.symm

/-- An instruction that gives a condition of R421 as data writes 1 where the condition holds and 0 where it does not. -/
theorem writes_condition {i : Instr} {srcs : List RegField} {d : RegField} {c : BitVec 3} {x y : Word} {s : State}
    (he : Computes i srcs d (b2w (condHolds c x y)) s) (hc : wellFormedInstr i = true → c.toNat < 6)
    (hr : Ready i srcs (some d) s) :
    ∃ w : Word, exec i s = .next (wrote srcs d w s) ∧ (w = 0 ∨ w = 1) ∧ (w = 1 ↔ condRule c x y) :=
  ⟨_, he hr, b2w_zero_or_one _,
    (b2w_eq_one_iff _).trans (condHolds_iff_condRule (hc (wellFormedInstr_of_ready hr)) x y)⟩

/-! ## The words (R76, R421) -/

/-- SET's function fields are 0x30 to 0x37, whose low bits are the condition. -/
theorem decodeOp01_set (d a b : RegField) (c : BitVec 3) :
    decodeOp01 (rrWord 0x01 d a b (0x30 + c.toNat)) = some (.set d a b c) := by
  have hc := c.isLt
  have hfn : 0x30 + c.toNat < 2 ^ 8 := by omega
  have h3 : (0x30 + c.toNat) / 8 = 6 := by omega
  have hne : ∀ m < 0x30, 0x30 + c.toNat ≠ m ∧ b.toNat * 256 + (0x30 + c.toNat) ≠ m := by omega
  have hs : BitVec.ofNat 3 (0x30 + c.toNat) = c := by apply BitVec.eq_of_toNat_eq; simp only [BitVec.toNat_ofNat]; omega
  simp [decodeOp01, bits_rrWord_7_0 _ _ _ hfn, bits_rrWord_13_0 _ _ _ hfn, bits_rrWord_7_3 _ _ _ hfn,
    fld_rrWord_d _ _ _ hfn, fld_rrWord_a _ _ _ hfn, fld_rrWord_b _ _ _ hfn, fld_rrWord_fn, h3, hne, hs]

theorem set_decodes (d a b : RegField) {c : BitVec 3} (h : c.toNat < 6) :
    decodeControl (rrWord 0x01 d a b (0x30 + c.toNat)) = .ok (.set d a b c) :=
  decodeControl_rrWord (by omega) (decodeOp01_set d a b c) ((wellFormedInstr_set d a b c).2 h)

theorem decodeRaw_seti (d a : RegField) (c : BitVec 3) (j : BitVec 11) :
    decodeRaw (riWord 0x07 d a (c.toNat * 2 ^ 11 + j.toNat)) = some (.seti d a c j) := by
  have hc := c.isLt
  have hj := j.isLt
  have himm : c.toNat * 2 ^ 11 + j.toNat < 2 ^ 14 := by omega
  have hfc : fld 3 (c.toNat * 2 ^ 11 + j.toNat) 11 = c := by
    apply BitVec.eq_of_toNat_eq; simp only [fld, BitVec.toNat_ofNat]; omega
  have hfj : fld 11 (c.toNat * 2 ^ 11 + j.toNat) 0 = j := by
    apply BitVec.eq_of_toNat_eq; simp only [fld, BitVec.toNat_ofNat]; omega
  simp only [decodeRaw, riWord_opcode d a himm, decodeOp07, fld_riWord_d d a himm, fld_riWord_a d a himm,
    fld_riWord_imm d a (show 11 + 3 ≤ 14 by decide), fld_riWord_imm d a (show 0 + 11 ≤ 14 by decide), hfc, hfj]

theorem seti_decodes (d a : RegField) {c : BitVec 3} (j : BitVec 11) (h : c.toNat < 6) :
    decodeControl (riWord 0x07 d a (c.toNat * 2 ^ 11 + j.toNat)) = .ok (.seti d a c j) :=
  decodeControl_of_raw (decodeRaw_seti d a c j) ((wellFormedInstr_seti d a c j).2 h)

/-- A word whose instruction breaks a field rule is refused. -/
theorem decodeControl_illFormed {w : Nat} {i : Instr} (hr : decodeRaw w = some i) (hw : wellFormedInstr i = false) :
    decodeControl w = .error .fieldRule := by
  simp [decodeControl, hr, hw]

/-! ## The statement -/

/-- Settles O3: both are computed from `condHolds`, which is the rule of R421 for the conditions 0 to 5, and the field
rule, which every instruction that gets past its operands keeps, excludes 6 and 7. -/
theorem setWritesCondition : Obligations.SetWritesCondition := by
  intro d a b c j s
  have seti_exec : exec (.seti d a c j) s = unary (.seti d a c j) d a (fun x => b2w (condHolds c x (sext64 j))) s :=
    exec_seti ..
  have set_computes : Binary (.set d a b c) d a b s fun x y => b2w (condHolds c x y) :=
    binary_of_exec (exec_set ..) fun _ _ => rfl
  have seti_computes : Unary (.seti d a c j) d a s fun x => b2w (condHolds c x (j.signExtend 64)) :=
    unary_of_exec seti_exec fun _ => rfl
  refine ⟨writes_condition set_computes (wellFormedInstr_set d a b c).1,
    writes_condition seti_computes (wellFormedInstr_seti d a c j).1,
    fun h => ⟨set_decodes d a b h, seti_decodes d a j h⟩, fun h => ?reserved⟩
  case reserved =>
    have hw : wellFormedInstr (.seti d a c j) = false :=
      Bool.eq_false_iff.2 fun hw => Nat.not_lt.2 h ((wellFormedInstr_seti d a c j).1 hw)
    exact ⟨⟨_, decodeControl_illFormed (decodeRaw_seti d a c j) hw⟩, trapsAt_of_illFormed seti_exec hw⟩

end Sys2Proof.Proofs
end
